-- ==== Sys2Proof/Word.lean ====
section
/-! DEFINITION. The plain data types the whole model is written with, bytes and samples, and the two ways the model builds
a table of a fixed number of entries. A moment or a width in ticks of the 393.216 MHz link sampler (00 §4 "Time"), and a
performance position (R31), are plain natural numbers. -/

namespace Sys2Proof

/-- One byte as it crosses a command port or stands in a record. -/
abbrev Byte := BitVec 8

/-- One audio sample: 24 bits, two's complement (00 §4 "Samples"). -/
abbrev Sample := BitVec 24

/-- The table of `n` entries whose entry `i` is `f i`. -/
def tableOf {α : Type} (n : Nat) (f : Nat → α) : Vector α n :=
  ⟨⟨(List.range n).map f⟩, by simp⟩

/-- The table made by `f` from each index and the entry of `v` there. -/
def mapEntries {α β : Type} {n : Nat} (f : Nat → α → β) (v : Vector α n) : Vector β n :=
  ⟨⟨v.toList.mapIdx f⟩, by simp⟩

end Sys2Proof
end

