-- ==== Sys2Proof/Syntax.lean ====
section
/-! DEFINITION. The steps of the part: one constructor for each row of spec/opcode_table.json, with the row's operands.
A step of a command port carries the SCLK periods the controller clocks (R142); a step whose rule reads the time carries
the tick at which it is taken (DESIGN CHOICE, log 1). -/

namespace Sys2Proof

/-- The three command ports (09). -/
inductive Port where
  | p0 | p1 | p2
deriving DecidableEq, Repr

/-- The four stage links and their receivers (01). -/
inductive LinkId where
  | l0 | l1 | l2 | l3
deriving DecidableEq, Repr

/-- The levels of the data lanes D3 to D0 in one SCLK period: bit i is lane D i (R142, R163). -/
abbrev Lanes := BitVec 4

/-- R164: a step at a stage link taken after a boundary and before the framer's requests at the same event: a transition,
the edge timeout, LINK_RESTART, LINK_SETUP (DESIGN CHOICE, log 27). -/
inductive LinkStep where
  | transition (l : LinkId)
  | timeout (l : LinkId)
  | restart (p : Port) (clocks : List Lanes)
  | setup (p : Port) (clocks : List Lanes)
deriving DecidableEq, Repr

/-- R31, R164: the operand of a sample-period event: the tick by which it is taken, and the link steps taken after its
boundary and before the framer asks the links (DESIGN CHOICE, log 27). -/
structure SampleEvent where
  tick : Nat
  between : List LinkStep
deriving DecidableEq, Repr

/-- R145, R142: the operand of a receive timeout: the port, and the SCLK periods after the 2 ms up to the deassertion of
SEL, which are ignored (DESIGN CHOICE, log 4). -/
structure TimedOutFrame where
  port : Port
  rest : List Lanes
deriving DecidableEq, Repr

/-- One step of the part, a row of the opcode table. -/
inductive Instr where
  /-- R1: a transition on the line of link `l` at tick `t`. -/
  | lineTransition (l : LinkId) (t : Nat)
  /-- R3: link `l` has been silent for its timeout + 1 ticks at tick `t`. -/
  | edgeTimeout (l : LinkId) (t : Nat)
  /-- R19: command LINK_SETUP of port `p`, taken at tick `t`. -/
  | linkSetup (p : Port) (clocks : List Lanes) (t : Nat)
  /-- R20: command LINK_RESTART of port `p`, taken at tick `t`. -/
  | linkRestart (p : Port) (clocks : List Lanes) (t : Nat)
  /-- R21: command LINK_STATUS. -/
  | linkStatus (p : Port) (clocks : List Lanes)
  /-- R22: command LINK_COUNTERS. -/
  | linkCounters (p : Port) (clocks : List Lanes)
  /-- R23: a rising edge on WCLK at tick `t`. -/
  | wclkEdge (t : Nat)
  /-- R24: nominal + 17 ticks without a reference edge have passed at tick `t`. -/
  | latePeriod (t : Nat)
  /-- R24: two nominal periods without a reference edge have passed at tick `t`. -/
  | referenceAbsent (t : Nat)
  /-- R29: command CLOCK_SETUP of port `p`, taken at tick `t`. -/
  | clockSetup (p : Port) (clocks : List Lanes) (t : Nat)
  /-- R31, R164: a sample-period event. -/
  | samplePeriodEvent (t : SampleEvent)
  /-- R36: the sample-period event that is the boundary closing block 65534. -/
  | takeLengthLimit (t : Nat)
  /-- R31: the sample-period event at which the position reaches 2^48 - 1. -/
  | positionLimit (t : Nat)
  /-- R122: the sample-period event that is the boundary bringing the wait of port `p` to 0. -/
  | nextWaitExpiry (p : Port) (t : Nat)
  /-- R115: the engine's coded record is placed. -/
  | recordPlacement
  /-- R119: the engine's written record is published. -/
  | recordPublication
  /-- R33: command ARM. -/
  | arm (p : Port) (clocks : List Lanes)
  /-- R34: command DISARM. -/
  | disarm (p : Port) (clocks : List Lanes)
  /-- R35: command ROLL. -/
  | roll (p : Port) (clocks : List Lanes)
  /-- R37: command CLOSE. -/
  | close (p : Port) (clocks : List Lanes)
  /-- R39: command ABORT. -/
  | abort (p : Port) (clocks : List Lanes)
  /-- R43: command TRACK_MAP_SET. -/
  | trackMapSet (p : Port) (clocks : List Lanes)
  /-- R44: command TRACK_MAP_GET. -/
  | trackMapGet (p : Port) (clocks : List Lanes)
  /-- R69: command GAIN_SET. -/
  | gainSet (p : Port) (clocks : List Lanes)
  /-- R71: command GAIN_APPLY. -/
  | gainApply (p : Port) (clocks : List Lanes)
  /-- R72: command GAIN_DISCARD. -/
  | gainDiscard (p : Port) (clocks : List Lanes)
  /-- R73: command GAIN_GET. -/
  | gainGet (p : Port) (clocks : List Lanes)
  /-- R82: command ARCHIVE_SETUP. -/
  | archiveSetup (p : Port) (clocks : List Lanes)
  /-- R83: command ARCHIVE_GET. -/
  | archiveGet (p : Port) (clocks : List Lanes)
  /-- R99: command STREAM_SETUP. -/
  | streamSetup (p : Port) (clocks : List Lanes)
  /-- R100: command STREAM_GET. -/
  | streamGet (p : Port) (clocks : List Lanes)
  /-- R111: command STORE_SETUP. -/
  | storeSetup (p : Port) (clocks : List Lanes)
  /-- R120: command SUBSCRIBE. -/
  | subscribe (p : Port) (clocks : List Lanes)
  /-- R120: command UNSUBSCRIBE. -/
  | unsubscribe (p : Port) (clocks : List Lanes)
  /-- R121: command NEXT. -/
  | next (p : Port) (clocks : List Lanes)
  /-- R125: command RELEASE. -/
  | release (p : Port) (clocks : List Lanes)
  /-- R127: command FEED_STATUS. -/
  | feedStatus (p : Port) (clocks : List Lanes)
  /-- R132, R133: command CUE_ADD. -/
  | cueAdd (p : Port) (clocks : List Lanes)
  /-- R135: command CUE_DELETE. -/
  | cueDelete (p : Port) (clocks : List Lanes)
  /-- R136: command CUE_LIST. -/
  | cueList (p : Port) (clocks : List Lanes)
  /-- R137: the cue list takes the oldest waiting FAULT request. -/
  | faultRequestTaken
  /-- R143: a transfer whose transfer code is a command code. `clocks` are its SCLK periods so far; `ended` says that SEL
  was deasserted after them. A transfer that R147 ignores, or that ends before its first byte is whole, brings all its
  periods here (DESIGN CHOICE, log 4). -/
  | frameStart (p : Port) (clocks : List Lanes) (ended : Bool)
  /-- R145: SEL deasserted in RECEIVING before the frame is complete. -/
  | frameAbandoned (p : Port)
  /-- R145: 2 ms without an SCLK edge in an incomplete frame, with the rest of the assertion. -/
  | receiveTimeout (t : TimedOutFrame)
  /-- R146: a complete frame whose code names no command. -/
  | badCommand (p : Port) (clocks : List Lanes)
  /-- R149: a transfer whose transfer code is READ, with its SCLK periods so far: all of them where the port sends filler, or
  where the first byte is not whole (DESIGN CHOICE, log 4). -/
  | read (p : Port) (clocks : List Lanes)
  /-- R149: further SCLK periods in SENDING, then SEL deasserted. -/
  | responseEnd (p : Port) (clocks : List Lanes)
  /-- R153: command PORT_MODE. -/
  | portMode (p : Port) (clocks : List Lanes)
  /-- R156: command EVENTS. -/
  | events (p : Port) (clocks : List Lanes)
  /-- R157: command EVENT_MASK. -/
  | eventMask (p : Port) (clocks : List Lanes)
  /-- R158: command STATUS. -/
  | status (p : Port) (clocks : List Lanes)
  /-- R159: power-on, or the RESET line goes low, at tick `t`. -/
  | reset (t : Nat)
  /-- R159: the RESET line is released, or the part has started, at tick `t`. -/
  | resetEnd (t : Nat)
deriving DecidableEq, Repr

end Sys2Proof
end

