-- ==== Sys2Proof/Decode.lean ====
section
/-! DEFINITION. The reading of opcode-table words. No row of spec/opcode_table.json gives bits (98_reader.md: no row has
"fixed" or "fields"), so no word spells a step. The bytes of command frames are read in Machine/Operands.lean. -/

namespace Sys2Proof

/-- The step that the `nbits`-bit word `w` spells by the table's bits: none, since no row gives bits. -/
def decodeTableWord (_nbits _w : Nat) : Option Instr := none

end Sys2Proof
end

