-- ==== Sys2Proof/Config.lean ====
section
/-! DEFINITION. What the spec leaves open: the one free value of the model. It has no body, so nothing can be proved of
it, and every claim holds whatever it is. -/

namespace Sys2Proof

/-- DESIGN CHOICE (log 13), safe: the 48 bits a response shows for a position that a rule computes at or above 2^48
(ROLL, CLOSE and GAIN_APPLY in the part block before the position stops, R31). The spec states no such value. -/
opaque Config.positionBeyond48Bits : Nat → BitVec 48

end Sys2Proof
end

