-- ==== Sys2Proof/Machine/State.lean ====
section
/-! DEFINITION. The state of the part as plain data: the state tables of chapters 1 to 9, block by block, and the state
after reset (each chapter's column "After reset"). Fields marked "own" are the model's, implied by the spec (DESIGN CHOICE,
log 21). -/

namespace Sys2Proof.Machine

/-! ### Names shared by the blocks -/

/-- One value for each command port. -/
structure PerPort (α : Type) where
  p0 : α
  p1 : α
  p2 : α
deriving DecidableEq, Repr

/-- One value for each stage link. -/
structure PerLink (α : Type) where
  l0 : α
  l1 : α
  l2 : α
  l3 : α
deriving DecidableEq, Repr

/-! ### Stage link receivers (01) -/

/-- 01 §1.5: the four lock states. -/
inductive LockState where
  | disabled | hunt | sync | locked
deriving DecidableEq, Repr

/-- 01 §1.4: the three phases of the assembler. -/
inductive AsmPhase where
  | waitMark | markTail | cells
deriving DecidableEq, Repr

/-- 01 §1.2: the eight settings of LINK_SETUP (R19), in ticks. -/
structure LinkSettings where
  shortLo : Nat
  shortHi : Nat
  longLo : Nat
  longHi : Nat
  markLo : Nat
  markHi : Nat
  filter : Nat
  timeout : Nat
deriving DecidableEq, Repr

/-- 01 §1.2: one slot of a queued frame. -/
structure SlotEntry where
  sample : Sample
  valid : Bool
  overload : Bool
  parityFailed : Bool
deriving DecidableEq, Repr

/-- A frame held by a receiver: its slot entries, slot 0 first (sixteen of them, R8). -/
abbrev LinkFrame := List SlotEntry

/-- The frame in assembly: the slots done, the cells of the slot under way (cell 0 first), and whether a SHORT has opened
a 1 cell (R5). -/
structure PartialFrame where
  slots : List SlotEntry
  cells : List Bool
  halfOne : Bool
deriving DecidableEq, Repr

/-- R18: the seven counters of a receiver, each 0 to 65535. -/
structure LinkCounters where
  widthViolations : Nat
  tagMismatches : Nat
  parityErrors : Nat
  badFrames : Nat
  lockLosses : Nat
  slipRepeats : Nat
  slipDrops : Nat
deriving DecidableEq, Repr

/-- 01 §1.2: one link receiver. -/
structure LinkRx where
  enabled : Bool
  lock : LockState
  settings : LinkSettings
  carry : Nat
  timedOut : Bool
  phase : AsmPhase
  markDue : Bool
  frame : Option PartialFrame
  goodRun : Nat
  badRun : Nat
  fifo : List LinkFrame
  ready : Bool
  lastFrame : Option LinkFrame
  counters : LinkCounters
  /-- Own: the tick at which the interval under measurement began; none when the next transition only starts
  measurement (R1). -/
  measuredFrom : Option Nat
  /-- Own: the tick of the most recent transition, from which the edge timeout counts (R3; DESIGN CHOICE, log 20). -/
  quietSince : Nat
deriving DecidableEq, Repr

/-! ### Timebase and take controller (02) -/

/-- R29: the timing reference. -/
inductive Reference where
  | none | wclk | link (l : LinkId)
deriving DecidableEq, Repr

/-- R29: the session rate. -/
inductive SessionRate where
  | hz48000 | hz96000
deriving DecidableEq, Repr

/-- 02 §2.3: the timebase states. -/
inductive ClockState where
  | free | acquire | locked | holdover
deriving DecidableEq, Repr

/-- 02 §2.1: the timebase. -/
structure Timebase where
  reference : Reference
  rate : SessionRate
  blockLength : Nat
  nominal : Nat
  clock : ClockState
  goodCount : Nat
  lastEdge : Option Nat
  absenceStart : Nat
  lastSample : Nat
  position : Nat
  /-- Own: the tick at which the oscillator's next sample-period event falls (R25, R28; DEDUCED, log 7); of no account in
  LOCKED. -/
  nextOscillator : Nat
  /-- Own: the ticks of the reference edges that end a good period in LOCKED (R27) and whose sample-period events have not
  been taken, oldest first (DEDUCED, log 6). -/
  edgesDue : List Nat
deriving DecidableEq, Repr

/-- 02 §2.6: the take states. -/
inductive TakeState where
  | idle | armed | starting | rolling | closing
deriving DecidableEq, Repr

/-- 02 §2.6: the end request. -/
inductive EndRequest where
  | none | close | abort
deriving DecidableEq, Repr

/-- 02 §2.6: the take controller. -/
structure Take where
  state : TakeState
  number : Nat
  sequence : Nat
  startPosition : Nat
  gathering : Bool
  endRequest : EndRequest
  endPosition : Nat
deriving DecidableEq, Repr

/-! ### Capture framer (03) -/

/-- 03 §3.2: one entry of the track map. -/
structure TrackEntry where
  enabled : Bool
  link : LinkId
  slot : Fin 16
deriving DecidableEq, Repr

/-- 03 §3.1: the five marks of a track in a block. -/
structure TrackMarks where
  absent : Bool
  invalid : Bool
  held : Bool
  overload : Bool
  slip : Bool
deriving DecidableEq, Repr

/-- 03 §3.7: the states of a gather buffer. -/
inductive BufferState where
  | free | filling | coding
deriving DecidableEq, Repr

/-- The 68 samples of one gathered sample period (R53). -/
structure SampleRow where
  tracks : Vector Sample 64
  buses : Vector Sample 4
deriving DecidableEq, Repr

/-- 03 §3.7: one gather buffer. `rows` holds the sample periods gathered so far, offset 0 first; any other offset reads 0
(DESIGN CHOICE, log 17). -/
structure GatherBuffer where
  state : BufferState
  start : Nat
  rows : List SampleRow
  marks : Vector TrackMarks 64
  clips : Vector Bool 4
  holdover : Bool
  take : Nat
  sequence : Nat
deriving DecidableEq, Repr

/-- The two gather buffers' names. -/
inductive BufferId where
  | b0 | b1
deriving DecidableEq, Repr

/-- 03 §3.1: the capture framer. -/
structure Framer where
  map : Vector TrackEntry 64
  lastGood : Vector Sample 64
  buffer0 : GatherBuffer
  buffer1 : GatherBuffer
deriving DecidableEq, Repr

/-! ### Mix engine (04) -/

/-- R61: one gain entry. -/
structure GainEntry where
  gain : BitVec 16
  inverted : Bool
deriving DecidableEq, Repr

/-- 04 §4.1: a gain table, by bus and track. -/
abbrev GainTable := Vector (Vector GainEntry 64) 4

/-- R66: the ramp of one bus. -/
structure Ramp where
  ramping : Bool
  starting : Vector (BitVec 16) 64
deriving DecidableEq, Repr

/-- 04 §4.1: the mix engine. -/
structure Mix where
  active : GainTable
  edited : GainTable
  applyMark : Option Nat
  ramps : Vector Ramp 4
  clipFlags : Vector Bool 4
deriving DecidableEq, Repr

/-! ### Cue list (08) -/

/-- 08 §8.1: the kinds of a cue. -/
inductive CueKind where
  | mark | sectionStart | sectionEnd | fault
deriving DecidableEq, Repr

/-- 08 §8.1: who added a cue. -/
inductive CueOrigin where
  | port (p : Port) | part
deriving DecidableEq, Repr

/-- 08 §8.1: one cue. -/
structure Cue where
  id : Nat
  position : Nat
  kind : CueKind
  label : List Byte
  origin : CueOrigin
deriving DecidableEq, Repr

/-- R137: one waiting FAULT request. -/
structure FaultRequest where
  label : List Byte
  position : Nat
deriving DecidableEq, Repr

/-- 08 §8.1: the cue list. -/
structure Cues where
  entries : List Cue
  nextId : Nat
  requests : List FaultRequest
deriving DecidableEq, Repr

/-! ### Coding engine (05) and rate controller (06) -/

/-- 05 §5.1: the engine states. -/
inductive EngineState where
  | idle | stream | archive | ending
deriving DecidableEq, Repr

/-- R76: the stream decision. -/
structure StreamDecision where
  shift : Nat
  present : Nat
  shed : Bool
  overrun : Bool
deriving DecidableEq, Repr

/-- Own: the END records under way: the ABORTED flag as fixed at the request, and whether the stream END has been
published (R80). -/
structure EndJob where
  aborted : Bool
  streamDone : Bool
deriving DecidableEq, Repr

/-- 05 §5.1: the coding engine. -/
structure Engine where
  state : EngineState
  block : Option BufferId
  archiveQueued : Bool
  cueCopy : List Cue
  decision : Option StreamDecision
  includeMixes : Bool
  endJob : Option EndJob
deriving DecidableEq, Repr

/-- 05 §5.3: a channel source: a track (source id 0 to 63) or a bus (64 to 67). -/
inductive Source where
  | track (t : Fin 64)
  | bus (b : Fin 4)
deriving DecidableEq, Repr

/-- 06 §6.1: the stream rate controller. Budget and capacity are derived (R97). -/
structure RateControl where
  roster : List Source
  rate : Nat
  factor : Nat
  level : Nat
  prevShift : Nat
deriving DecidableEq, Repr

/-! ### Block store and feeds (07) -/

/-- The two feeds. -/
inductive Feed where
  | archive | stream
deriving DecidableEq, Repr

/-- 07 §7.2: the kinds of a record. -/
inductive RecordKind where
  | block | ending
deriving DecidableEq, Repr

/-- R114: the states of a record. -/
inductive RecordState where
  | filling | held | spent
deriving DecidableEq, Repr

/-- R113: the identity of a record. -/
structure RecordId where
  feed : Feed
  take : Nat
  sequence : Nat
deriving DecidableEq, Repr

/-- 07 §7.2: a record in a region. Its size is the number of its bytes, which are kept with it (DESIGN CHOICE, log 16). -/
structure Record where
  id : RecordId
  kind : RecordKind
  bytes : List Byte
  pages : Nat
  firstPage : Nat
  state : RecordState
  holders : PerPort Bool
deriving DecidableEq, Repr

/-- 07 §7.1: one region: its size in pages, its ring (oldest record first), the record being written, its write point (a
page of the store) and the identity last published. -/
structure Region where
  size : Nat
  ring : List Record
  filling : Option Record
  writePoint : Nat
  lastPublished : Option RecordId
deriving DecidableEq, Repr

/-- 07: the block store. -/
structure Store where
  archive : Region
  stream : Region
deriving DecidableEq, Repr

/-- R123: a record being sent in a NEXT answer: its size, how many of its bytes have been sent, and whether it left the
store before they all were. -/
structure Transfer where
  id : RecordId
  size : Nat
  reached : Nat
  cut : Bool
deriving DecidableEq, Repr

/-- 07 §7.4: the feed state of a port. -/
structure FeedState where
  subscription : Option Feed
  cursor : Option RecordId
  lost : Nat
  lastTaken : Option RecordId
  arming : Bool
  wait : Option Nat
  transfer : Option Transfer
deriving DecidableEq, Repr

/-! ### Command ports (09) -/

/-- R153: the lane modes. -/
inductive LaneMode where
  | single | quad
deriving DecidableEq, Repr

/-- 09 §9.3: the port phases. -/
inductive PortPhase where
  | idle | receiving | executing | waiting | responseReady | sending
deriving DecidableEq, Repr

/-- 09 §9.5: the status codes. -/
inductive Status where
  | ok | okLate | okClamped | none | gone | busy | state | range | conflict | full | notFound | badCommand | badLength
deriving DecidableEq, Repr

/-- The data of a response: bytes as formed, or the answer of NEXT, whose record bytes are read from the store as they are
sent (R121, R123). -/
inductive Payload where
  | bytes (data : List Byte)
  | record (lost : Nat) (id : RecordId) (size : Nat)
deriving DecidableEq, Repr

/-- R149: a response. -/
structure Response where
  status : Status
  payload : Payload
deriving DecidableEq, Repr

/-- R144: the receive buffer: the command code, the parameter length, the bytes kept (at most 250), and how many
parameter bytes have been clocked in. -/
structure ReceiveBuffer where
  code : Option Byte
  length : Option Byte
  params : List Byte
  received : Nat
deriving DecidableEq, Repr

/-- 09 §9.7: a set of the nine event kinds; bit k is the kind of bit k in R163's table. -/
abbrev EventSet := BitVec 9

/-- R142, R163: what a port drives on the data lanes in one SCLK period: nothing, D1 alone (SINGLE), or D3 to D0 (QUAD). -/
inductive LaneDrive where
  | released
  | d1 (bit : Bool)
  | all (lanes : Lanes)
deriving DecidableEq, Repr

/-- 09 §9.1: one command port. -/
structure PortState where
  laneMode : LaneMode
  modeDue : Option LaneMode
  phase : PortPhase
  rx : ReceiveBuffer
  response : Option Response
  sent : Nat
  inputDropped : Bool
  responseDiscarded : Bool
  restIgnored : Bool
  events : EventSet
  mask : EventSet
  readyHigh : Bool
  attnAsserted : Bool
  /-- Own: the SCLK periods of a byte that is not yet whole (R142). -/
  clocks : List Lanes
  /-- Own: what the port has driven on its lanes in each SCLK period of the present transfer, filler included (R142, R149,
  R163). -/
  driven : List LaneDrive
deriving DecidableEq, Repr

/-! ### The part -/

/-- The part: its nine blocks, the latest tick, the RESET line, and the queue of waiting steps. -/
structure State where
  links : PerLink LinkRx
  timebase : Timebase
  take : Take
  framer : Framer
  mix : Mix
  engine : Engine
  rate : RateControl
  store : Store
  feeds : PerPort FeedState
  cues : Cues
  ports : PerPort PortState
  /-- Own: the latest tick reached (DESIGN CHOICE, log 1). -/
  now : Nat
  /-- R159: RESET is held low, or the part has not yet started after power-on. -/
  resetHeld : Bool
  /-- The queue of waiting steps, first in, first out. -/
  pending : List Instr
deriving DecidableEq, Repr

/-- The faults that end a step. There are none: the spec gives every step an effect in every state, so no constructor
raises one, which is safe. -/
inductive Fault where
deriving DecidableEq, Repr

/-- The refusals that end a step. -/
inductive Refusal where
  /-- Raised by Machine/Dispatch.lean alone, for a row that has no meaning yet; no row is in that case. Safe. -/
  | notModelled (mnemonic : String)
deriving DecidableEq, Repr

/-! ### After reset -/

/-- R18: counters after reset. -/
def LinkCounters.zero : LinkCounters := ⟨0, 0, 0, 0, 0, 0, 0⟩

/-- 01 §1.2, column "After reset". -/
def LinkRx.reset : LinkRx where
  enabled := false
  lock := .disabled
  settings := ⟨3, 6, 7, 10, 11, 15, 1, 24⟩
  carry := 0
  timedOut := false
  phase := .waitMark
  markDue := false
  frame := none
  goodRun := 0
  badRun := 0
  fifo := []
  ready := false
  lastFrame := none
  counters := LinkCounters.zero
  measuredFrom := none
  quietSince := 0

/-- 02 §2.1, column "After reset", with `t` the reset time. -/
def Timebase.resetAt (t : Nat) : Timebase where
  reference := .none
  rate := .hz96000
  blockLength := 960
  nominal := 4096
  clock := .free
  goodCount := 0
  lastEdge := none
  absenceStart := t
  lastSample := t
  position := 0
  nextOscillator := t + 4096
  edgesDue := []

/-- 02 §2.6, column "After reset". -/
def Take.reset : Take := ⟨.idle, 0, 0, 0, false, .none, 0⟩

/-- The link of number `n` mod 4. -/
def LinkId.ofNumber (n : Nat) : LinkId :=
  match n % 4 with
  | 0 => .l0
  | 1 => .l1
  | 2 => .l2
  | _ => .l3

/-- R42: track t enabled, link t div 16, slot t mod 16. -/
def TrackEntry.reset (t : Nat) : TrackEntry := ⟨true, LinkId.ofNumber (t / 16), ⟨t % 16, Nat.mod_lt _ (by decide)⟩⟩

/-- No mark set. -/
def TrackMarks.clear : TrackMarks := ⟨false, false, false, false, false⟩

/-- 03 §3.1, column "After reset". -/
def GatherBuffer.reset : GatherBuffer where
  state := .free
  start := 0
  rows := []
  marks := tableOf 64 fun _ => TrackMarks.clear
  clips := tableOf 4 fun _ => false
  holdover := false
  take := 0
  sequence := 0

/-- 03 §3.1, column "After reset". -/
def Framer.reset : Framer where
  map := tableOf 64 TrackEntry.reset
  lastGood := tableOf 64 fun _ => 0
  buffer0 := GatherBuffer.reset
  buffer1 := GatherBuffer.reset

/-- R61: M0 passes T0 and M1 passes T1 at unity; every other entry is silent. -/
def GainTable.reset : GainTable :=
  tableOf 4 fun b => tableOf 64 fun t => ⟨if b = t ∧ b < 2 then 32768 else 0, false⟩

/-- 04 §4.1, column "After reset". -/
def Mix.reset : Mix where
  active := GainTable.reset
  edited := GainTable.reset
  applyMark := none
  ramps := tableOf 4 fun _ => ⟨false, tableOf 64 fun _ => 0⟩
  clipFlags := tableOf 4 fun _ => false

/-- 05 §5.1, column "After reset". -/
def Engine.reset : Engine := ⟨.idle, none, false, [], none, false, none⟩

/-- 06 §6.1, column "After reset". -/
def RateControl.reset : RateControl := ⟨[.bus 0, .bus 1], 1536, 4, 0, 0⟩

/-- R129: both regions empty, RA 1792, RS 256, write points at the first pages. -/
def Store.reset : Store := ⟨⟨1792, [], none, 0, none⟩, ⟨256, [], none, 1792, none⟩⟩

/-- 07 §7.4, column "After reset". -/
def FeedState.reset : FeedState := ⟨none, none, 0, none, false, none, none⟩

/-- 08 §8.1, column "After reset". -/
def Cues.reset : Cues := ⟨[], 1, []⟩

/-- An empty receive buffer. -/
def ReceiveBuffer.empty : ReceiveBuffer := ⟨none, none, [], 0⟩

/-- 09 §9.1, column "After reset", READY as given: it is low while RESET is held and high once the port is IDLE (R159). -/
def PortState.reset (ready : Bool) : PortState where
  laneMode := .single
  modeDue := none
  phase := .idle
  rx := ReceiveBuffer.empty
  response := none
  sent := 0
  inputDropped := false
  responseDiscarded := false
  restIgnored := false
  events := 0
  mask := 0
  readyHigh := ready
  attnAsserted := false
  clocks := []
  driven := []

/-- Every block after reset, at reset time `t`, with RESET still held or not, and an empty queue. -/
def State.resetAt (t : Nat) (held : Bool) : State where
  links := ⟨LinkRx.reset, LinkRx.reset, LinkRx.reset, LinkRx.reset⟩
  timebase := Timebase.resetAt t
  take := Take.reset
  framer := Framer.reset
  mix := Mix.reset
  engine := Engine.reset
  rate := RateControl.reset
  store := Store.reset
  feeds := ⟨FeedState.reset, FeedState.reset, FeedState.reset⟩
  cues := Cues.reset
  ports := ⟨PortState.reset (!held), PortState.reset (!held), PortState.reset (!held)⟩
  now := t
  resetHeld := held
  pending := []

/-- The part right after reset (R159): the reset has ended, each port is IDLE with READY high, and the reset time is
tick 0 (DESIGN CHOICE, log 15). -/
def State.reset : State := State.resetAt 0 false

end Sys2Proof.Machine
end

