-- ==== Sys2Proof/Machine/Ops.lean ====
section
/-! DEFINITION. The operations every block shares: reading and writing the state of one port, link or region, saturating
counts, positions and boundaries, and the big-endian bytes of responses and records. -/

namespace Sys2Proof.Machine

/-! ### One value of each port, link and region -/

/-- The value of port `p`. -/
def PerPort.get {α : Type} (v : PerPort α) : Port → α
  | .p0 => v.p0
  | .p1 => v.p1
  | .p2 => v.p2

/-- `v` with the value of port `p` replaced. -/
def PerPort.set {α : Type} (v : PerPort α) (p : Port) (a : α) : PerPort α :=
  match p with
  | .p0 => { v with p0 := a }
  | .p1 => { v with p1 := a }
  | .p2 => { v with p2 := a }

/-- The value each port's `f` gives. -/
def PerPort.of {α : Type} (f : Port → α) : PerPort α := ⟨f .p0, f .p1, f .p2⟩

/-- The value of link `l`. -/
def PerLink.get {α : Type} (v : PerLink α) : LinkId → α
  | .l0 => v.l0
  | .l1 => v.l1
  | .l2 => v.l2
  | .l3 => v.l3

/-- `v` with the value of link `l` replaced. -/
def PerLink.set {α : Type} (v : PerLink α) (l : LinkId) (a : α) : PerLink α :=
  match l with
  | .l0 => { v with l0 := a }
  | .l1 => { v with l1 := a }
  | .l2 => { v with l2 := a }
  | .l3 => { v with l3 := a }

/-- The ports in the order Port 0, Port 1, Port 2. -/
def allPorts : List Port := [.p0, .p1, .p2]

/-- The number 0 to 2 of a port. -/
def portNumber : Port → Nat
  | .p0 => 0
  | .p1 => 1
  | .p2 => 2

/-- The number 0 to 3 of a link. -/
def linkNumber : LinkId → Nat
  | .l0 => 0
  | .l1 => 1
  | .l2 => 2
  | .l3 => 3

/-- The link of a number, if it is 0 to 3 (01 §1.8). -/
def linkOfNumber? : Nat → Option LinkId
  | 0 => some .l0
  | 1 => some .l1
  | 2 => some .l2
  | 3 => some .l3
  | _ => none

/-- The receiver of link `l`. -/
def State.link (s : State) (l : LinkId) : LinkRx := s.links.get l

/-- `s` with the receiver of link `l` replaced. -/
def State.setLink (s : State) (l : LinkId) (r : LinkRx) : State := { s with links := s.links.set l r }

/-- The command port `p`. -/
def State.port (s : State) (p : Port) : PortState := s.ports.get p

/-- `s` with the command port `p` replaced. -/
def State.setPort (s : State) (p : Port) (q : PortState) : State := { s with ports := s.ports.set p q }

/-- The feed state of port `p`. -/
def State.feed (s : State) (p : Port) : FeedState := s.feeds.get p

/-- `s` with the feed state of port `p` replaced. -/
def State.setFeed (s : State) (p : Port) (f : FeedState) : State := { s with feeds := s.feeds.set p f }

/-- The region of a feed. -/
def Store.region (st : Store) : Feed → Region
  | .archive => st.archive
  | .stream => st.stream

/-- `st` with the region of a feed replaced. -/
def Store.setRegion (st : Store) (f : Feed) (r : Region) : Store :=
  match f with
  | .archive => { st with archive := r }
  | .stream => { st with stream := r }

/-- The region of a feed. -/
def State.region (s : State) (f : Feed) : Region := s.store.region f

/-- `s` with the region of a feed replaced. -/
def State.setRegion (s : State) (f : Feed) (r : Region) : State := { s with store := s.store.setRegion f r }

/-- A gather buffer by name. -/
def Framer.buffer (fr : Framer) : BufferId → GatherBuffer
  | .b0 => fr.buffer0
  | .b1 => fr.buffer1

/-- `fr` with a gather buffer replaced. -/
def Framer.setBuffer (fr : Framer) (i : BufferId) (g : GatherBuffer) : Framer :=
  match i with
  | .b0 => { fr with buffer0 := g }
  | .b1 => { fr with buffer1 := g }

/-- `s` with a gather buffer replaced. -/
def State.setBuffer (s : State) (i : BufferId) (g : GatherBuffer) : State :=
  { s with framer := s.framer.setBuffer i g }

/-- The buffer that is FILLING, if one is (03 §3.7: at most one). -/
def Framer.filling? (fr : Framer) : Option BufferId :=
  if fr.buffer0.state = .filling then some .b0
  else if fr.buffer1.state = .filling then some .b1
  else none

/-! ### Time, counts, positions -/

/-- The tick at which a step given tick `t` is taken: time does not run backwards (DESIGN CHOICE, log 1). -/
def State.moment (s : State) (t : Nat) : Nat := max s.now t

/-- `s` with the time moved to tick `t`, if that is later (DESIGN CHOICE, log 1). -/
def State.advance (s : State) (t : Nat) : State := { s with now := max s.now t }

/-- 00 §4 "Counters": a 16-bit count that stops at 65535, after `k` more events. -/
def count16 (n k : Nat) : Nat := min (n + k) 65535

/-- R29, 02 §2.1: the block length of a session rate. -/
def blockLengthOf : SessionRate → Nat
  | .hz48000 => 480
  | .hz96000 => 960

/-- R29, 02 §2.1: the nominal period of a session rate, in ticks. -/
def nominalOf : SessionRate → Nat
  | .hz48000 => 8192
  | .hz96000 => 4096

/-- R31: the position at which the count stops, 2^48 - 1. -/
def lastPosition : Nat := 2 ^ 48 - 1

/-- The smallest multiple of `n` greater than position `p` (R35, R37, R71). -/
def boundaryAfter (n : Nat) (p : Nat) : Nat := (p / n + 1) * n

/-- The position of the next block boundary: the block length that governs it is that of the stored session rate, which
takes effect from the next sample-period event (R29, R32; DEDUCED, log 12). -/
def State.nextBoundary (s : State) : Nat := boundaryAfter (blockLengthOf s.timebase.rate) s.timebase.position

/-! ### Bytes and bits -/

/-- The low `k` bytes of a number, most significant byte first (00 §4 "Byte and bit order"). -/
def bytesOf : (k n : Nat) → List Byte
  | 0, _ => []
  | k + 1, n => BitVec.ofNat 8 (n / 256 ^ k) :: bytesOf k n

/-- The unsigned number of some bytes, most significant byte first. -/
def numberOf (bs : List Byte) : Nat := bs.foldl (fun n b => n * 256 + b.toNat) 0

/-- A position as 6 bytes; at or above 2^48 a free value (R31; DESIGN CHOICE, log 13). -/
def positionBytes (p : Nat) : List Byte :=
  if p < 2 ^ 48 then bytesOf 6 p else bytesOf 6 (Config.positionBeyond48Bits p).toNat

/-- The low `w` bits of a number, most significant bit first. -/
def bitsOf : (w n : Nat) → List Bool
  | 0, _ => []
  | w + 1, n => n.testBit w :: bitsOf w n

/-- The number of some bits, most significant bit first. -/
def numberOfBits (bs : List Bool) : Nat := bs.foldl (fun n b => 2 * n + b.toNat) 0

/-- An integer as `w` two's-complement bits, most significant bit first. -/
def signedBits (w : Nat) (x : Int) : List Bool := bitsOf w (BitVec.ofInt w x).toNat

/-- Bits packed into bytes, most significant bit first; a last part byte is completed with zero bits (R92, R162). -/
def packBits : List Bool → List Byte
  | a :: b :: c :: d :: e :: f :: g :: h :: rest =>
    BitVec.ofNat 8 (numberOfBits [a, b, c, d, e, f, g, h]) :: packBits rest
  | [] => []
  | short => [BitVec.ofNat 8 (numberOfBits (short ++ List.replicate (8 - short.length) false))]

/-- A yes or no, on or off, as its code (R163). -/
def flagByte (b : Bool) : Byte := if b then 1 else 0

end Sys2Proof.Machine
end

