-- ==== Sys2Proof/Machine/Flags.lean ====
section
/-! DEFINITION. Flags and events: the pending event sets, the masks, the ATTN and READY lines, the flags byte of a
response, and the track marks. -/

namespace Sys2Proof.Machine

/-! ### Events (09 §9.7) -/

/-- The nine kinds of event. -/
inductive EventKind where
  | recReady | lagged | linkChange | clockChange | takeChange | shed | mixClip | cueChange | configChange
deriving DecidableEq, Repr

/-- R163: the bit of an event kind in a mask or set. -/
def eventBit : EventKind → Nat
  | .recReady => 0
  | .lagged => 1
  | .linkChange => 2
  | .clockChange => 3
  | .takeChange => 4
  | .shed => 5
  | .mixClip => 6
  | .cueChange => 7
  | .configChange => 8

/-- The set holding one kind. -/
def eventOf (k : EventKind) : EventSet := 1#9 <<< eventBit k

/-- R155: ATTN is asserted while the pending set and the mask have a kind in common. -/
def attnOf (events mask : EventSet) : Bool := events &&& mask ≠ 0

/-- A port with the given pending set and mask, ATTN following both at once (R155). -/
def PortState.withEvents (q : PortState) (events mask : EventSet) : PortState :=
  { q with events := events, mask := mask, attnAsserted := attnOf events mask }

/-- R154: an event raised at a port. -/
def PortState.raise (q : PortState) (k : EventKind) : PortState := q.withEvents (q.events ||| eventOf k) q.mask

/-- R154: raise event `k` at port `p`. -/
def State.raiseAt (s : State) (k : EventKind) (p : Port) : State := s.setPort p ((s.port p).raise k)

/-- R154: raise event `k` at every port. -/
def State.raiseAll (s : State) (k : EventKind) : State :=
  { s with ports := ⟨s.ports.p0.raise k, s.ports.p1.raise k, s.ports.p2.raise k⟩ }

/-- R154: raise event `k` at the two ports other than `p`. -/
def State.raiseOthers (s : State) (k : EventKind) (p : Port) : State :=
  { s with ports := PerPort.of fun q => if q = p then s.port q else (s.port q).raise k }

/-! ### READY and the flags byte -/

/-- R151: READY is low in EXECUTING and WAITING and high in the other phases. -/
def readyIn : PortPhase → Bool
  | .executing => false
  | .waiting => false
  | .idle => true
  | .receiving => true
  | .responseReady => true
  | .sending => true

/-- A port moved to a phase, READY following (R151). -/
def PortState.toPhase (q : PortState) (ph : PortPhase) : PortState := { q with phase := ph, readyHigh := readyIn ph }

/-- R163: the flags byte: bit 7 INPUT_DROPPED, bit 6 RESPONSE_DISCARDED, bits 5 to 0 sent as 0. -/
def flagsByte (q : PortState) : Byte :=
  (if q.inputDropped then 0x80 else 0) ||| (if q.responseDiscarded then 0x40 else 0)

/-! ### Track and bus marks (R47 to R53) -/

/-- R52: the marks of every enabled track of link `l` with SLIP set. -/
def slipMarks (map : Vector TrackEntry 64) (l : LinkId) (marks : Vector TrackMarks 64) : Vector TrackMarks 64 :=
  mapEntries (fun t m =>
    match map[t]? with
    | some e => if e.enabled && decide (e.link = l) then { m with slip := true } else m
    | none => m) marks

/-- R16, R52: a slip of link `l` reported to the framer marks the block being gathered, if one is. -/
def State.reportSlip (s : State) (l : LinkId) : State :=
  if s.take.gathering then
    match s.framer.filling? with
    | some i =>
      let g := s.framer.buffer i
      s.setBuffer i { g with marks := slipMarks s.framer.map l g.marks }
    | none => s
  else s

end Sys2Proof.Machine
end

