-- ==== Sys2Proof/Machine/Operands.lean ====
section
/-! DEFINITION. What crosses a port and what its bytes stand for: bytes on the data lanes (R142, R163), command frames
(R144), parameter codes (R163), command codes and lengths (10 §10.5), status codes (10 §10.6). -/

namespace Sys2Proof.Machine

/-! ### Bytes on the lanes -/

/-- R163: the byte sent with READ as its transfer code. -/
def readCode : Byte := 0x00

/-- R163: the filler byte. -/
def fillerByte : Byte := 0xFF

/-- R163, SINGLE: bit 7 of a byte on D0 in the first of eight SCLK periods, down to bit 0 in the eighth. Gives the whole
bytes and the periods of a byte not yet whole (R142). -/
def singleBytes : List Lanes → List Byte × List Lanes
  | a :: b :: c :: d :: e :: f :: g :: h :: rest =>
    let byte := BitVec.ofNat 8 (numberOfBits ([a, b, c, d, e, f, g, h].map fun x => x.getLsbD 0))
    let more := singleBytes rest
    (byte :: more.1, more.2)
  | short => ([], short)

/-- R163, QUAD: bits 7 to 4 on D3 to D0 in the first of two SCLK periods, bits 3 to 0 in the second. -/
def quadBytes : List Lanes → List Byte × List Lanes
  | a :: b :: rest =>
    let more := quadBytes rest
    (BitVec.append a b :: more.1, more.2)
  | short => ([], short)

/-- The whole bytes some SCLK periods carry in a lane mode, and the periods left over. -/
def bytesIn : LaneMode → List Lanes → List Byte × List Lanes
  | .single => singleBytes
  | .quad => quadBytes

/-- R163: the SCLK periods that carry one byte in a lane mode (in SINGLE mode on D0, the other lanes low). -/
def periodsOfByte : LaneMode → Byte → List Lanes
  | .single, b => (bitsOf 8 b.toNat).map fun x => if x then 1#4 else 0#4
  | .quad, b => [b.extractLsb' 4 4, b.extractLsb' 0 4]

/-- R163: the SCLK periods that carry some bytes in a lane mode. -/
def periodsOf (m : LaneMode) (bs : List Byte) : List Lanes := bs.flatMap (periodsOfByte m)

/-- R142: the SCLK periods of one byte in a lane mode. -/
def bytePeriods : LaneMode → Nat
  | .single => 8
  | .quad => 2

/-- R142, R163: a byte out of the port: bit 7 on D1 in the first of eight periods down to bit 0 in the eighth (SINGLE), or
bits 7 to 4 on D3 to D0 in the first of two periods and bits 3 to 0 in the second (QUAD). -/
def drivenByte : LaneMode → Byte → List LaneDrive
  | .single, b => (bitsOf 8 b.toNat).map .d1
  | .quad, b => [.all (b.extractLsb' 4 4), .all (b.extractLsb' 0 4)]

/-- R142: what the port drives in `n` SCLK periods in which bytes come in: filler on D1 in SINGLE mode, nothing in QUAD. -/
def fillerIn (m : LaneMode) (n : Nat) : List LaneDrive :=
  List.replicate n (match m with
    | .single => .d1 true
    | .quad => .released)

/-- R142, R163: `n` SCLK periods of filler out of the port: D1 high, or all four lanes high. -/
def fillerOut (m : LaneMode) (n : Nat) : List LaneDrive :=
  List.replicate n (match m with
    | .single => .d1 true
    | .quad => .all 0xF)

/-! ### Command frames -/

/-- A complete command frame: its code, the declared length L, and the parameter bytes kept (R144). -/
structure Frame where
  code : Byte
  length : Nat
  params : List Byte
deriving DecidableEq, Repr

/-- R144: one byte clocked into the receive buffer. Bytes after the frame is complete are ignored, and at most 250
parameter bytes are kept. -/
def ReceiveBuffer.clockByte (rx : ReceiveBuffer) (b : Byte) : ReceiveBuffer :=
  match rx.code, rx.length with
  | none, _ => { rx with code := some b }
  | some _, none => { rx with length := some b }
  | some _, some n =>
    if rx.received < n.toNat then
      { rx with received := rx.received + 1, params := if rx.received < 250 then rx.params ++ [b] else rx.params }
    else rx

/-- R144: the frame in the receive buffer, once it is complete. -/
def ReceiveBuffer.frame? (rx : ReceiveBuffer) : Option Frame :=
  match rx.code, rx.length with
  | some c, some n => if rx.received < n.toNat then none else some ⟨c, n.toNat, rx.params⟩
  | _, _ => none

/-- R142: `n` SCLK periods of an assertion in which the port has no response byte to send and has not begun to send: filler
on D1 in SINGLE mode, no lane in QUAD. -/
def PortState.drivesFiller (q : PortState) (n : Nat) : PortState :=
  { q with driven := q.driven ++ fillerIn q.laneMode n }

/-- R142, R144: SCLK periods of a frame under way, in the port's lane mode, with filler on D1 in SINGLE mode meanwhile. -/
def PortState.clockIn (q : PortState) (clocks : List Lanes) : PortState :=
  let got := bytesIn q.laneMode (q.clocks ++ clocks)
  { q.drivesFiller clocks.length with rx := got.1.foldl ReceiveBuffer.clockByte q.rx, clocks := got.2 }

/-- R153: the mode change due, made at the deassertion of SEL that ends the transfer concerned. -/
def PortState.changeLanes (q : PortState) : PortState :=
  match q.modeDue with
  | some m => { q with laneMode := m, modeDue := none }
  | none => q

/-- SEL deasserted at the end of a frame or of a response: a byte not yet whole is dropped (R142) and a mode change due
is made (R153). -/
def PortState.deselect (q : PortState) : PortState := { q.changeLanes with clocks := [], restIgnored := false }

/-- SEL asserted for a new transfer. If the rest of the assertion before was ignored, its deassertion has passed; after a
receive timeout that is where a mode change due is made (R145, R153; DESIGN CHOICE, log 19). -/
def PortState.select (q : PortState) : PortState :=
  let q1 := if q.restIgnored && decide (q.phase = .idle) then q.changeLanes else q
  { q1 with clocks := [], restIgnored := false, driven := [] }

/-- 09 §9.3: an assertion of SEL is open already, with a transfer code, so that no transfer begins. -/
def PortState.inTransfer (q : PortState) : Bool := q.phase = .receiving || q.phase = .sending

/-- R145: a frame abandoned: the receive buffer is emptied, INPUT_DROPPED is set, the port is IDLE. -/
def PortState.abandon (q : PortState) : PortState :=
  { q.toPhase .idle with rx := ReceiveBuffer.empty, inputDropped := true }

/-- R144, R145: SEL deasserted in RECEIVING: to EXECUTING with the frame complete, else the frame is abandoned. -/
def PortState.endFrame (q : PortState) : PortState :=
  match q.rx.frame? with
  | some _ => q.deselect.toPhase .executing
  | none => q.deselect.abandon

/-! ### Parameter codes (R163) -/

/-- Off or on, no or yes. -/
def flag? (b : Byte) : Option Bool :=
  match b.toNat with
  | 0 => some false
  | 1 => some true
  | _ => none

/-- The link a byte names, 0 to 3. -/
def link? (b : Byte) : Option LinkId := linkOfNumber? b.toNat

/-- Reference: 0 NONE, 1 WCLK, 2 to 5 L0 to L3. -/
def reference? (b : Byte) : Option Reference :=
  match b.toNat with
  | 0 => some .none
  | 1 => some .wclk
  | n + 2 => (linkOfNumber? n).map .link

/-- Session rate: 0 for 48000, 1 for 96000. -/
def sessionRate? (b : Byte) : Option SessionRate :=
  match b.toNat with
  | 0 => some .hz48000
  | 1 => some .hz96000
  | _ => none

/-- Feed: 1 ARCHIVE, 2 STREAM. -/
def feed? (b : Byte) : Option Feed :=
  match b.toNat with
  | 1 => some .archive
  | 2 => some .stream
  | _ => none

/-- Lane mode: 0 SINGLE, 1 QUAD. -/
def laneMode? (b : Byte) : Option LaneMode :=
  match b.toNat with
  | 0 => some .single
  | 1 => some .quad
  | _ => none

/-- Cue kind in CUE_ADD: FAULT is no kind a controller may give (R132). -/
def cueKind? (b : Byte) : Option CueKind :=
  match b.toNat with
  | 0 => some .mark
  | 1 => some .sectionStart
  | 2 => some .sectionEnd
  | _ => none

/-- Source id: 0 to 63 for tracks, 64 to 67 for buses. -/
def source? (b : Byte) : Option Source :=
  if h : b.toNat < 64 then some (.track ⟨b.toNat, h⟩)
  else if h : b.toNat - 64 < 4 then some (.bus ⟨b.toNat - 64, h⟩)
  else none

/-- The source id of a source. -/
def sourceId : Source → Nat
  | .track t => t
  | .bus b => 64 + b

/-! ### Codes in responses and records (R163, R161) -/

/-- Reference codes. -/
def referenceCode : Reference → Nat
  | .none => 0
  | .wclk => 1
  | .link l => 2 + linkNumber l

/-- Session rate codes. -/
def rateCode : SessionRate → Nat
  | .hz48000 => 0
  | .hz96000 => 1

/-- Timebase state codes. -/
def clockCode : ClockState → Nat
  | .free => 0
  | .acquire => 1
  | .locked => 2
  | .holdover => 3

/-- Take state codes. -/
def takeCode : TakeState → Nat
  | .idle => 0
  | .armed => 1
  | .starting => 2
  | .rolling => 3
  | .closing => 4

/-- Lock state codes. -/
def lockCode : LockState → Nat
  | .disabled => 0
  | .hunt => 1
  | .sync => 2
  | .locked => 3

/-- Feed codes. -/
def feedCode : Feed → Nat
  | .archive => 1
  | .stream => 2

/-- Subscription codes: 0 NONE. -/
def subscriptionCode : Option Feed → Nat
  | none => 0
  | some f => feedCode f

/-- Lane mode codes. -/
def laneCode : LaneMode → Nat
  | .single => 0
  | .quad => 1

/-- Cue kind codes in records and CUE_LIST (R161). -/
def cueKindCode : CueKind → Nat
  | .mark => 0
  | .sectionStart => 1
  | .sectionEnd => 2
  | .fault => 3

/-- Cue origin codes (R161). -/
def originCode : CueOrigin → Nat
  | .port p => portNumber p
  | .part => 3

/-- 10 §10.6: status codes. -/
def statusCode : Status → Byte
  | .ok => 0x00
  | .okLate => 0x01
  | .okClamped => 0x02
  | .none => 0x03
  | .gone => 0x04
  | .busy => 0x10
  | .state => 0x11
  | .range => 0x12
  | .conflict => 0x13
  | .full => 0x14
  | .notFound => 0x15
  | .badCommand => 0x1E
  | .badLength => 0x1F

/-! ### Commands (10 §10.5) -/

/-- The commands of the command table. -/
inductive Command where
  | linkSetup | linkStatus | linkCounters | linkRestart | clockSetup | arm | disarm | roll | close | abort
  | trackMapSet | trackMapGet | gainSet | gainApply | gainDiscard | gainGet | archiveSetup | archiveGet
  | streamSetup | streamGet | storeSetup | subscribe | unsubscribe | next | release | feedStatus
  | cueAdd | cueDelete | cueList | portMode | events | eventMask | status
deriving DecidableEq, Repr

/-- 10 §10.5: the command a code names, if it names one. -/
def commandOf? (code : Byte) : Option Command :=
  match code.toNat with
  | 0x01 => some .linkSetup
  | 0x02 => some .linkStatus
  | 0x03 => some .linkCounters
  | 0x04 => some .linkRestart
  | 0x08 => some .clockSetup
  | 0x10 => some .arm
  | 0x11 => some .disarm
  | 0x12 => some .roll
  | 0x13 => some .close
  | 0x14 => some .abort
  | 0x18 => some .trackMapSet
  | 0x19 => some .trackMapGet
  | 0x20 => some .gainSet
  | 0x21 => some .gainApply
  | 0x22 => some .gainDiscard
  | 0x23 => some .gainGet
  | 0x28 => some .archiveSetup
  | 0x29 => some .archiveGet
  | 0x30 => some .streamSetup
  | 0x31 => some .streamGet
  | 0x38 => some .storeSetup
  | 0x39 => some .subscribe
  | 0x3A => some .unsubscribe
  | 0x3B => some .next
  | 0x3C => some .release
  | 0x3D => some .feedStatus
  | 0x40 => some .cueAdd
  | 0x41 => some .cueDelete
  | 0x42 => some .cueList
  | 0x48 => some .portMode
  | 0x49 => some .events
  | 0x4A => some .eventMask
  | 0x4B => some .status
  | _ => none

/-- 10 §10.5: the parameter length a command requires, given the parameters; none when the frame is too short to hold
the count that gives it (R146). -/
def requiredLength (c : Command) (params : List Byte) : Option Nat :=
  match c with
  | .linkSetup => some 10
  | .linkStatus => some 1
  | .linkCounters => some 2
  | .linkRestart => some 1
  | .clockSetup => some 2
  | .arm => some 0
  | .disarm => some 0
  | .roll => some 0
  | .close => some 0
  | .abort => some 0
  | .trackMapSet => some 4
  | .trackMapGet => some 2
  | .gainSet => params[2]?.map fun count => 3 + 3 * count.toNat
  | .gainApply => some 0
  | .gainDiscard => some 0
  | .gainGet => some 4
  | .archiveSetup => some 1
  | .archiveGet => some 0
  | .streamSetup => params[0]?.map fun n => 4 + n.toNat
  | .streamGet => some 0
  | .storeSetup => some 4
  | .subscribe => some 1
  | .unsubscribe => some 0
  | .next => some 1
  | .release => some 5
  | .feedStatus => some 0
  | .cueAdd => params[8]?.map fun n => 9 + n.toNat
  | .cueDelete => some 2
  | .cueList => some 2
  | .portMode => some 1
  | .events => some 0
  | .eventMask => some 2
  | .status => some 0

/-- R146, steps 2 and 3: a frame whose L exceeds 250 or is not the length the command requires is answered
BAD_LENGTH. -/
def Frame.lengthFits (f : Frame) (c : Command) : Bool :=
  f.length ≤ 250 && requiredLength c f.params == some f.length

end Sys2Proof.Machine
end

