-- ==== Sys2Proof/Machine/CueOps.lean ====
section
/-! DEFINITION. The operations of the cue list (08): the id search, insertion in order, and FAULT requests. -/

namespace Sys2Proof.Machine

/-- R131: the id after `n`, with 65535 followed by 1. -/
def idAfter (n : Nat) : Nat := if n < 65535 then n + 1 else 1

/-- R131: the first id from `n` upward that no entry holds, within `steps` steps. -/
def freeIdFrom (entries : List Cue) : (steps n : Nat) → Nat
  | 0, n => n
  | steps + 1, n => if entries.any (fun c => c.id == n) then freeIdFrom entries steps (idAfter n) else n

/-- R131: the id a new entry takes; the search ends within 129 steps. -/
def Cues.newId (c : Cues) : Nat := freeIdFrom c.entries 129 c.nextId

/-- R130: the order of the list, by position and then by id. -/
def cueBefore (a b : Cue) : Bool := a.position < b.position || (a.position == b.position && a.id < b.id)

/-- R130: an entry inserted at the place the order gives it. -/
def insertCue (c : Cue) : List Cue → List Cue
  | [] => [c]
  | d :: rest => if cueBefore c d then c :: d :: rest else d :: insertCue c rest

/-- R131, R133, R137: a new entry with the next free id, the counter moved past it. -/
def Cues.add (c : Cues) (position : Nat) (kind : CueKind) (label : List Byte) (origin : CueOrigin) : Cues :=
  { c with entries := insertCue ⟨c.newId, position, kind, label, origin⟩ c.entries, nextId := idAfter c.newId }

/-- R137: the label `L<n> LOST`. -/
def linkLostLabel (l : LinkId) : List Byte := [76, BitVec.ofNat 8 (48 + linkNumber l), 32, 76, 79, 83, 84]

/-- R137: the label `CLOCK HOLD`. -/
def clockHoldLabel : List Byte := [67, 76, 79, 67, 75, 32, 72, 79, 76, 68]

/-- R137: a request waits in the queue; one made while the queue holds 8 is dropped. -/
def Cues.request (c : Cues) (r : FaultRequest) : Cues :=
  if c.requests.length < 8 then { c with requests := c.requests ++ [r] } else c

/-- R13, R28: a take is ROLLING or CLOSING. -/
def takeRunning (t : Take) : Bool := t.state = .rolling || t.state = .closing

/-- R13, R28, R137: a FAULT cue is asked for at the present position, if the take is ROLLING or CLOSING. -/
def State.requestFault (s : State) (label : List Byte) : State :=
  if takeRunning s.take then { s with cues := s.cues.request ⟨label, s.timebase.position⟩ } else s

end Sys2Proof.Machine
end

