-- ==== Sys2Proof/Machine/ClockOps.lean ====
section
/-! DEFINITION. The operations of the timebase (02 §2.2 to §2.4): reference edges, good, bad and late periods, absence, and
the changes of timebase state. -/

namespace Sys2Proof.Machine

/-- R30: a change of timebase state raises CLOCK_CHANGE at every port; no change raises nothing. -/
def State.toClock (s : State) (c : ClockState) : State :=
  if s.timebase.clock = c then s
  else { s with timebase := { s.timebase with clock := c } }.raiseAll .clockChange

/-- R28, R165: entry to HOLDOVER at tick `t`: the oscillator takes over, its next event nominal ticks after the last
sample-period event, or at once if that has passed; during a take the `CLOCK HOLD` cue is requested. An event still due
from a reference edge has not been taken: the entry is before it, and the oscillator produces it (DEDUCED, log 6). The
good-period count is 0 (DEDUCED, log 26). -/
def State.enterHoldover (s : State) (t : Nat) : State :=
  let s1 := s.toClock .holdover
  let tb := s1.timebase
  { s1 with timebase := { tb with
      goodCount := 0, edgesDue := [], nextOscillator := max (tb.lastSample + tb.nominal) t } }.requestFault clockHoldLabel

/-- R24: a bad period, or what an absence does to the state machine: R26 in ACQUIRE, R27 in LOCKED, nothing in FREE and
HOLDOVER. -/
def State.badPeriod (s : State) (t : Nat) : State :=
  match s.timebase.clock with
  | .acquire => { s with timebase := { s.timebase with goodCount := 0 } }
  | .locked => s.enterHoldover t
  | .free => s
  | .holdover => s

/-- R27: the reference edge at tick `e` is to be a sample-period event: it is due (DEDUCED, log 6). -/
def State.edgeIsSample (s : State) (e : Nat) : State :=
  { s with timebase := { s.timebase with edgesDue := s.timebase.edgesDue ++ [e] } }

/-- R27: entry to LOCKED at the reference edge `e`: it is itself a sample-period event if at least half a nominal period
has passed since the last. -/
def State.enterLocked (s : State) (e : Nat) : State :=
  let s1 := s.toClock .locked
  let s2 := { s1 with timebase := { s1.timebase with goodCount := 0 } }
  if s.timebase.nominal / 2 ≤ e - s.timebase.lastSample then s2.edgeIsSample e else s2

/-- R24 to R28: a good period ended by the edge `e`. -/
def State.goodPeriod (s : State) (e : Nat) : State :=
  match s.timebase.clock with
  | .acquire =>
    if s.timebase.goodCount + 1 < 64 then
      { s with timebase := { s.timebase with goodCount := s.timebase.goodCount + 1 } }
    else s.enterLocked e
  | .locked => s.edgeIsSample e
  | .holdover =>
    let s1 := s.toClock .acquire
    { s1 with timebase := { s1.timebase with goodCount := 1 } }
  | .free => s

/-- R24: the moment of the late period that has come by tick `t`: nominal + 17 ticks after the last reference edge. -/
def Timebase.lateBy? (tb : Timebase) (t : Nat) : Option Nat :=
  match tb.lastEdge with
  | some e => if tb.reference ≠ .none ∧ e + tb.nominal + 17 ≤ t then some (e + tb.nominal + 17) else none
  | none => none

/-- R24: a late bad period taken at tick `t`: the last reference edge becomes none. -/
def State.takeLate (s : State) (t : Nat) : State :=
  { s with timebase := { s.timebase with lastEdge := none } }.badPeriod t

/-- R24: the moment of the absence that has come by tick `t`: 2 × nominal ticks after the absence start. -/
def Timebase.absentBy? (tb : Timebase) (t : Nat) : Option Nat :=
  if tb.reference ≠ .none ∧ tb.absenceStart + 2 * tb.nominal ≤ t then some (tb.absenceStart + 2 * tb.nominal) else none

/-- R24: absence taken at tick `t`: the last reference edge becomes none and the absence start moves to `t`. -/
def State.takeAbsence (s : State) (t : Nat) : State :=
  { s with timebase := { s.timebase with lastEdge := none, absenceStart := t } }.badPeriod t

/-- R23, R24: the period that the edge `e` ends, if one is being measured: early bad below nominal - 16 ticks, good up to
nominal + 16 (a longer one has been taken as late before). -/
def State.judgeEdge (s : State) (e : Nat) : State :=
  match s.timebase.lastEdge with
  | none => s
  | some d => if e - d < s.timebase.nominal - 16 then s.badPeriod e else s.goodPeriod e

/-- R23: a reference edge at tick `e`. A late period that came before it is taken first (R24; DEDUCED, log 9). -/
def State.referenceEdge (s : State) (e : Nat) : State :=
  let s1 := match s.timebase.lateBy? e with
    | some m => s.takeLate m
    | none => s
  let s2 := s1.judgeEdge e
  { s2 with timebase := { s2.timebase with lastEdge := some e, absenceStart := e } }

/-- R23: a mark time given by link `l`; one of a link that is not the reference is ignored. -/
def State.markTime (s : State) (l : LinkId) (e : Nat) : State :=
  if s.timebase.reference = .link l then s.referenceEdge e else s

/-- R13, R24: the timebase is told at tick `t` that link `l` has left LOCKED. -/
def State.referenceLinkLost (s : State) (l : LinkId) (t : Nat) : State :=
  if s.timebase.reference = .link l then s.takeAbsence t else s

/-- R29: the effect of an accepted CLOCK_SETUP at tick `t`. The block length and nominal period in force change only at
the next sample-period event; a marked gain application moves with the rate (R65). -/
def State.setClock (s : State) (ref : Reference) (rate : SessionRate) (t : Nat) : State :=
  if ref = s.timebase.reference ∧ rate = s.timebase.rate then s
  else
    let tb := s.timebase
    let moved := if rate = tb.rate then s.mix.applyMark
      else s.mix.applyMark.map fun _ => boundaryAfter (blockLengthOf rate) tb.position
    let s1 := { s with
      timebase := { tb with reference := ref, rate := rate, lastEdge := none, absenceStart := t }
      mix := { s.mix with applyMark := moved } }
    let s2 := if tb.clock = .locked then s1.enterHoldover t else s1
    let s3 := match ref, s2.timebase.clock with
      | .none, _ => s2.toClock .free
      | _, .free => s2.toClock .acquire
      | _, _ => s2
    { s3 with timebase := { s3.timebase with goodCount := 0 } }

end Sys2Proof.Machine
end

