-- ==== Sys2Proof/Machine/LinkOps.lean ====
section
/-! DEFINITION. The operations of the stage link receivers (01): pulse classes, frame assembly, slot checks, lock states,
the elastic FIFO, the edge timeout, and the framer's request for a frame. -/

namespace Sys2Proof.Machine

/-! ### Pulse classes (R1, R2) -/

/-- R1: the classes of a pulse. -/
inductive PulseClass where
  | short | long | mark | violation
deriving DecidableEq, Repr

/-- R1: the class of a width against the windows. A width above `timeout` that only the filter carry brought there is a
VIOLATION too (DEDUCED, log 8). -/
def classOf (w : Nat) (k : LinkSettings) : PulseClass :=
  if k.shortLo ≤ w ∧ w ≤ k.shortHi then .short
  else if k.longLo ≤ w ∧ w ≤ k.longHi then .long
  else if k.markLo ≤ w ∧ w ≤ k.markHi then .mark
  else .violation

/-! ### Counters (R18) -/

/-- R18: counters with `k` more slip drops. -/
def LinkCounters.addSlipDrop (c : LinkCounters) : LinkCounters := { c with slipDrops := count16 c.slipDrops 1 }

/-- R18: counters with one more slip repeat. -/
def LinkCounters.addSlipRepeat (c : LinkCounters) : LinkCounters := { c with slipRepeats := count16 c.slipRepeats 1 }

/-- R18: counters with one more VIOLATION. -/
def LinkCounters.addViolation (c : LinkCounters) : LinkCounters := { c with widthViolations := count16 c.widthViolations 1 }

/-- R18: counters with one more bad frame. -/
def LinkCounters.addBadFrame (c : LinkCounters) : LinkCounters := { c with badFrames := count16 c.badFrames 1 }

/-- R18: counters with one more lock loss. -/
def LinkCounters.addLockLoss (c : LinkCounters) : LinkCounters := { c with lockLosses := count16 c.lockLosses 1 }

/-- R6, R18: counters after a completed slot: a parity error and a tag mismatch, each if it happened. -/
def LinkCounters.addSlot (c : LinkCounters) (parityError tagMismatch : Bool) : LinkCounters :=
  { c with
    parityErrors := if parityError then count16 c.parityErrors 1 else c.parityErrors
    tagMismatches := if tagMismatch then count16 c.tagMismatches 1 else c.tagMismatches }

/-! ### Resets of a receiver -/

/-- The assembler reset to WAIT_MARK with no mark due and no frame in assembly (R9, R11, R13). -/
def LinkRx.resetAssembler (r : LinkRx) : LinkRx := { r with phase := .waitMark, markDue := false, frame := none }

/-- R13: counter and link state of a departure from LOCKED to `target`. -/
def LinkRx.depart (r : LinkRx) (target : LockState) : LinkRx :=
  { r.resetAssembler with
    lock := target, fifo := [], ready := false, lastFrame := none, badRun := 0, counters := r.counters.addLockLoss }

/-- R9, R20: what enabling and restarting clear: carry, timed-out flag, runs, assembler, FIFO, ready, last-frame copy; the
next transition starts measurement. -/
def LinkRx.cleared (r : LinkRx) (target : LockState) : LinkRx :=
  { r.resetAssembler with
    lock := target, carry := 0, timedOut := false, goodRun := 0, badRun := 0, fifo := [], ready := false,
    lastFrame := none, measuredFrom := none }

/-- R12: a receiver entering LOCKED: runs 0, FIFO empty, not ready, WAIT_MARK with a mark due. -/
def LinkRx.enterLocked (r : LinkRx) : LinkRx :=
  { r with
    lock := .locked, goodRun := 0, badRun := 0, fifo := [], ready := false, lastFrame := none,
    phase := .waitMark, markDue := true, frame := none }

/-! ### Departure from LOCKED (R13) -/

/-- R13: what a departure of link `l` at tick `t` does outside the receiver: LINK_CHANGE at every port, the FAULT cue
during a take, and the timebase told. The link's request is made before the timebase's (DESIGN CHOICE, log 14). -/
def State.announceDeparture (s : State) (l : LinkId) (t : Nat) : State :=
  ((s.raiseAll .linkChange).requestFault (linkLostLabel l)).referenceLinkLost l t

/-- R13: link `l` leaves LOCKED for `target` at tick `t`. -/
def State.departLink (s : State) (l : LinkId) (target : LockState) (t : Nat) : State :=
  (s.setLink l ((s.link l).depart target)).announceDeparture l t

/-! ### Frame assembly (R4 to R8) -/

/-- R16, R52: whether an arrival at the FIFO is a slip drop. -/
def LinkRx.arrivalDrops (r : LinkRx) : Bool := 8 ≤ r.fifo.length

/-- R14, R15, R16: a frame joins the FIFO as the newest; at a full FIFO the oldest is dropped and counted. The link becomes
ready when the level first reaches 4. -/
def LinkRx.arrive (r : LinkRx) (f : LinkFrame) : LinkRx :=
  let fifo := if r.arrivalDrops then r.fifo.tail ++ [f] else r.fifo ++ [f]
  { r with
    fifo := fifo
    ready := r.ready || decide (fifo.length = 4)
    counters := if r.arrivalDrops then r.counters.addSlipDrop else r.counters }

/-- R8: the assembler after a good frame: WAIT_MARK with a mark due. -/
def LinkRx.afterGoodFrame (r : LinkRx) : LinkRx := { r with phase := .waitMark, markDue := true, frame := none }

/-- R8, R11, R12, R15: a good frame told to the lock state machine of link `l`. -/
def State.goodFrame (s : State) (l : LinkId) (f : LinkFrame) : State :=
  let r := (s.link l).afterGoodFrame
  match r.lock with
  | .sync =>
    if r.goodRun + 1 < 4 then s.setLink l { r with goodRun := r.goodRun + 1 }
    else (s.setLink l r.enterLocked).raiseAll .linkChange
  | .locked =>
    let s1 := s.setLink l { r.arrive f with badRun := 0 }
    if r.arrivalDrops then s1.reportSlip l else s1
  | .disabled => s
  | .hunt => s

/-- R7, R11, R12: a bad frame of link `l` at tick `t`: counted once, the assembler to WAIT_MARK with no mark due, and the
lock state machine told. -/
def State.badFrame (s : State) (l : LinkId) (t : Nat) : State :=
  let r0 := (s.link l).resetAssembler
  let r := { r0 with counters := r0.counters.addBadFrame }
  match r.lock with
  | .sync => s.setLink l { r with lock := .hunt, goodRun := 0 }
  | .locked =>
    if r.badRun + 1 < 3 then s.setLink l { r with badRun := r.badRun + 1 }
    else (s.setLink l r).departLink l .hunt t
  | .disabled => s
  | .hunt => s

/-- A new frame in assembly. -/
def PartialFrame.start : PartialFrame := ⟨[], [], false⟩

/-- R4: a MARK begins a frame on link `l`; in LOCKED its start tick goes to the timebase. -/
def State.beginFrame (s : State) (l : LinkId) (start : Nat) : State :=
  let r := s.link l
  let s1 := s.setLink l { r with phase := .markTail, markDue := false, frame := some PartialFrame.start }
  if r.lock = .locked then s1.markTime l start else s1

/-- R7: a MARK where no mark is due: the bad frame is taken, and if the link is still in SYNC or LOCKED the MARK begins a
new frame. -/
def State.unexpectedMark (s : State) (l : LinkId) (start t : Nat) : State :=
  let s1 := s.badFrame l t
  if (s1.link l).lock = .sync ∨ (s1.link l).lock = .locked then s1.beginFrame l start else s1

/-- R160: the slot entry of 30 cells, cell 0 first. -/
def slotEntryOf (cells : List Bool) (parityFailed : Bool) : SlotEntry where
  sample := BitVec.ofNat 24 (numberOfBits (cells.take 24))
  valid := cells.getD 24 false
  overload := cells.getD 25 false
  parityFailed := parityFailed

/-- R6: an odd number of 1 cells fails parity. -/
def parityFails (cells : List Bool) : Bool := cells.count true % 2 = 1

/-- R160: the tag in cells 26 to 29. -/
def slotTag (cells : List Bool) : Nat := numberOfBits ((cells.drop 26).take 4)

/-- R6, R8: the slot `cells` of the frame `f` completes on link `l`. -/
def State.completeSlot (s : State) (l : LinkId) (f : PartialFrame) (cells : List Bool) (t : Nat) : State :=
  let r := s.link l
  let bad := parityFails cells
  let mismatch := decide (slotTag cells ≠ f.slots.length)
  let s1 := s.setLink l { r with counters := r.counters.addSlot bad mismatch }
  if mismatch then s1.badFrame l t
  else
    let slots := f.slots ++ [slotEntryOf cells bad]
    if slots.length < 16 then
      s1.setLink l { s1.link l with frame := some ⟨slots, [], false⟩ }
    else s1.goodFrame l slots

/-- R5, R6: a completed cell is appended to the slot under way. -/
def State.completeCell (s : State) (l : LinkId) (f : PartialFrame) (cell : Bool) (t : Nat) : State :=
  let cells := f.cells ++ [cell]
  if cells.length < 30 then s.setLink l { s.link l with frame := some ⟨f.slots, cells, false⟩ }
  else s.completeSlot l f cells t

/-- R4, R5, R7: the assembler of link `l` (in SYNC or LOCKED) takes a pulse that began at tick `start` and ended at `t`. -/
def State.assemble (s : State) (l : LinkId) (c : PulseClass) (start t : Nat) : State :=
  let r := s.link l
  match r.phase with
  | .waitMark =>
    match c with
    | .mark => s.beginFrame l start
    | .short => if r.markDue then s.badFrame l t else s
    | .long => if r.markDue then s.badFrame l t else s
    | .violation => if r.markDue then s.badFrame l t else s
  | .markTail =>
    match c with
    | .short => s.setLink l { r with phase := .cells }
    | .mark => s.unexpectedMark l start t
    | .long => s.badFrame l t
    | .violation => s.badFrame l t
  | .cells =>
    let f := r.frame.getD PartialFrame.start
    match c with
    | .mark => s.unexpectedMark l start t
    | .violation => s.badFrame l t
    | .short => if f.halfOne then s.completeCell l f true t else s.setLink l { r with frame := some { f with halfOne := true } }
    | .long => if f.halfOne then s.badFrame l t else s.completeCell l f false t

/-- R1: in SYNC and LOCKED each VIOLATION is counted. -/
def State.countViolation (s : State) (l : LinkId) (c : PulseClass) : State :=
  if c = .violation then s.setLink l { s.link l with counters := (s.link l).counters.addViolation } else s

/-- R1, R10: a classified pulse on link `l`. In HUNT only a MARK counts: it moves the link to SYNC and begins a frame, with
no mark time given. In SYNC and LOCKED a VIOLATION is counted and the assembler takes the pulse. -/
def State.takePulse (s : State) (l : LinkId) (c : PulseClass) (start t : Nat) : State :=
  let r := s.link l
  match r.lock with
  | .disabled => s
  | .hunt =>
    match c with
    | .mark => s.setLink l
        { r with lock := .sync, goodRun := 0, phase := .markTail, markDue := false, frame := some PartialFrame.start }
    | .short => s
    | .long => s
    | .violation => s
  | .sync => (s.countViolation l c).assemble l c start t
  | .locked => (s.countViolation l c).assemble l c start t

/-! ### Measurement, the glitch filter and the edge timeout (R1 to R3) -/

/-- R3: the moment at which the edge timeout has come by tick `t`: `timeout` + 1 ticks after the most recent transition,
taken once per silence, on an enabled link. -/
def LinkRx.timeoutBy? (r : LinkRx) (t : Nat) : Option Nat :=
  if r.enabled && !r.timedOut && decide (r.quietSince + r.settings.timeout + 1 ≤ t) then
    some (r.quietSince + r.settings.timeout + 1)
  else none

/-- R3: the edge timeout of link `l`, taken at tick `t`. -/
def State.takeTimeout (s : State) (l : LinkId) (t : Nat) : State :=
  let r := s.link l
  let r1 := { r.resetAssembler with carry := 0, timedOut := true, measuredFrom := none }
  match r.lock with
  | .sync => s.setLink l { r1 with lock := .hunt, goodRun := 0 }
  | .locked => (s.setLink l r1).departLink l .hunt t
  | .hunt => s.setLink l r1
  | .disabled => s.setLink l r1

/-- R1, R2: a transition on link `l` at tick `t` with the timeout not come. The first transition only starts measurement;
an interval that with the carry is at most `filter` becomes the carry; any other is classified, its pulse having begun
where its first glitch began (DEDUCED, log 23). A transition at the very tick at which the interval began ends no
interval and has no effect (DESIGN CHOICE, log 29). -/
def State.measure (s : State) (l : LinkId) (t : Nat) : State :=
  let r := s.link l
  let r1 := { r with timedOut := false, measuredFrom := some t, quietSince := t }
  match r.measuredFrom with
  | none => s.setLink l r1
  | some m =>
    if t ≤ m then s
    else
      let w := t - m + r.carry
      if w ≤ r.settings.filter then s.setLink l { r1 with carry := w }
      else (s.setLink l { r1 with carry := 0 }).takePulse l (classOf w r.settings) (t - w) t

/-- R1, R3: a transition on the line of link `l` at tick `t`. On a disabled link it is ignored. A timeout that came before
it is taken first (DEDUCED, log 8). -/
def State.transition (s : State) (l : LinkId) (t : Nat) : State :=
  if (s.link l).enabled then
    match (s.link l).timeoutBy? t with
    | some m => (s.takeTimeout l m).measure l t
    | none => s.measure l t
  else s

/-! ### The framer's request (R17) -/

/-- R17: what the framer's request does to a receiver, and the frame it gives. A repeat with an empty last-frame copy gives
none (DESIGN CHOICE, log 18). -/
def LinkRx.request (r : LinkRx) : LinkRx × Option LinkFrame :=
  if r.ready then
    match r.fifo with
    | f :: rest => ({ r with fifo := rest, lastFrame := some f }, some f)
    | [] => ({ r with counters := r.counters.addSlipRepeat }, r.lastFrame)
  else (r, none)

/-- R17: whether the request of the framer is answered by a slip repeat. -/
def LinkRx.requestRepeats (r : LinkRx) : Bool := r.ready && r.fifo.isEmpty

/-- R17, R45, R52: the framer asks link `l` for a frame; a slip repeat is reported. -/
def State.askLink (s : State) (l : LinkId) : State :=
  let r := s.link l
  let s1 := s.setLink l r.request.1
  if r.requestRepeats then s1.reportSlip l else s1

/-- R45: the framer asks each of the four links for a frame; the answers come from the receivers as they stood. -/
def State.askLinks (s : State) : State := (((s.askLink .l0).askLink .l1).askLink .l2).askLink .l3

/-- R45: the four answers. -/
def State.linkAnswers (s : State) : PerLink (Option LinkFrame) :=
  ⟨s.links.l0.request.2, s.links.l1.request.2, s.links.l2.request.2, s.links.l3.request.2⟩

/-! ### Settings and restarts (R9, R19, R20) -/

/-- R19: the settings LINK_SETUP accepts. -/
def LinkSettings.accepted (k : LinkSettings) : Bool :=
  1 ≤ k.shortLo && k.shortLo ≤ k.shortHi && k.shortHi < k.longLo && k.longLo ≤ k.longHi && k.longHi < k.markLo &&
  k.markLo ≤ k.markHi && k.filter ≤ 3 && k.filter < k.shortLo && 16 ≤ k.timeout && k.timeout ≤ 255 &&
  k.markHi < k.timeout

/-- R13, R20: link `l` restarted to HUNT at tick `t`: a departure from LOCKED if it was LOCKED. -/
def State.restartLink (s : State) (l : LinkId) (t : Nat) : State :=
  let r := s.link l
  if r.lock = .locked then
    (s.setLink l ((r.depart .hunt).cleared .hunt)).announceDeparture l t
  else s.setLink l (r.cleared .hunt)

/-- R9, R13: link `l` disabled at tick `t`. R9 names what disabling empties; the good run is 0 and the timed-out flag no from
then on too (DESIGN CHOICE, log 28). -/
def State.disableLink (s : State) (l : LinkId) (t : Nat) : State :=
  let r := s.link l
  if r.lock = .locked then
    (s.setLink l { (r.depart .disabled).cleared .disabled with enabled := false }).announceDeparture l t
  else s.setLink l { r.cleared .disabled with enabled := false }

/-- R19: the effect of an accepted LINK_SETUP on link `l` at tick `t`. A link being enabled counts its silence from `t`
(DESIGN CHOICE, log 20). -/
def State.setupLink (s : State) (l : LinkId) (enable : Bool) (k : LinkSettings) (t : Nat) : State :=
  let r := s.link l
  let s1 := s.setLink l { r with settings := k }
  if r.enabled then
    if enable then
      if k = r.settings then s1 else s1.restartLink l t
    else s1.disableLink l t
  else if enable then
    s1.setLink l { (s1.link l).cleared .hunt with enabled := true, quietSince := t }
  else s1

end Sys2Proof.Machine
end

