-- ==== Sys2Proof/Machine/MixOps.lean ====
section
/-! DEFINITION. The operations of the mix engine (04): bus samples, saturation and clip flags, ramps and the application of
the edited ("pending") gain table. -/

namespace Sys2Proof.Machine

/-- R66: the gain of a ramping entry at offset `n` of the ramp block. -/
def rampedGain (starting new : BitVec 16) (n blockLength : Nat) : Int :=
  (starting.toNat : Int) + Int.tdiv (((new.toNat : Int) - starting.toNat) * (n + 1)) blockLength

/-- R62, R66: the gain an entry has at offset `n`. -/
def gainAt (ramping : Bool) (starting : BitVec 16) (e : GainEntry) (n blockLength : Nat) : Int :=
  if ramping then rampedGain starting e.gain n blockLength else e.gain.toNat

/-- R61, R62: what a track adds to a bus: sample times gain, negated under inverted polarity. -/
def contribution (x : Int) (gain : Int) (inverted : Bool) : Int := if inverted then -(x * gain) else x * gain

/-- R62: the accumulated sum of one bus at offset `n`. -/
def busSum (entries : Vector GainEntry 64) (ramp : Ramp) (tracks : Vector Sample 64) (n blockLength : Nat) : Int :=
  ((entries.toList.zip (ramp.starting.toList.zip tracks.toList)).map fun e =>
    contribution e.2.2.toInt (gainAt ramp.ramping e.2.1 e.1 n blockLength) e.1.inverted).sum

/-- R62: division by 32768 with rounding half up. -/
def roundHalfUp (acc : Int) : Int := (acc + 16384) / 32768

/-- R63: a bus sample before saturation that lies outside the 24-bit range is saturated. -/
def saturates (v : Int) : Bool := v < -8388608 || 8388607 < v

/-- R63: the saturated bus sample. -/
def saturate (v : Int) : Sample := BitVec.ofInt 24 (max (-8388608) (min v 8388607))

/-- R62: the bus values before saturation, of the four buses in order. -/
def Mix.busValues (m : Mix) (tracks : Vector Sample 64) (n blockLength : Nat) : Vector Int 4 :=
  mapEntries (fun b ramp => match m.active[b]? with
    | some entries => roundHalfUp (busSum entries ramp tracks n blockLength)
    | none => 0) m.ramps

/-- R66: at a boundary every bus stops ramping. -/
def Mix.endRamps (m : Mix) : Mix := { m with ramps := mapEntries (fun _ r => { r with ramping := false }) m.ramps }

/-- R64: at a boundary the four clip flags are cleared. -/
def Mix.clearClips (m : Mix) : Mix := { m with clipFlags := tableOf 4 fun _ => false }

/-- R65: the ramp a bus has after an application: it ramps if one of its gains changes. -/
def rampToward (old new : Vector GainEntry 64) : Ramp where
  ramping := (old.toList.zip new.toList).any fun e => e.1.gain != e.2.gain
  starting := mapEntries (fun _ e => e.gain) old

/-- R65: an application: starting gains from the active table, the active table a copy of the edited one, the mark
clear. -/
def Mix.application (m : Mix) : Mix :=
  { m with
    ramps := mapEntries (fun b old => match m.edited[b]? with
      | some new => rampToward old new
      | none => rampToward old old) m.active
    active := m.edited
    applyMark := none }

/-- R64 to R66: the mix engine at a block boundary. -/
def Mix.boundary (m : Mix) : Mix :=
  let m1 := m.endRamps.clearClips
  match m1.applyMark with
  | some _ => m1.application
  | none => m1

end Sys2Proof.Machine
end

