-- ==== Sys2Proof/Machine/FramerOps.lean ====
section
/-! DEFINITION. The operations of the capture framer (03): track samples and marks, gathered sample periods, and the gather
buffers. -/

namespace Sys2Proof.Machine

/-- The outcome of forming one track sample: the sample, the last-good sample and the marks after it. -/
structure TrackOutcome where
  sample : Sample
  lastGood : Sample
  marks : TrackMarks
deriving DecidableEq, Repr

/-- R48 to R50: a track whose link gave a frame looks at its slot. -/
def trackFromSlot (e : SlotEntry) (lastGood : Sample) (m : TrackMarks) : TrackOutcome :=
  if e.parityFailed then ⟨lastGood, lastGood, { m with held := true }⟩
  else
    let m1 := if e.overload then { m with overload := true } else m
    if e.valid then ⟨e.sample, e.sample, m1⟩ else ⟨0, lastGood, { m1 with invalid := true }⟩

/-- A slot entry that stands for no slot; a queued frame has all sixteen (R8). -/
def SlotEntry.blank : SlotEntry := ⟨0, false, false, false⟩

/-- R47 to R51: the sample of one track for a gathered sample period, from the answer of its link. -/
def formTrack (e : TrackEntry) (answers : PerLink (Option LinkFrame)) (lastGood : Sample) (m : TrackMarks) :
    TrackOutcome :=
  if e.enabled then
    match answers.get e.link with
    | none => ⟨0, lastGood, { m with absent := true }⟩
    | some frame => trackFromSlot (frame.getD e.slot.val SlotEntry.blank) lastGood m
  else ⟨0, lastGood, m⟩

/-- R47 to R51: the 64 tracks of a gathered sample period. -/
def formTracks (fr : Framer) (g : GatherBuffer) (answers : PerLink (Option LinkFrame)) : Vector TrackOutcome 64 :=
  mapEntries (fun t e => formTrack e answers (fr.lastGood[t]?.getD 0) (g.marks[t]?.getD TrackMarks.clear)) fr.map

/-- R47 to R54, R62 to R64: the sample period at the present position is gathered into the filling buffer `i`. -/
def State.gatherInto (s : State) (i : BufferId) (answers : PerLink (Option LinkFrame)) (refTimed : Bool) : State :=
  let g := s.framer.buffer i
  let outs := formTracks s.framer g answers
  let tracks := mapEntries (fun _ (o : TrackOutcome) => o.sample) outs
  let values := s.mix.busValues tracks (s.timebase.position - g.start) s.timebase.blockLength
  let newClips := mapEntries (fun b (v : Int) => saturates v && !(s.mix.clipFlags[b]?.getD false)) values
  let g1 := { g with
    rows := g.rows ++ [{ tracks := tracks, buses := mapEntries (fun _ (v : Int) => saturate v) values }]
    marks := mapEntries (fun _ (o : TrackOutcome) => o.marks) outs
    clips := mapEntries (fun b c => c || (newClips[b]?.getD false)) g.clips
    holdover := g.holdover || !refTimed }
  let s1 := { s with
    framer := { s.framer with lastGood := mapEntries (fun _ (o : TrackOutcome) => o.lastGood) outs }.setBuffer i g1
    mix := { s.mix with clipFlags := mapEntries (fun b c => c || (newClips[b]?.getD false)) s.mix.clipFlags } }
  if s.mix.clipFlags.toList.all (!·) && newClips.toList.any id then s1.raiseAll .mixClip else s1

/-- R45, R46: a sample period is gathered when gathering is yes; otherwise its frames are discarded. -/
def State.gather (s : State) (answers : PerLink (Option LinkFrame)) (refTimed : Bool) : State :=
  if s.take.gathering then
    match s.framer.filling? with
    | some i => s.gatherInto i answers refTimed
    | none => s
  else s

/-- R55: the buffer that starts filling: buffer 0 when it is free, else the other (the one that is not CODING). -/
def Framer.nextBuffer (fr : Framer) : BufferId := if fr.buffer0.state = .coding then .b1 else .b0

/-- R55: a gathered block begins at position `p`. Its take number and block sequence are "not yet set": they hold 0 until
the hand-over (DESIGN CHOICE, log 30). -/
def State.startBuffer (s : State) (p : Nat) : State :=
  let i := s.framer.nextBuffer
  s.setBuffer i { GatherBuffer.reset with state := .filling, start := p }

/-- R56: the filling buffer becomes CODING with the take number and block sequence given. -/
def State.closeBuffer (s : State) (i : BufferId) (take sequence : Nat) : State :=
  s.setBuffer i { s.framer.buffer i with state := .coding, take := take, sequence := sequence }

/-- R57, R58: a buffer becomes FREE. -/
def State.freeBuffer (s : State) (i : BufferId) : State :=
  s.setBuffer i { s.framer.buffer i with state := .free }

/-- R53: the sample of a channel in one gathered sample period. -/
def SampleRow.sample (row : SampleRow) : Source → Sample
  | .track t => row.tracks[t]
  | .bus b => row.buses[b]

/-- R85: the `n` samples of a channel in a buffer, offset 0 first; 0 where nothing has been gathered. -/
def GatherBuffer.channel (g : GatherBuffer) (c : Source) (n : Nat) : List Sample :=
  (g.rows.take n).map (fun row => row.sample c) ++ List.replicate (n - g.rows.length) 0

end Sys2Proof.Machine
end

