-- ==== Sys2Proof/Machine/CoderOps.lean ====
section
/-! DEFINITION. The arithmetic and the layouts of the block coder (05 §5.4, §5.5; 10 §10.2, §10.3): requantization,
predictors, Rice codes, channel sections, record headers and cue entries. -/

namespace Sys2Proof.Machine

/-! ### One channel (R86 to R91) -/

/-- R86: a sample requantized at shift `s`. -/
def requantize (s : Nat) (x : Int) : Int :=
  if s = 0 then x else min ((x + 2 ^ (s - 1)) / 2 ^ s) (2 ^ (23 - s) - 1)

/-- R87: the prediction of order `k` from the three samples before, newest first. -/
def prediction (k : Nat) (y1 y2 y3 : Int) : Int :=
  match k with
  | 0 => 0
  | 1 => y1
  | 2 => 2 * y1 - y2
  | _ => 3 * y1 - 3 * y2 + y3

/-- R87: sample minus prediction at each offset, given the three samples before the first. -/
def residualsAfter (k : Nat) (y1 y2 y3 : Int) : List Int → List Int
  | [] => []
  | y :: rest => (y - prediction k y1 y2 y3) :: residualsAfter k y y1 y2 rest

/-- R87: the residuals of order `k` by offset. Those at offsets 0 to `k` - 1 are no residuals and are not used. -/
def residuals (k : Nat) (ys : List Int) : List Int := residualsAfter k 0 0 0 ys

/-- R88: the selection sum of order `k`, over offsets 3 to N - 1. -/
def selectionSum (k : Nat) (ys : List Int) : Nat := (((residuals k ys).drop 3).map Int.natAbs).sum

/-- R88: the order with the least selection sum, the lowest of those that share it. -/
def chosenOrder (ys : List Int) : Nat :=
  [1, 2, 3].foldl (fun best k => if selectionSum k ys < selectionSum best ys then k else best) 0

/-- R89: the residuals of order `k` in partition `p`. -/
def partitionOf (k p : Nat) (ys : List Int) : List Int :=
  let part := ((residuals k ys).drop (p * (ys.length / 8))).take (ys.length / 8)
  if p = 0 then part.drop k else part

/-- R89: the Rice parameter of a partition. -/
def riceParameter (part : List Int) : Nat :=
  let q := (part.map Int.natAbs).sum / part.length
  if q = 0 then 0 else min (Nat.log2 q) 26

/-- R90: a residual mapped to a non-negative number. -/
def riceIndex (e : Int) : Nat := if 0 ≤ e then 2 * e.toNat else 2 * e.natAbs - 1

/-- R90: the code of a residual under parameter `r`. -/
def riceCode (r : Nat) (e : Int) : List Bool :=
  let u := riceIndex e
  let h := u / 2 ^ r
  if h ≤ 31 then List.replicate h true ++ false :: bitsOf r u else List.replicate 32 true ++ bitsOf 28 u

/-- R90: the length of the code of a residual. -/
def riceLength (r : Nat) (e : Int) : Nat :=
  let h := riceIndex e / 2 ^ r
  if h ≤ 31 then h + 1 + r else 60

/-- R89, R90: the Rice cost of a channel at order `k`. -/
def riceCost (k : Nat) (ys : List Int) : Nat :=
  ((List.range 8).map fun p =>
    let part := partitionOf k p ys
    (part.map (riceLength (riceParameter part))).sum).sum

/-- R91: the predictive bit count of requantized samples at shift `s`. -/
def predictiveBits (s : Nat) (ys : List Int) : Nat :=
  32 + chosenOrder ys * (24 - s) + 40 + riceCost (chosenOrder ys) ys

/-- R91: the RAW bit count of `n` samples at shift `s`. -/
def rawBits (s n : Nat) : Nat := 32 + n * (24 - s)

/-- R91: RAW is chosen unless the predictive count is smaller. -/
def choosesRaw (s : Nat) (ys : List Int) : Bool := rawBits s ys.length ≤ predictiveBits s ys

/-- R91: the bit count of the section of requantized samples at shift `s`. -/
def sectionBits (s : Nat) (ys : List Int) : Nat :=
  if choosesRaw s ys then rawBits s ys.length else predictiveBits s ys

/-- R92: the section length in bytes. -/
def sectionLength (s : Nat) (ys : List Int) : Nat := (sectionBits s ys + 7) / 8

/-! ### Channel sections (R85, R92, R162) -/

/-- R85: the five flags of a channel, ABSENT, INVALID, HELD, OVERLOAD (CLIP for a bus), SLIP. -/
def channelFlags (g : GatherBuffer) : Source → List Bool
  | .track t => let m := g.marks[t]; [m.absent, m.invalid, m.held, m.overload, m.slip]
  | .bus b => [false, false, false, g.clips[b], false]

/-- R162: the mode code: 0 RAW, 1 to 4 for P0 to P3. -/
def modeCode (s : Nat) (ys : List Int) : Nat := if choosesRaw s ys then 0 else 1 + chosenOrder ys

/-- R162: the 32 bits of a section header. -/
def sectionHeader (c : Source) (s : Nat) (flags : List Bool) (ys : List Int) : List Bool :=
  bitsOf 7 (sourceId c) ++ bitsOf 3 (modeCode s ys) ++ bitsOf 4 s ++ flags ++ [false] ++ bitsOf 12 (sectionLength s ys)

/-- R92, R162: the codes of a channel at order `k`, partition 0 to partition 7. -/
def riceBody (k : Nat) (ys : List Int) : List Bool :=
  (List.range 8).flatMap fun p =>
    let part := partitionOf k p ys
    part.flatMap (riceCode (riceParameter part))

/-- R92, R162: the body of a section. -/
def sectionBody (s : Nat) (ys : List Int) : List Bool :=
  if choosesRaw s ys then ys.flatMap (signedBits (24 - s))
  else
    let k := chosenOrder ys
    (ys.take k).flatMap (signedBits (24 - s)) ++
      ((List.range 8).flatMap fun p => bitsOf 5 (riceParameter (partitionOf k p ys))) ++ riceBody k ys

/-- R92: the bytes of a section, padded with zero bits to a whole byte. -/
def sectionBytes (c : Source) (s : Nat) (flags : List Bool) (ys : List Int) : List Byte :=
  packBits (sectionHeader c s flags ys ++ sectionBody s ys)

/-- R85, R86: the requantized samples of a channel of a buffer, for a block of `n` sample periods. -/
def quantized (g : GatherBuffer) (n s : Nat) (c : Source) : List Int :=
  (g.channel c n).map fun x => requantize s x.toInt

/-! ### Channel lists (R81) -/

/-- R81: the archive channel list. -/
def archiveChannels (map : Vector TrackEntry 64) (includeMixes : Bool) : List Source :=
  ((List.finRange 64).filter fun t => map[t].enabled).map Source.track ++
    if includeMixes then (List.finRange 4).map Source.bus else []

/-! ### Records (R93, R94, R161) -/

/-- The items of a record header that vary (R161). -/
structure Header where
  kind : RecordKind
  id : RecordId
  position : Nat
  rate : SessionRate
  shift : Nat
  holdover : Bool
  shed : Bool
  overrun : Bool
  aborted : Bool
  rosterLength : Nat
  present : Nat
  sections : Nat
  cues : Nat
  length : Nat
deriving DecidableEq, Repr

/-- R161: the record flags byte. -/
def recordFlags (h : Header) : Nat := h.holdover.toNat + 2 * h.shed.toNat + 4 * h.overrun.toNat + 8 * h.aborted.toNat

/-- R161: the present map of the first `j` roster positions, bit 15 for position 0. -/
def presentMap (j : Nat) : Nat := 65536 - 2 ^ (16 - j)

/-- R161: record kind codes. -/
def kindCode : RecordKind → Nat
  | .block => 1
  | .ending => 2

/-- R161: the 32 bytes of a record header. -/
def Header.bytes (h : Header) : List Byte :=
  bytesOf 1 (kindCode h.kind) ++ bytesOf 1 (feedCode h.id.feed) ++ bytesOf 2 h.id.take ++ bytesOf 2 h.id.sequence ++
  positionBytes h.position ++ bytesOf 1 (rateCode h.rate) ++ bytesOf 2 (blockLengthOf h.rate) ++ bytesOf 1 h.shift ++
  bytesOf 1 (recordFlags h) ++ bytesOf 1 h.rosterLength ++ bytesOf 2 (presentMap h.present) ++ bytesOf 1 h.sections ++
  bytesOf 1 h.cues ++ bytesOf 4 h.length ++ bytesOf 6 0

/-- R161: a label in 10 bytes, bytes beyond its length sent as 0. -/
def labelBytes (label : List Byte) : List Byte := (label ++ List.replicate (10 - label.length) 0).take 10

/-- R161: kind in bits 7 to 4, origin in bits 3 to 0. -/
def kindOrigin (c : Cue) : Nat := 16 * cueKindCode c.kind + originCode c.origin

/-- R141, R161: a cue entry of 16 bytes in a record whose block starts at `start`. -/
def cueEntryBytes (start : Nat) (c : Cue) : List Byte :=
  bytesOf 2 c.id ++ bytesOf 2 (c.position - start) ++ bytesOf 1 (kindOrigin c) ++ bytesOf 1 c.label.length ++
    labelBytes c.label

/-- R93: the size of a record with `c` cue entries and sections of these lengths. -/
def recordSize (c : Nat) (lengths : List Nat) : Nat := 32 + 16 * c + lengths.sum

/-- R93: the cue entries and sections of a BLOCK record of buffer `g`, after its header. -/
def recordBody (g : GatherBuffer) (n s : Nat) (cues : List Cue) (channels : List Source) : List Byte :=
  cues.flatMap (cueEntryBytes g.start) ++
    channels.flatMap fun c => sectionBytes c s (channelFlags g c) (quantized g n s c)

/-- R93, R95: the size of a BLOCK record of buffer `g`. -/
def blockSize (g : GatherBuffer) (n s : Nat) (cues : List Cue) (channels : List Source) : Nat :=
  recordSize cues.length (channels.map fun c => sectionLength s (quantized g n s c))

end Sys2Proof.Machine
end

