-- ==== Sys2Proof/Machine/RateOps.lean ====
section
/-! DEFINITION. The operations of the stream rate controller (06): budget and capacity, the decision for a block, and the
reservoir update. -/

namespace Sys2Proof.Machine

/-- R97: the budget B, 10 × R bits. -/
def RateControl.budget (rc : RateControl) : Nat := 10 * rc.rate

/-- R97: the reservoir capacity C, k × B bits. -/
def RateControl.capacity (rc : RateControl) : Nat := rc.factor * rc.budget

/-- R102: the initialization at a take's start boundary. -/
def RateControl.initTake (rc : RateControl) : RateControl := { rc with level := rc.capacity / 2, prevShift := 0 }

/-- R103: the first shift from max(0, previous shift - 1) to 8 at which all `n` entries fit `avail` bits. -/
def shiftSearch (cost : Nat → Nat → Nat) (n prevShift avail : Nat) : Option Nat :=
  (List.range 9).find? fun s => prevShift - 1 ≤ s && cost s n ≤ avail

/-- R104: the largest present count below `n` that fits `avail` bits at shift 8. -/
def shedSearch (cost : Nat → Nat → Nat) (n avail : Nat) : Option Nat :=
  ((List.range n).filter fun j => 1 ≤ j).reverse.find? fun j => cost 8 j ≤ avail

/-- R103 to R105: the decision, with `cost s j` the cost in bits at shift `s` with the first `j` of `n` entries present. -/
def streamDecision (cost : Nat → Nat → Nat) (n prevShift avail : Nat) : StreamDecision :=
  match shiftSearch cost n prevShift avail with
  | some s => ⟨s, n, false, false⟩
  | none =>
    match shedSearch cost n avail with
    | some j => ⟨8, j, true, false⟩
    | none => ⟨8, 1, decide (2 ≤ n), true⟩

/-- R105 to R107: the reservoir level and the previous shift after a decision. -/
def RateControl.charge (rc : RateControl) (cost : Nat → Nat → Nat) (d : StreamDecision) : RateControl :=
  { rc with
    level := if d.overrun then 0 else min rc.capacity (rc.level + rc.budget - cost d.shift d.present)
    prevShift := d.shift }

/-- R95: the cost in bits of the stream record of buffer `g` at shift `s` with the first `j` roster entries. -/
def streamCost (g : GatherBuffer) (n : Nat) (cues : List Cue) (roster : List Source) (s j : Nat) : Nat :=
  8 * blockSize g n s cues (roster.take j)

end Sys2Proof.Machine
end

