-- ==== Sys2Proof/Machine/StoreOps.lean ====
section
/-! DEFINITION. The operations of the block store (07): responses of NEXT, placement, forced removal, reclaim, publication,
releases, and the re-forming of the regions. -/

namespace Sys2Proof.Machine

/-! ### Responses -/

/-- R146, R148: a response is formed: the port holds it in RESPONSE_READY with nothing sent. The receive buffer is empty
from then on (DESIGN CHOICE, log 19). -/
def PortState.respond (q : PortState) (r : Response) : PortState :=
  { q.toPhase .responseReady with response := some r, sent := 0, rx := ReceiveBuffer.empty }

/-- R149: a response of status `st` with data bytes. -/
def Response.of (st : Status) (data : List Byte) : Response := ⟨st, .bytes data⟩

/-- R121: the answer of NEXT at port `p` with a record: the lost count is placed in it and becomes 0, the arming flag is
left, the wait ends, and the record is in transfer (R123). -/
def FeedState.answered (f : FeedState) (id : RecordId) (size : Nat) : FeedState :=
  { f with lost := 0, wait := none, transfer := some ⟨id, size, 0, false⟩ }

/-- R121, R122: the OK answer of NEXT with a record. -/
def recordResponse (f : FeedState) (id : RecordId) (size : Nat) : Response := ⟨.ok, .record f.lost id size⟩

/-- R121, R122: the answer NONE, carrying the lost count. -/
def noneResponse (f : FeedState) : Response := Response.of .none (bytesOf 2 f.lost)

/-- R122: the wait of port `p` is answered with a record. -/
def State.answerRecord (s : State) (p : Port) (id : RecordId) (size : Nat) : State :=
  (s.setPort p ((s.port p).respond (recordResponse (s.feed p) id size))).setFeed p ((s.feed p).answered id size)

/-- R122: the wait of port `p` is answered NONE; the lost count becomes 0. -/
def State.answerNone (s : State) (p : Port) : State :=
  (s.setPort p ((s.port p).respond (noneResponse (s.feed p)))).setFeed p { s.feed p with lost := 0, wait := none }

/-! ### Geometry (R110) -/

/-- R96, R110: the pages of a record of `z` bytes. -/
def pagesFor (z : Nat) : Nat := (z + 4095) / 4096

/-- R110: the first page of a region. -/
def Store.base (st : Store) : Feed → Nat
  | .archive => 0
  | .stream => st.archive.size

/-- R110: the used pages of a region, the FILLING record included. -/
def Region.used (r : Region) : Nat :=
  (r.ring.map Record.pages).sum + match r.filling with
    | some f => f.pages
    | none => 0

/-- R110: the free pages of a region. -/
def Region.free (r : Region) : Nat := r.size - r.used

/-- R110: the page `k` pages on from `p`, wrapping from the region's last page to its first. -/
def wrapPage (base size p k : Nat) : Nat := base + (p - base + k) % size

/-! ### Holders (R113, R116 to R118) -/

/-- R114: whether a record has no holder. -/
def noHolders (h : PerPort Bool) : Bool := !h.p0 && !h.p1 && !h.p2

/-- R117, R125: port `p` leaves the holder set of a record; with no holder left the record is SPENT. -/
def Record.leave (r : Record) (p : Port) : Record :=
  let h := r.holders.set p false
  { r with holders := h, state := if noHolders h then .spent else r.state }

/-- R117: spent records at the head of a ring leave in one cascade. -/
def reclaim (ring : List Record) : List Record := ring.dropWhile fun r => r.state = .spent

/-- R118: the record that follows the one of identity `id` in a ring. -/
def recordAfter (id : RecordId) : List Record → Option RecordId
  | a :: b :: rest => if a.id = id then some b.id else recordAfter id (b :: rest)
  | _ => none

/-- R123: a transfer of the record `id` is cut, unless its last record byte has been sent. -/
def cutTransfer (id : RecordId) (t : Option Transfer) : Option Transfer :=
  t.map fun x => if x.id = id ∧ x.reached < x.size then { x with cut := true } else x

/-- R116: what a forced removal of the record `id` does to a port that held it, `next` being its next held record. -/
def FeedState.loseOne (f : FeedState) (id : RecordId) (next : Option RecordId) : FeedState :=
  { f with
    cursor := next, lost := count16 f.lost 1, lastTaken := some id, transfer := cutTransfer id f.transfer }

/-- R116: the removal told to port `p`, if it held the record. -/
def State.loseAt (s : State) (p : Port) (r : Record) (next : Option RecordId) : State :=
  if r.holders.get p then (s.setFeed p ((s.feed p).loseOne r.id next)).raiseAt .lagged p else s

/-- R116, R117: a forced removal of the head record of a region, then reclaim. -/
def State.removeHead (s : State) (f : Feed) : State :=
  match (s.region f).ring with
  | [] => s
  | h :: rest =>
    let next := rest.head?.map Record.id
    let s1 := s.setRegion f { s.region f with ring := reclaim rest }
    ((s1.loseAt .p0 h next).loseAt .p1 h next).loseAt .p2 h next

/-- R115: heads are removed until the free pages are at least `pages`, in at most `steps` removals. -/
def State.makeRoom (s : State) (f : Feed) (pages : Nat) : (steps : Nat) → State
  | 0 => s
  | steps + 1 => if (s.region f).free < pages then (s.removeHead f).makeRoom f pages steps else s

/-- R115: room is made for a record and it is placed at the write point as FILLING. The write point moves to the page after
its last (R110). -/
def State.place (s : State) (kind : RecordKind) (id : RecordId) (bytes : List Byte) : State :=
  let f := id.feed
  let pages := pagesFor bytes.length
  let s1 := s.makeRoom f pages (s.region f).ring.length
  let r := s1.region f
  s1.setRegion f { r with
    filling := some ⟨id, kind, bytes, pages, r.writePoint, .filling, PerPort.of fun _ => false⟩
    writePoint := wrapPage (s1.store.base f) r.size r.writePoint pages }

/-! ### Publication (R119) -/

/-- R119, R122, R124: a record published to port `p`, if the port is subscribed to its feed: an empty cursor becomes the
record, a wait is answered with it, and an armed port gets REC_READY and is disarmed. -/
def State.publishTo (s : State) (p : Port) (id : RecordId) (size : Nat) : State :=
  let f := s.feed p
  if f.subscription = some id.feed then
    let f1 := { f with
      cursor := match f.cursor with
        | none => some id
        | some c => some c
      arming := false }
    let s1 := s.setFeed p f1
    let s2 := match f.wait with
      | some _ => s1.answerRecord p id size
      | none => s1
    if f.arming then s2.raiseAt .recReady p else s2
  else s

/-- R119: the holder set at a publication in a feed: the ports subscribed to it. -/
def State.holdersOf (s : State) (f : Feed) : PerPort Bool :=
  PerPort.of fun p => decide ((s.feed p).subscription = some f)

/-- R119: the FILLING record of a region is published: dropped with its pages given back if it has no holder, else HELD and
the newest of the ring. -/
def State.publish (s : State) (f : Feed) : State :=
  let rg := s.region f
  match rg.filling with
  | none => s
  | some r =>
    let h := s.holdersOf f
    if noHolders h then
      s.setRegion f { rg with filling := none, writePoint := r.firstPage, lastPublished := some r.id }
    else
      let s1 := s.setRegion f { rg with
        filling := none, lastPublished := some r.id, ring := rg.ring ++ [{ r with state := .held, holders := h }] }
      ((s1.publishTo .p0 r.id r.bytes.length).publishTo .p1 r.id r.bytes.length).publishTo .p2 r.id r.bytes.length

/-! ### Releases and subscriptions (R120, R125) -/

/-- R125, case 3: port `p` releases its cursor record `id`. -/
def State.releaseCursor (s : State) (p : Port) (id : RecordId) : State :=
  let rg := s.region id.feed
  let next := recordAfter id rg.ring
  let ring := rg.ring.map fun r => if r.id = id then r.leave p else r
  (s.setRegion id.feed { rg with ring := reclaim ring }).setFeed p
    { s.feed p with cursor := next, lastTaken := some id }

/-- The records a port holds in a region (R118). -/
def heldBy (ring : List Record) (p : Port) : List Record := ring.filter fun r => r.holders.get p

/-- The number of records a port holds (R120, R127). -/
def State.heldCount (s : State) (p : Port) : Nat :=
  (heldBy s.store.archive.ring p).length + (heldBy s.store.stream.ring p).length

/-- R120: port `p` leaves the holder set of every record of a region, and reclaim follows. -/
def Region.dropPort (r : Region) (p : Port) : Region :=
  { r with ring := reclaim (r.ring.map fun x => if x.holders.get p then x.leave p else x) }

/-- R120: the feed state of an accepted SUBSCRIBE to `f`. -/
def FeedState.subscribed (fs : FeedState) (f : Feed) (last : Option RecordId) : FeedState :=
  { fs with subscription := some f, cursor := none, lost := 0, lastTaken := last, arming := true }

/-- R120: the feed state after UNSUBSCRIBE. -/
def FeedState.unsubscribed (fs : FeedState) : FeedState :=
  { fs with subscription := none, cursor := none, lost := 0, lastTaken := none, arming := false }

/-- R113: take `t` is earlier than take `u` when `u` is one of the 32767 that follow it in 1, 2, …, 65535, 1, …. -/
def takeEarlier (t u : Nat) : Bool :=
  let d := (u + 65535 - t) % 65535
  1 ≤ d && d ≤ 32767

/-- R113: the order of identities within a feed. -/
def RecordId.earlier (a b : RecordId) : Bool :=
  if a.take = b.take then a.sequence < b.sequence else takeEarlier a.take b.take

/-! ### New region sizes (R112) -/

/-- R112: what the removal of every stored record does to a port that held the records `held`, oldest first. -/
def FeedState.loseAll (f : FeedState) (held : List Record) : FeedState :=
  match held.getLast? with
  | none => f
  | some newest =>
    { f with
      cursor := none, lost := count16 f.lost held.length, lastTaken := some newest.id
      transfer := held.foldl (fun t r => cutTransfer r.id t) f.transfer }

/-- R112: the removal told to port `p`, if it held records. -/
def State.loseAllAt (s : State) (p : Port) (held : List Record) : State :=
  if held.isEmpty then s else (s.setFeed p ((s.feed p).loseAll held)).raiseAt .lagged p

/-- R112: both regions are formed anew with sizes `ra` and `rs`. -/
def State.reformRegions (s : State) (ra rs : Nat) : State :=
  let held := fun p => heldBy s.store.archive.ring p ++ heldBy s.store.stream.ring p
  let s1 := { s with store := {
    archive := ⟨ra, [], none, 0, s.store.archive.lastPublished⟩
    stream := ⟨rs, [], none, ra, s.store.stream.lastPublished⟩ } }
  ((s1.loseAllAt .p0 (held .p0)).loseAllAt .p1 (held .p1)).loseAllAt .p2 (held .p2)

end Sys2Proof.Machine
end

