-- ==== Sys2Proof/Machine/EngineOps.lean ====
section
/-! DEFINITION. The jobs of the coding engine (05 §5.2) and the end of a take (02, R38 to R40): hand-over, the records in
turn, their placement and publication, END records, ABORT. -/

namespace Sys2Proof.Machine

/-! ### Take state -/

/-- R40: a change of take state raises TAKE_CHANGE at every port; no change raises nothing. -/
def State.toTake (s : State) (st : TakeState) : State :=
  if s.take.state = st then s else { s with take := { s.take with state := st } }.raiseAll .takeChange

/-- R38, R80: the END records have been published: the take is IDLE, the end request none, the engine IDLE. -/
def State.endTake (s : State) : State :=
  { s with
    engine := { s.engine with state := .idle, endJob := none }
    take := { s.take with gathering := false, endRequest := .none } }.toTake .idle

/-- R38: the END records are requested when the take is CLOSING, gathering is no, and no block is in coding; the ABORTED
flag is fixed here (R80). A request already under way is not made again. -/
def State.requestEnd (s : State) : State :=
  if s.take.state = .closing ∧ s.take.gathering = false ∧ s.engine.block = none ∧ s.engine.state = .idle then
    { s with engine := { s.engine with
        state := .ending, endJob := some ⟨decide (s.take.endRequest = .abort), false⟩ } }
  else s

/-! ### Hand-over (R74 to R76) -/

/-- R75, R141: the cues whose position lies in the block of `n` periods from `start`, in list order. -/
def cuesInBlock (entries : List Cue) (start : Nat) (n : Nat) : List Cue :=
  entries.filter fun c => start ≤ c.position && c.position < start + n

/-- R76, R103 to R108: the stream decision for the block of buffer `i`: the rate controller is charged, the engine holds
the decision (until the next, DESIGN CHOICE, log 22), and SHED is raised if it shed or overran. -/
def State.decideStream (s : State) (i : BufferId) : State :=
  let cost := streamCost (s.framer.buffer i) s.timebase.blockLength s.engine.cueCopy s.rate.roster
  let d := streamDecision cost s.rate.roster.length s.rate.prevShift (s.rate.budget + s.rate.level)
  let s1 := { s with
    rate := s.rate.charge cost d
    engine := { s.engine with decision := some d } }
  if d.shed || d.overrun then s1.raiseAll .shed else s1

/-- R74: the coding engine takes the CODING buffer `i`: cue copy, archive job queued, stream job begun. -/
def State.handOver (s : State) (i : BufferId) : State :=
  { s with engine := { s.engine with
      state := .stream
      block := some i
      archiveQueued := true
      cueCopy := cuesInBlock s.cues.entries (s.framer.buffer i).start s.timebase.blockLength } }.decideStream i

/-! ### The records of the jobs (R77, R78, R80) -/

/-- A coded record before placement. -/
structure CodedRecord where
  kind : RecordKind
  id : RecordId
  bytes : List Byte
deriving DecidableEq, Repr

/-- R77, R94: the stream record of the block in buffer `g` under decision `d`. -/
def State.streamRecord (s : State) (g : GatherBuffer) (d : StreamDecision) : CodedRecord :=
  let channels := s.rate.roster.take d.present
  let n := s.timebase.blockLength
  let id : RecordId := ⟨.stream, g.take, g.sequence⟩
  let header : Header :=
    { kind := .block, id := id, position := g.start, rate := s.timebase.rate, shift := d.shift
      holdover := g.holdover, shed := d.shed, overrun := d.overrun, aborted := false
      rosterLength := s.rate.roster.length, present := d.present, sections := channels.length
      cues := s.engine.cueCopy.length, length := blockSize g n d.shift s.engine.cueCopy channels }
  ⟨.block, id, header.bytes ++ recordBody g n d.shift s.engine.cueCopy channels⟩

/-- R78, R94: the archive record of the block in buffer `g`. -/
def State.archiveRecord (s : State) (g : GatherBuffer) : CodedRecord :=
  let channels := archiveChannels s.framer.map s.engine.includeMixes
  let n := s.timebase.blockLength
  let id : RecordId := ⟨.archive, g.take, g.sequence⟩
  let header : Header :=
    { kind := .block, id := id, position := g.start, rate := s.timebase.rate, shift := 0
      holdover := g.holdover, shed := false, overrun := false, aborted := false
      rosterLength := 0, present := 0, sections := channels.length
      cues := s.engine.cueCopy.length, length := blockSize g n 0 s.engine.cueCopy channels }
  ⟨.block, id, header.bytes ++ recordBody g n 0 s.engine.cueCopy channels⟩

/-- R80, R161: an END record of a feed: the header alone. -/
def State.endRecord (s : State) (f : Feed) (aborted : Bool) : CodedRecord :=
  let id : RecordId := ⟨f, s.take.number, s.take.sequence⟩
  let header : Header :=
    { kind := .ending, id := id, position := s.take.endPosition, rate := s.timebase.rate, shift := 0
      holdover := false, shed := false, overrun := false, aborted := aborted
      rosterLength := match f with
        | .archive => 0
        | .stream => s.rate.roster.length
      present := 0, sections := 0, cues := 0, length := 32 }
  ⟨.ending, id, header.bytes⟩

/-- 05 §5.2: the record the engine builds next. -/
def State.codedRecord? (s : State) : Option CodedRecord :=
  match s.engine.state, s.engine.block, s.engine.decision, s.engine.endJob with
  | .stream, some i, some d, _ => some (s.streamRecord (s.framer.buffer i) d)
  | .archive, some i, _, _ => some (s.archiveRecord (s.framer.buffer i))
  | .ending, _, _, some j => some (s.endRecord (if j.streamDone then .archive else .stream) j.aborted)
  | _, _, _, _ => none

/-- R96, R115: the engine's next record is placed, if no record is FILLING. -/
def State.placeNext (s : State) : State :=
  if s.store.archive.filling.isSome || s.store.stream.filling.isSome then s
  else
    match s.codedRecord? with
    | some c => s.place c.kind c.id c.bytes
    | none => s

/-- R78: the archive job completes: the buffer FREE, no block in coding, the queue and the cue copy empty, the engine IDLE;
then the END records are requested if they are due. -/
def State.completeArchive (s : State) : State :=
  let s1 := match s.engine.block with
    | some i => s.freeBuffer i
    | none => s
  { s1 with engine := { s1.engine with
      state := .idle, block := none, archiveQueued := false, cueCopy := [] } }.requestEnd

/-- 05 §5.2: what the publication of a record of feed `f` does to the engine. -/
def State.jobPublished (s : State) (f : Feed) : State :=
  match s.engine.state with
  | .idle => s
  | .stream => { s with engine := { s.engine with state := .archive } }
  | .archive => s.completeArchive
  | .ending =>
    match f with
    | .stream => { s with engine := { s.engine with endJob := s.engine.endJob.map fun j => { j with streamDone := true } } }
    | .archive => s.endTake

/-- R96, R119: the record being written is published, and the engine's job goes on. -/
def State.publishNext (s : State) : State :=
  if s.store.stream.filling.isSome then (s.publish .stream).jobPublished .stream
  else if s.store.archive.filling.isSome then (s.publish .archive).jobPublished .archive
  else s

/-- R36: a job of a block, brought to its end if one is still in progress. -/
def State.finishJob (s : State) : State :=
  match s.engine.state with
  | .stream => s.placeNext.publishNext
  | .archive => s.placeNext.publishNext
  | .idle => s
  | .ending => s

/-- R36: "completes both jobs of a block before the next block-boundary event" (DEDUCED, log 10). -/
def State.finishJobs (s : State) : State := s.finishJob.finishJob

/-! ### ABORT (R39) -/

/-- R38, R39: with no block in coding the END records of an aborted take follow at once (DEDUCED, log 11). -/
def State.endAtOnce (s : State) : State :=
  if s.engine.state = .idle then
    let s1 := s.requestEnd
    if s1.engine.state = .ending then s1.placeNext.publishNext.placeNext.publishNext else s1
  else s

/-- R39, R58: the block being gathered is discarded: its buffer is FREE and the end position is its start. -/
def State.discardGathering (s : State) : State :=
  if s.take.gathering then
    match s.framer.filling? with
    | some i =>
      let p := (s.framer.buffer i).start
      let s1 := s.freeBuffer i
      { s1 with take := { s1.take with gathering := false, endPosition := p } }
    | none => { s with take := { s.take with gathering := false } }
  else s

/-- R39: ABORT of a take in STARTING, ROLLING or CLOSING. -/
def State.abortTake (s : State) : State :=
  match s.take.state with
  | .starting => s.toTake .idle
  | .rolling =>
    let s1 := s.discardGathering
    ({ s1 with take := { s1.take with endRequest := .abort } }.toTake .closing).endAtOnce
  | .closing =>
    let s1 := s.discardGathering
    { s1 with take := { s1.take with endRequest := .abort } }.endAtOnce
  | .idle => s
  | .armed => s

end Sys2Proof.Machine
end

