-- ==== Sys2Proof/Machine/SampleOps.lean ====
section
/-! DEFINITION. The sample-period event and the block-boundary event (02 §2.5, R31 to R37, R45, R122): one whole step in
which the position advances, blocks close and open, gains are applied, waits are counted and the sample period is
gathered. -/

namespace Sys2Proof.Machine

/-- R25, R27, R28, R30: the sample-period event that has come by tick `t`: in LOCKED the oldest reference edge due, in FREE,
ACQUIRE and HOLDOVER the oscillator's event. Gives whether it is reference-timed, and the state with it produced. -/
def State.sampleBy? (s : State) (t : Nat) : Option (Bool × State) :=
  let tb := s.timebase
  if tb.clock = .locked then
    match tb.edgesDue with
    | e :: due => some (true, { s with timebase := { tb with lastSample := e, edgesDue := due } })
    | [] => none
  else if tb.nextOscillator ≤ t then some (false, { s with timebase := { tb with lastSample := tb.nextOscillator } })
  else none

/-- R29: from a sample-period event on, the block length and the nominal period are those of the stored session rate. An
event of the oscillator, where it goes on timing, falls nominal ticks later (R25, R28). -/
def State.adoptRate (s : State) : State :=
  let tb := s.timebase
  { s with timebase := { tb with
      blockLength := blockLengthOf tb.rate
      nominal := nominalOf tb.rate
      nextOscillator := tb.lastSample + nominalOf tb.rate } }

/-- R36: the block that closes is the last the take may have. -/
def closesLastBlock (t : Take) : Bool := t.gathering && t.sequence == 65534

/-- R36, R37: the take controller when the block being gathered closes at position `p`. -/
def State.closeTakeBlock (s : State) (p : Nat) : State :=
  let last := closesLastBlock s.take || s.take.state = .closing
  let s1 := { s with take := { s.take with sequence := s.take.sequence + 1 } }
  if last then
    let s2 := { s1 with take := { s1.take with gathering := false, endPosition := p } }
    if s2.take.state = .rolling then
      { s2 with take := { s2.take with endRequest := .close } }.toTake .closing
    else s2
  else s1

/-- R36, R37, R56, R74: at a boundary `p` that ends a gathered block, the buffer closes and passes to the coding engine. -/
def State.closeBlock (s : State) (p : Nat) : State :=
  if s.take.gathering then
    match s.framer.filling? with
    | some i => ((s.closeBuffer i s.take.number s.take.sequence).closeTakeBlock p).handOver i
    | none => s
  else s

/-- R35: the take number after `n`, 65535 wrapping to 1. -/
def takeAfter (n : Nat) : Nat := if n < 65535 then n + 1 else 1

/-- R35, R102: at the take start position the take begins. -/
def State.startTake (s : State) (p : Nat) : State :=
  if s.take.state = .starting ∧ p = s.take.startPosition then
    { s with
      take := { s.take with number := takeAfter s.take.number, sequence := 0, gathering := true }
      rate := s.rate.initTake }.toTake .rolling
  else s

/-- R46, R55: a block that is gathered begins at `p`. -/
def State.openBlock (s : State) (p : Nat) : State := if s.take.gathering then s.startBuffer p else s

/-- R122: a boundary lowers the remaining boundaries of a waiting port; at 0 the wait is answered NONE. -/
def State.countWait (s : State) (p : Port) : State :=
  match (s.feed p).wait with
  | none => s
  | some k => if k ≤ 1 then s.answerNone p else s.setFeed p { s.feed p with wait := some (k - 1) }

/-- R31: a wait answered NONE as at the end of its limit. -/
def State.endWait (s : State) (p : Port) : State :=
  match (s.feed p).wait with
  | none => s
  | some _ => s.answerNone p

/-- R32: the block-boundary event at position `p`: the coding jobs of the block before are done (R36; DEDUCED, log 10), the
block that ends closes, a take starts, the block that begins opens, the mix engine works, the waits are counted. -/
def State.boundary (s : State) (p : Nat) : State :=
  let s1 := (((s.finishJobs.closeBlock p).startTake p).openBlock p)
  let s2 := { s1 with mix := s1.mix.boundary }
  ((s2.countWait .p0).countWait .p1).countWait .p2

/-- R31: the event at which the position reaches 2^48 - 1: each wait is answered NONE, and a running take ends as by an
ABORT. The waits end first, since each is answered NONE even where the END records are published at once (DEDUCED,
log 33). -/
def State.atLastPosition (s : State) : State := (((s.endWait .p0).endWait .p1).endWait .p2).abortTake

/-- R31: the position after a sample-period event. -/
def positionAfter (p : Nat) : Nat := if p < lastPosition then p + 1 else p

/-- R31, R32: whether a sample-period event is also a block-boundary event. -/
def State.isBoundary (s : State) : Bool :=
  s.timebase.position < lastPosition && decide ((s.timebase.position + 1) % s.timebase.blockLength = 0)

/-- R31: whether a sample-period event is the one at which the position reaches 2^48 - 1. -/
def State.reachesLast (s : State) : Bool := decide (s.timebase.position + 1 = lastPosition)

/-- R31: the position and what comes about at it, before the framer's requests. -/
def State.advancePosition (s : State) : State :=
  let p := positionAfter s.timebase.position
  let s1 := { s with timebase := { s.timebase with position := p } }
  if s.reachesLast then s1.atLastPosition
  else if s.isBoundary then s1.boundary p
  else s1

/-- R31, R32, R45 to R54: the sample-period event, once it has come. `between` is what is taken after its boundary and before
the framer asks the links (R164). -/
def State.samplePeriod (s : State) (refTimed : Bool) (between : State → State) : State :=
  let s1 := between s.adoptRate.advancePosition
  s1.askLinks.gather s1.linkAnswers refTimed

end Sys2Proof.Machine
end

