-- ==== Sys2Proof/Machine/PortOps.lean ====
section
/-! DEFINITION. The transactions of a command port (09 §9.2 to §9.4): the reception of a command frame, the taking of a
command and its answer, the bytes of a response, and the end of a transfer. -/

namespace Sys2Proof.Machine

/-! ### Taking a command (R144 to R148) -/

/-- R146: what the owner of a command does to its port: a response, or WAITING for NEXT. -/
inductive Answer where
  | response (r : Response)
  | waits
deriving DecidableEq, Repr

/-- A response of status OK with these data. -/
def Answer.ok (data : List Byte) : Answer := .response (Response.of .ok data)

/-- R149: a refusal carries no data. -/
def Answer.refuse (st : Status) : Answer := .response (Response.of st [])

/-- R146, R148: the answer at port `p`: to RESPONSE_READY with the response, or to WAITING. -/
def State.answer (s : State) (p : Port) (a : Answer) : State :=
  match a with
  | .response r => s.setPort p ((s.port p).respond r)
  | .waits => s.setPort p { (s.port p).toPhase .waiting with rx := ReceiveBuffer.empty }

/-- R144 to R146: SEL is deasserted after the SCLK periods `clocks` of a frame under way at port `p`, or a frame stands
in EXECUTING already: the state with the port in EXECUTING, and the frame to be taken. None when no frame is complete. -/
def State.frameEnds (s : State) (p : Port) (clocks : List Lanes) : Option (State × Frame) :=
  match (s.port p).phase with
  | .receiving =>
    let q := (s.port p).clockIn clocks
    q.rx.frame?.map fun f => (s.setPort p q.endFrame, f)
  | .executing => (s.port p).rx.frame?.map fun f => (s, f)
  | .idle => none
  | .waiting => none
  | .responseReady => none
  | .sending => none

/-- R145: SEL deasserted with the frame incomplete, where a command's row brings too few bytes. -/
def State.frameFails (s : State) (p : Port) (clocks : List Lanes) : State :=
  match (s.port p).phase with
  | .receiving => s.setPort p ((s.port p).clockIn clocks).endFrame
  | .idle => s
  | .executing => s
  | .waiting => s
  | .responseReady => s
  | .sending => s

/-- R146: a frame that names the command `c` is taken: BAD_LENGTH, or the command's own rule `meaning`. -/
def State.takeFrame (s : State) (c : Command) (meaning : List Byte → State → State × Answer) (p : Port) (f : Frame) :
    State :=
  if f.lengthFits c then
    let out := meaning f.params s
    out.1.answer p out.2
  else s.answer p (.refuse .badLength)

/-- The step of a command's row: its frame ends at port `p` and is taken (R144, R146). A frame that does not complete is
abandoned (R145); a port with no frame of this command in hand is left as it is (DESIGN CHOICE, log 2); while RESET is
held the port ignores its lines (R159). -/
def State.runCommand (s : State) (c : Command) (meaning : List Byte → State → State × Answer) (p : Port)
    (clocks : List Lanes) : State :=
  if s.resetHeld then s
  else
    match s.frameEnds p clocks with
    | some (s1, f) => if commandOf? f.code = some c then s1.takeFrame c meaning p f else s
    | none => s.frameFails p clocks

/-! ### Sending a response (R149, R123, R152) -/

/-- R149: the number of data bytes of a response. -/
def Response.dataLength (r : Response) : Nat :=
  match r.payload with
  | .bytes data => data.length
  | .record _ _ size => size + 3

/-- R163: the trailer byte of a NEXT answer. -/
def trailerByte (cut : Bool) : Byte := if cut then 0x00 else 0xA5

/-- R123: whether the record of port `p`'s answer was cut. -/
def State.answerCut (s : State) (p : Port) : Bool :=
  match (s.feed p).transfer with
  | some t => t.cut
  | none => false

/-- R123: byte `i` of a record as read from the store: zero once the record has left it. -/
def State.storedByte (s : State) (id : RecordId) (i : Nat) : Byte :=
  match (s.region id.feed).ring.find? fun r => r.id = id with
  | some r => r.bytes.getD i 0
  | none => 0

/-- R121, R123, R149: data byte `i` of the response at port `p`. -/
def State.dataByte (s : State) (p : Port) (r : Response) (i : Nat) : Byte :=
  match r.payload with
  | .bytes data => data.getD i fillerByte
  | .record lost id size =>
    if i < 2 then (bytesOf 2 lost).getD i 0
    else if i < 2 + size then (if s.answerCut p then 0 else s.storedByte id (i - 2))
    else trailerByte (s.answerCut p)

/-- R149: byte `i` of the response at port `p`: status, flags, data length in 3 bytes, data, then filler. -/
def State.responseByte (s : State) (p : Port) (r : Response) (i : Nat) : Byte :=
  if i = 0 then statusCode r.status
  else if i = 1 then flagsByte (s.port p)
  else if i < 5 then (bytesOf 3 r.dataLength).getD (i - 2) 0
  else if i < 5 + r.dataLength then s.dataByte p r (i - 5)
  else fillerByte

/-- R123: a transfer when `sent` bytes of the whole response have gone: it ends with the last record byte, unless it was
cut (its trailer is then CUT). The record bytes begin at byte 7 of the response. -/
def Transfer.advance (t : Transfer) (sent : Nat) : Option Transfer :=
  let reached := min t.size (sent - 7)
  if reached = t.size ∧ ¬ t.cut then none else some { t with reached := reached }

/-- R142, R163: what the port drives in `periods` SCLK periods of SENDING, the first `started` periods of the byte under way
having gone before: the bits of the response bytes in turn. A byte that is not completed shows its first bits
(DEDUCED, log 34). A record byte that a cut divides (R123) shows the record's bits in the periods before the cut and zeros
in those after it (DESIGN CHOICE, log 35). -/
def State.drives (s : State) (p : Port) (r : Response) (started periods : Nat) : List LaneDrive :=
  let q := s.port p
  (((List.range ((started + periods) / bytePeriods q.laneMode + 1)).flatMap fun i =>
    drivenByte q.laneMode (s.responseByte p r (q.sent + i))).drop started).take periods

/-- R149, R152: the SCLK periods `clocks` carry more of the response out at port `p`; the flags byte, once sent, clears
both flags. -/
def State.send (s : State) (p : Port) (clocks : List Lanes) : State :=
  let q := s.port p
  match q.response with
  | none => s
  | some r =>
    let got := bytesIn q.laneMode (q.clocks ++ clocks)
    let n := got.1.length
    let total := 5 + r.dataLength
    let reports := decide (q.sent ≤ 1 ∧ 1 < q.sent + n)
    let q1 := { q with
      driven := q.driven ++ s.drives p r q.clocks.length clocks.length
      clocks := got.2
      sent := min total (q.sent + n)
      inputDropped := q.inputDropped && !reports
      responseDiscarded := q.responseDiscarded && !reports }
    (s.setPort p q1).setFeed p
      { s.feed p with transfer := (s.feed p).transfer.bind fun t => t.advance (min total (q.sent + n)) }

/-- The response of a port leaves it, sent, abandoned or discarded: a record in it is in transfer no more (R123), and no byte
of a response has been sent (DESIGN CHOICE, log 19). -/
def State.dropResponse (s : State) (p : Port) : State :=
  (s.setPort p { s.port p with response := none, sent := 0 }).setFeed p { s.feed p with transfer := none }

end Sys2Proof.Machine
end

