-- ==== Sys2Proof/Machine/Links.lean ====
section
/-! DEFINITION. The meanings of the stage link rows: line transitions, edge timeouts and the four link commands (01). -/

namespace Sys2Proof.Machine

/-- The outcome of every meaning: a next state. -/
abbrev Result := Host.Outcome State Fault Refusal

/-- An event of a block other than the ports at tick `t`: nothing happens while RESET is held (R159; DESIGN CHOICE,
log 15). -/
def State.eventAt (s : State) (t : Nat) (effect : State → State) : State :=
  let s1 := s.advance t
  if s1.resetHeld then s1 else effect s1

/-- R1: LINE_TRANSITION. -/
def execLineTransition (l : LinkId) (t : Nat) (s : State) : Result :=
  .next (s.eventAt t fun s1 => s1.transition l s1.now)

/-- R3: the edge timeout of link `l`, if the silence has lasted `timeout` + 1 ticks by now. -/
def State.silence (s : State) (l : LinkId) : State :=
  match (s.link l).timeoutBy? s.now with
  | some m => s.takeTimeout l m
  | none => s

/-- R3: EDGE_TIMEOUT, taken when the silence has lasted `timeout` + 1 ticks (DESIGN CHOICE, log 2). -/
def execEdgeTimeout (l : LinkId) (t : Nat) (s : State) : Result := .next (s.eventAt t fun s1 => s1.silence l)

/-- R19: the rule of LINK_SETUP. -/
def linkSetupRule (params : List Byte) (s : State) : State × Answer :=
  match params with
  | [l, enable, shortLo, shortHi, longLo, longHi, markLo, markHi, filter, timeout] =>
    let k : LinkSettings :=
      ⟨shortLo.toNat, shortHi.toNat, longLo.toNat, longHi.toNat, markLo.toNat, markHi.toNat, filter.toNat, timeout.toNat⟩
    match link? l, flag? enable with
    | some l, some on => if k.accepted then (s.setupLink l on k s.now, .ok []) else (s, .refuse .range)
    | _, _ => (s, .refuse .range)
  | _ => (s, .refuse .badLength)

/-- R19: LINK_SETUP. -/
def execLinkSetup (p : Port) (clocks : List Lanes) (t : Nat) (s : State) : Result :=
  .next ((s.advance t).runCommand .linkSetup linkSetupRule p clocks)

/-- R20: the rule of LINK_RESTART. -/
def linkRestartRule (params : List Byte) (s : State) : State × Answer :=
  match params with
  | [l] =>
    match link? l with
    | some l => if (s.link l).lock = .disabled then (s, .refuse .state) else (s.restartLink l s.now, .ok [])
    | none => (s, .refuse .range)
  | _ => (s, .refuse .badLength)

/-- R20: LINK_RESTART. -/
def execLinkRestart (p : Port) (clocks : List Lanes) (t : Nat) (s : State) : Result :=
  .next ((s.advance t).runCommand .linkRestart linkRestartRule p clocks)

/-- R19: the eight settings in LINK_SETUP order. -/
def settingsBytes (k : LinkSettings) : List Byte :=
  [k.shortLo, k.shortHi, k.longLo, k.longHi, k.markLo, k.markHi, k.filter, k.timeout].flatMap (bytesOf 1)

/-- R21: the data of LINK_STATUS. -/
def linkStatusData (r : LinkRx) : List Byte :=
  [flagByte r.enabled] ++ bytesOf 1 (lockCode r.lock) ++ [flagByte r.ready] ++ bytesOf 1 r.fifo.length ++
    bytesOf 1 r.goodRun ++ bytesOf 1 r.badRun ++ settingsBytes r.settings

/-- R21: the rule of LINK_STATUS. -/
def linkStatusRule (params : List Byte) (s : State) : State × Answer :=
  match params with
  | [l] =>
    match link? l with
    | some l => (s, .ok (linkStatusData (s.link l)))
    | none => (s, .refuse .range)
  | _ => (s, .refuse .badLength)

/-- R21: LINK_STATUS. -/
def execLinkStatus (p : Port) (clocks : List Lanes) (s : State) : Result :=
  .next (s.runCommand .linkStatus linkStatusRule p clocks)

/-- R22: the seven counters in the order of R18's table. -/
def countersData (c : LinkCounters) : List Byte :=
  [c.widthViolations, c.tagMismatches, c.parityErrors, c.badFrames, c.lockLosses, c.slipRepeats, c.slipDrops].flatMap
    (bytesOf 2)

/-- R22: the rule of LINK_COUNTERS. -/
def linkCountersRule (params : List Byte) (s : State) : State × Answer :=
  match params with
  | [l, clear] =>
    match link? l, flag? clear with
    | some l, some c =>
      let r := s.link l
      (if c then s.setLink l { r with counters := LinkCounters.zero } else s, .ok (countersData r.counters))
    | _, _ => (s, .refuse .range)
  | _ => (s, .refuse .badLength)

/-- R22: LINK_COUNTERS. -/
def execLinkCounters (p : Port) (clocks : List Lanes) (s : State) : Result :=
  .next (s.runCommand .linkCounters linkCountersRule p clocks)

end Sys2Proof.Machine
end

