-- ==== Sys2Proof/Machine/Clock.lean ====
section
/-! DEFINITION. The meanings of the timebase rows: reference edges, late periods, absence, CLOCK_SETUP, and the rows that
are sample-period events (02). -/

namespace Sys2Proof.Machine

/-- R23: WCLK_EDGE: ignored unless WCLK is the reference. -/
def execWclkEdge (t : Nat) (s : State) : Result :=
  .next (s.eventAt t fun s1 => if s1.timebase.reference = .wclk then s1.referenceEdge s1.now else s1)

/-- R24: LATE_PERIOD, taken when nominal + 17 ticks have passed since the last reference edge (DESIGN CHOICE, log 2). -/
def execLatePeriod (t : Nat) (s : State) : Result :=
  .next (s.eventAt t fun s1 =>
    match s1.timebase.lateBy? s1.now with
    | some m => s1.takeLate m
    | none => s1)

/-- R24: REFERENCE_ABSENT, taken when 2 × nominal ticks have passed since the absence start (DESIGN CHOICE, log 2). -/
def execReferenceAbsent (t : Nat) (s : State) : Result :=
  .next (s.eventAt t fun s1 =>
    match s1.timebase.absentBy? s1.now with
    | some m => s1.takeAbsence m
    | none => s1)

/-- R29: the rule of CLOCK_SETUP. -/
def clockSetupRule (params : List Byte) (s : State) : State × Answer :=
  match params with
  | [ref, rate] =>
    match reference? ref, sessionRate? rate with
    | some ref, some rate =>
      if rate ≠ s.timebase.rate ∧ s.take.state ≠ .idle then (s, .refuse .busy)
      else (s.setClock ref rate s.now, .ok [])
    | _, _ => (s, .refuse .range)
  | _ => (s, .refuse .badLength)

/-- R29: CLOCK_SETUP. -/
def execClockSetup (p : Port) (clocks : List Lanes) (t : Nat) (s : State) : Result :=
  .next ((s.advance t).runCommand .clockSetup clockSetupRule p clocks)

/-- The sample-period event that has come by now, if `wanted` holds of it (logs 2 and 5), with what is taken `between` its
boundary and the framer's requests. -/
def State.sampleIf (s : State) (wanted : State → Bool) (between : State → State) : State :=
  match s.sampleBy? s.now with
  | some (refTimed, s1) => if wanted s1.adoptRate then s1.samplePeriod refTimed between else s
  | none => s

/-- R164: a step at a link at the present moment, with the effect of its own row. -/
def State.linkStep (s : State) : LinkStep → State
  | .transition l => s.transition l s.now
  | .timeout l => s.silence l
  | .restart p clocks => s.runCommand .linkRestart linkRestartRule p clocks
  | .setup p clocks => s.runCommand .linkSetup linkSetupRule p clocks

/-- R164: steps at the links, in order. -/
def State.linkSteps (s : State) (steps : List LinkStep) : State := steps.foldl State.linkStep s

/-- R31, R164: SAMPLE_PERIOD_EVENT. -/
def execSamplePeriodEvent (t : SampleEvent) (s : State) : Result :=
  .next (s.eventAt t.tick fun s1 => s1.sampleIf (fun _ => true) fun s2 => s2.linkSteps t.between)

/-- R36: TAKE_LENGTH_LIMIT: the sample-period event that is the boundary closing block 65534. -/
def execTakeLengthLimit (t : Nat) (s : State) : Result :=
  .next (s.eventAt t fun s1 => s1.sampleIf (fun s2 => s2.isBoundary && closesLastBlock s2.take) id)

/-- R31: POSITION_LIMIT: the sample-period event at which the position reaches 2^48 - 1. -/
def execPositionLimit (t : Nat) (s : State) : Result :=
  .next (s.eventAt t fun s1 => s1.sampleIf State.reachesLast id)

/-- R122: NEXT_WAIT_EXPIRY: the sample-period event that is the boundary bringing the wait of port `p` to 0. -/
def execNextWaitExpiry (p : Port) (t : Nat) (s : State) : Result :=
  .next (s.eventAt t fun s1 => s1.sampleIf (fun s2 => s2.isBoundary && (s2.feed p).wait == some 1) id)

end Sys2Proof.Machine
end

