-- ==== Sys2Proof/Machine/Takes.lean ====
section
/-! DEFINITION. The meanings of the take commands (02 §2.6) and of the engine's and store's own rows RECORD_PLACEMENT and
RECORD_PUBLICATION (05, 07). -/

namespace Sys2Proof.Machine

/-- R33: a roster entry passes: a bus always, a track if it is enabled. -/
def rosterEntryPasses (map : Vector TrackEntry 64) : Source → Bool
  | .track t => map[t].enabled
  | .bus _ => true

/-- R33, R140: the rule of ARM. -/
def armRule (_params : List Byte) (s : State) : State × Answer :=
  if s.take.state ≠ .idle then (s, .refuse .state)
  else if s.rate.roster.all (rosterEntryPasses s.framer.map) then
    ({ s with cues := { s.cues with entries := [], requests := [] } }.toTake .armed, .ok [])
  else (s, .refuse .conflict)

/-- R33: ARM. -/
def execArm (p : Port) (clocks : List Lanes) (s : State) : Result := .next (s.runCommand .arm armRule p clocks)

/-- R34: the rule of DISARM. -/
def disarmRule (_params : List Byte) (s : State) : State × Answer :=
  if s.take.state = .armed then (s.toTake .idle, .ok []) else (s, .refuse .state)

/-- R34: DISARM. -/
def execDisarm (p : Port) (clocks : List Lanes) (s : State) : Result :=
  .next (s.runCommand .disarm disarmRule p clocks)

/-- R35, R31: the rule of ROLL: once the position has stopped it is refused with RANGE. -/
def rollRule (_params : List Byte) (s : State) : State × Answer :=
  if s.take.state ≠ .armed then (s, .refuse .state)
  else if s.timebase.position = lastPosition then (s, .refuse .range)
  else
    ({ s with take := { s.take with startPosition := s.nextBoundary } }.toTake .starting,
      .ok (positionBytes s.nextBoundary))

/-- R35: ROLL. -/
def execRoll (p : Port) (clocks : List Lanes) (s : State) : Result := .next (s.runCommand .roll rollRule p clocks)

/-- R37: the rule of CLOSE. -/
def closeRule (_params : List Byte) (s : State) : State × Answer :=
  if s.take.state = .rolling then
    ({ s with take := { s.take with endRequest := .close } }.toTake .closing, .ok (positionBytes s.nextBoundary))
  else (s, .refuse .state)

/-- R37: CLOSE. -/
def execClose (p : Port) (clocks : List Lanes) (s : State) : Result := .next (s.runCommand .close closeRule p clocks)

/-- R39: the rule of ABORT. -/
def abortRule (_params : List Byte) (s : State) : State × Answer :=
  match s.take.state with
  | .idle => (s, .refuse .state)
  | .armed => (s, .refuse .state)
  | .starting => (s.abortTake, .ok [])
  | .rolling => (s.abortTake, .ok [])
  | .closing => (s.abortTake, .ok [])

/-- R39: ABORT. -/
def execAbort (p : Port) (clocks : List Lanes) (s : State) : Result := .next (s.runCommand .abort abortRule p clocks)

/-- R115: RECORD_PLACEMENT. -/
def execRecordPlacement (s : State) : Result := .next (if s.resetHeld then s else s.placeNext)

/-- R119: RECORD_PUBLICATION. -/
def execRecordPublication (s : State) : Result := .next (if s.resetHeld then s else s.publishNext)

end Sys2Proof.Machine
end

