-- ==== Sys2Proof/Machine/Settings.lean ====
section
/-! DEFINITION. The meanings of the setting commands: track map (03), gains (04), archive (05), stream (06). -/

namespace Sys2Proof.Machine

/-! ### Track map (R43, R44) -/

/-- R43, step 3: an enabled entry of another track names the same link and slot. -/
def sourceTaken (map : Vector TrackEntry 64) (track : Nat) (l : LinkId) (slot : Fin 16) : Bool :=
  (map.toList.mapIdx fun t e => e.enabled && decide (t ≠ track) && decide (e.link = l) && decide (e.slot = slot)).any id

/-- R43: one entry of the map replaced. -/
def setTrack (map : Vector TrackEntry 64) (track : Nat) (e : TrackEntry) : Vector TrackEntry 64 :=
  mapEntries (fun t old => if t = track then e else old) map

/-- R43: the entry that valid parameters give. -/
def trackEntry? (track enabled link slot : Byte) : Option TrackEntry :=
  match flag? enabled, link? link with
  | some on, some l =>
    if h : slot.toNat < 16 then if track.toNat < 64 then some ⟨on, l, ⟨slot.toNat, h⟩⟩ else none else none
  | _, _ => none

/-- R43: the rule of TRACK_MAP_SET from port `p`. -/
def trackMapSetRule (p : Port) (params : List Byte) (s : State) : State × Answer :=
  match params with
  | [track, enabled, link, slot] =>
    if s.take.state ≠ .idle then (s, .refuse .busy)
    else
      match trackEntry? track enabled link slot with
      | none => (s, .refuse .range)
      | some e =>
        if e.enabled && sourceTaken s.framer.map track.toNat e.link e.slot then (s, .refuse .conflict)
        else
          ({ s with framer := { s.framer with map := setTrack s.framer.map track.toNat e } }.raiseOthers .configChange p,
            .ok [])
  | _ => (s, .refuse .badLength)

/-- R43: TRACK_MAP_SET. -/
def execTrackMapSet (p : Port) (clocks : List Lanes) (s : State) : Result :=
  .next (s.runCommand .trackMapSet (trackMapSetRule p) p clocks)

/-- R44, R69, R73: a first track and a count that name tracks 0 to 63. -/
def tracksInRange (first count : Byte) : Bool :=
  first.toNat ≤ 63 && 1 ≤ count.toNat && count.toNat ≤ 64 && first.toNat + count.toNat ≤ 64

/-- R44: the four bytes of one map entry. -/
def trackEntryBytes (t : Nat) (e : TrackEntry) : List Byte :=
  bytesOf 1 t ++ [flagByte e.enabled] ++ bytesOf 1 (linkNumber e.link) ++ bytesOf 1 e.slot

/-- R44: the rule of TRACK_MAP_GET. -/
def trackMapGetRule (params : List Byte) (s : State) : State × Answer :=
  match params with
  | [first, count] =>
    if tracksInRange first count then
      (s, .ok (((s.framer.map.toList.mapIdx trackEntryBytes).drop first.toNat).take count.toNat).flatten)
    else (s, .refuse .range)
  | _ => (s, .refuse .badLength)

/-- R44: TRACK_MAP_GET. -/
def execTrackMapGet (p : Port) (clocks : List Lanes) (s : State) : Result :=
  .next (s.runCommand .trackMapGet trackMapGetRule p clocks)

/-! ### Gains (R69 to R73) -/

/-- R69: the gain entries of a list of bytes, three bytes each; none if a polarity is neither 0 nor 1. -/
def gainEntries? : List Byte → Option (List GainEntry)
  | hi :: lo :: polarity :: rest =>
    match flag? polarity, gainEntries? rest with
    | some inverted, some more => some (⟨BitVec.append hi lo, inverted⟩ :: more)
    | _, _ => none
  | _ => some []

/-- R69: entries written to one bus of a table from track `first` on, in list order. -/
def writeGains (table : GainTable) (bus first : Nat) (entries : List GainEntry) : GainTable :=
  mapEntries (fun b column =>
    if b = bus then
      mapEntries (fun t old => if first ≤ t then (entries[t - first]?).getD old else old) column
    else column) table

/-- R69: the rule of GAIN_SET. -/
def gainSetRule (params : List Byte) (s : State) : State × Answer :=
  match params with
  | bus :: first :: count :: rest =>
    match gainEntries? rest with
    | some entries =>
      if bus.toNat ≤ 3 && tracksInRange first count then
        ({ s with mix := { s.mix with edited := writeGains s.mix.edited bus.toNat first.toNat entries } }, .ok [])
      else (s, .refuse .range)
    | none => (s, .refuse .range)
  | _ => (s, .refuse .badLength)

/-- R69: GAIN_SET. -/
def execGainSet (p : Port) (clocks : List Lanes) (s : State) : Result :=
  .next (s.runCommand .gainSet gainSetRule p clocks)

/-- R71, R31: the rule of GAIN_APPLY from port `p`: once the position has stopped it is refused with RANGE. -/
def gainApplyRule (p : Port) (_params : List Byte) (s : State) : State × Answer :=
  if s.timebase.position = lastPosition then (s, .refuse .range)
  else
    let position := s.mix.applyMark.getD s.nextBoundary
    ({ s with mix := { s.mix with applyMark := some position } }.raiseOthers .configChange p, .ok (positionBytes position))

/-- R71: GAIN_APPLY. -/
def execGainApply (p : Port) (clocks : List Lanes) (s : State) : Result :=
  .next (s.runCommand .gainApply (gainApplyRule p) p clocks)

/-- R72: the rule of GAIN_DISCARD from port `p`. -/
def gainDiscardRule (p : Port) (_params : List Byte) (s : State) : State × Answer :=
  let s1 := { s with mix := { s.mix with edited := s.mix.active, applyMark := none } }
  match s.mix.applyMark with
  | some _ => (s1.raiseOthers .configChange p, .ok [flagByte true])
  | none => (s1, .ok [flagByte false])

/-- R72: GAIN_DISCARD. -/
def execGainDiscard (p : Port) (clocks : List Lanes) (s : State) : Result :=
  .next (s.runCommand .gainDiscard (gainDiscardRule p) p clocks)

/-- R73, R163: the apply mark as 7 bytes, the position sent as 0 when clear. -/
def applyMarkBytes : Option Nat → List Byte
  | none => flagByte false :: bytesOf 6 0
  | some p => flagByte true :: positionBytes p

/-- R73: the three bytes of one gain entry. -/
def gainEntryBytes (e : GainEntry) : List Byte := bytesOf 2 e.gain.toNat ++ [flagByte e.inverted]

/-- R73: the rule of GAIN_GET. -/
def gainGetRule (params : List Byte) (s : State) : State × Answer :=
  match params with
  | [copy, bus, first, count] =>
    match flag? copy, (s.mix.active)[bus.toNat]?, (s.mix.edited)[bus.toNat]?, (s.mix.ramps)[bus.toNat]? with
    | some edited, some act, some edi, some ramp =>
      if tracksInRange first count then
        let column := if edited then edi else act
        (s, .ok (applyMarkBytes s.mix.applyMark ++ [flagByte ramp.ramping] ++
          ((column.toList.drop first.toNat).take count.toNat).flatMap gainEntryBytes))
      else (s, .refuse .range)
    | _, _, _, _ => (s, .refuse .range)
  | _ => (s, .refuse .badLength)

/-- R73: GAIN_GET. -/
def execGainGet (p : Port) (clocks : List Lanes) (s : State) : Result :=
  .next (s.runCommand .gainGet gainGetRule p clocks)

/-! ### Archive (R82, R83) -/

/-- R82: the rule of ARCHIVE_SETUP from port `p`. -/
def archiveSetupRule (p : Port) (params : List Byte) (s : State) : State × Answer :=
  match params with
  | [mixes] =>
    if s.take.state ≠ .idle then (s, .refuse .busy)
    else
      match flag? mixes with
      | some on =>
        ({ s with engine := { s.engine with includeMixes := on } }.raiseOthers .configChange p, .ok [flagByte on])
      | none => (s, .refuse .range)
  | _ => (s, .refuse .badLength)

/-- R82: ARCHIVE_SETUP. -/
def execArchiveSetup (p : Port) (clocks : List Lanes) (s : State) : Result :=
  .next (s.runCommand .archiveSetup (archiveSetupRule p) p clocks)

/-- R83: the rule of ARCHIVE_GET. -/
def archiveGetRule (_params : List Byte) (s : State) : State × Answer :=
  (s, .ok ([flagByte s.engine.includeMixes] ++
    bytesOf 1 (archiveChannels s.framer.map s.engine.includeMixes).length))

/-- R83: ARCHIVE_GET. -/
def execArchiveGet (p : Port) (clocks : List Lanes) (s : State) : Result :=
  .next (s.runCommand .archiveGet archiveGetRule p clocks)

/-! ### Stream (R99, R100) -/

/-- R99: the sources some bytes name; none if one exceeds 67. -/
def sources? : List Byte → Option (List Source)
  | [] => some []
  | b :: rest =>
    match source? b, sources? rest with
    | some c, some more => some (c :: more)
    | _, _ => none

/-- R99: a number brought into a range. -/
def clampTo (lo hi n : Nat) : Nat := max lo (min hi n)

/-- R99: the rate controller after an accepted STREAM_SETUP. -/
def RateControl.setup (rc : RateControl) (roster : List Source) (rate factor : Nat) : RateControl :=
  let rc1 := { rc with roster := roster, rate := clampTo 128 16000 rate, factor := clampTo 1 16 factor }
  { rc1 with level := min rc.level rc1.capacity }

/-- R99: the effective values in the answer of STREAM_SETUP. -/
def streamSetupData (rc : RateControl) : List Byte :=
  bytesOf 2 rc.rate ++ bytesOf 1 rc.factor ++ bytesOf 4 rc.budget ++ bytesOf 4 rc.capacity ++ bytesOf 4 rc.level

/-- R99: the rule of STREAM_SETUP from port `p`. -/
def streamSetupRule (p : Port) (params : List Byte) (s : State) : State × Answer :=
  match params with
  | n :: rest =>
    let ids := rest.take n.toNat
    match rest.drop n.toNat with
    | [rateHi, rateLo, factor] =>
      if s.take.state ≠ .idle then (s, .refuse .busy)
      else
        match sources? ids with
        | none => (s, .refuse .range)
        | some roster =>
          if n.toNat = 0 ∨ 16 < n.toNat then (s, .refuse .range)
          else if roster.Nodup then
            let rate := numberOf [rateHi, rateLo]
            let rc := s.rate.setup roster rate factor.toNat
            let status : Status := if rc.rate = rate ∧ rc.factor = factor.toNat then .ok else .okClamped
            ({ s with rate := rc }.raiseOthers .configChange p, .response (Response.of status (streamSetupData rc)))
          else (s, .refuse .conflict)
    | _ => (s, .refuse .badLength)
  | _ => (s, .refuse .badLength)

/-- R99: STREAM_SETUP. -/
def execStreamSetup (p : Port) (clocks : List Lanes) (s : State) : Result :=
  .next (s.runCommand .streamSetup (streamSetupRule p) p clocks)

/-- R100: the data of STREAM_GET. -/
def streamGetData (rc : RateControl) : List Byte :=
  bytesOf 1 rc.roster.length ++ rc.roster.flatMap (fun c => bytesOf 1 (sourceId c)) ++ streamSetupData rc ++
    bytesOf 1 rc.prevShift

/-- R100: the rule of STREAM_GET. -/
def streamGetRule (_params : List Byte) (s : State) : State × Answer := (s, .ok (streamGetData s.rate))

/-- R100: STREAM_GET. -/
def execStreamGet (p : Port) (clocks : List Lanes) (s : State) : Result :=
  .next (s.runCommand .streamGet streamGetRule p clocks)

end Sys2Proof.Machine
end

