-- ==== Sys2Proof/Machine/Feeds.lean ====
section
/-! DEFINITION. The meanings of the feed commands (07): STORE_SETUP, SUBSCRIBE, UNSUBSCRIBE, NEXT, RELEASE, FEED_STATUS. -/

namespace Sys2Proof.Machine

/-- R111: the sizes STORE_SETUP accepts. -/
def sizesAccepted (ra rs : Nat) : Bool := 64 ≤ ra && 16 ≤ rs && ra + rs ≤ 2048

/-- R111: the rule of STORE_SETUP from port `p`. -/
def storeSetupRule (p : Port) (params : List Byte) (s : State) : State × Answer :=
  match params with
  | [raHi, raLo, rsHi, rsLo] =>
    let ra := numberOf [raHi, raLo]
    let rs := numberOf [rsHi, rsLo]
    if s.take.state ≠ .idle then (s, .refuse .busy)
    else if sizesAccepted ra rs then
      let s1 := if ra = s.store.archive.size ∧ rs = s.store.stream.size then s else s.reformRegions ra rs
      (s1.raiseOthers .configChange p, .ok (bytesOf 2 ra ++ bytesOf 2 rs))
    else (s, .refuse .range)
  | _ => (s, .refuse .badLength)

/-- R111: STORE_SETUP. -/
def execStoreSetup (p : Port) (clocks : List Lanes) (s : State) : Result :=
  .next (s.runCommand .storeSetup (storeSetupRule p) p clocks)

/-- R120: the rule of SUBSCRIBE from port `p`. -/
def subscribeRule (p : Port) (params : List Byte) (s : State) : State × Answer :=
  match params with
  | [feed] =>
    match (s.feed p).subscription with
    | some _ => (s, .refuse .state)
    | none =>
      match feed? feed with
      | some f => (s.setFeed p ((s.feed p).subscribed f (s.region f).lastPublished), .ok [])
      | none => (s, .refuse .range)
  | _ => (s, .refuse .badLength)

/-- R120: SUBSCRIBE. -/
def execSubscribe (p : Port) (clocks : List Lanes) (s : State) : Result :=
  .next (s.runCommand .subscribe (subscribeRule p) p clocks)

/-- R120: the rule of UNSUBSCRIBE from port `p`. -/
def unsubscribeRule (p : Port) (_params : List Byte) (s : State) : State × Answer :=
  match (s.feed p).subscription with
  | none => (s, .refuse .state)
  | some _ =>
    ({ s with store := ⟨s.store.archive.dropPort p, s.store.stream.dropPort p⟩ }.setFeed p (s.feed p).unsubscribed,
      .ok (bytesOf 2 (s.heldCount p) ++ bytesOf 2 (s.feed p).lost))

/-- R120: UNSUBSCRIBE. -/
def execUnsubscribe (p : Port) (clocks : List Lanes) (s : State) : Result :=
  .next (s.runCommand .unsubscribe (unsubscribeRule p) p clocks)

/-- R121: the size of the record of an identity in the store. -/
def State.storedSize (s : State) (id : RecordId) : Nat :=
  match (s.region id.feed).ring.find? fun r => r.id = id with
  | some r => r.bytes.length
  | none => 0

/-- R121, R31: the rule of NEXT from port `p`. The arming flag is set whatever the answer (R124). -/
def nextRule (p : Port) (params : List Byte) (s : State) : State × Answer :=
  match params with
  | [w] =>
    match (s.feed p).subscription with
    | none => (s, .refuse .state)
    | some _ =>
      let f := { s.feed p with arming := true }
      match f.cursor with
      | some id => (s.setFeed p (f.answered id (s.storedSize id)), .response (recordResponse f id (s.storedSize id)))
      | none =>
        if w.toNat = 0 ∨ s.timebase.position = lastPosition then
          (s.setFeed p { f with lost := 0 }, .response (noneResponse f))
        else (s.setFeed p { f with wait := some (min w.toNat 15) }, .waits)
  | _ => (s, .refuse .badLength)

/-- R121: NEXT. -/
def execNext (p : Port) (clocks : List Lanes) (s : State) : Result := .next (s.runCommand .next (nextRule p) p clocks)

/-- R125: the answer of RELEASE to an identity that is not the cursor record's: GONE or RANGE. -/
def releaseRefusal (f : FeedState) (id : RecordId) : Status :=
  match f.cursor with
  | some c => if id.earlier c then .gone else .range
  | none =>
    match f.lastTaken with
    | some t => if id = t || id.earlier t then .gone else .range
    | none => .range

/-- R125: the rule of RELEASE from port `p`. -/
def releaseRule (p : Port) (params : List Byte) (s : State) : State × Answer :=
  match params with
  | [feed, takeHi, takeLo, seqHi, seqLo] =>
    match (s.feed p).subscription with
    | none => (s, .refuse .state)
    | some sub =>
      let take := numberOf [takeHi, takeLo]
      if feed? feed ≠ some sub ∨ take = 0 then (s, .refuse .range)
      else
        let id : RecordId := ⟨sub, take, numberOf [seqHi, seqLo]⟩
        if (s.feed p).cursor = some id then (s.releaseCursor p id, .ok [])
        else (s, .refuse (releaseRefusal (s.feed p) id))
  | _ => (s, .refuse .badLength)

/-- R125: RELEASE. -/
def execRelease (p : Port) (clocks : List Lanes) (s : State) : Result :=
  .next (s.runCommand .release (releaseRule p) p clocks)

/-- R127, R163: an identity as take number and sequence, take number 0 for none; the sequence is then sent as 0 (DESIGN
CHOICE, log 31). -/
def idBytes : Option RecordId → List Byte
  | none => bytesOf 4 0
  | some id => bytesOf 2 id.take ++ bytesOf 2 id.sequence

/-- R127: the 19 bytes of one region. -/
def regionData (r : Region) : List Byte :=
  bytesOf 2 r.size ++ bytesOf 2 r.used ++ bytesOf 2 r.ring.length ++ [flagByte r.filling.isSome] ++
    idBytes (r.ring.head?.map Record.id) ++ idBytes (r.ring.getLast?.map Record.id) ++ idBytes r.lastPublished

/-- R127: the data of FEED_STATUS for port `p`. -/
def feedStatusData (s : State) (p : Port) : List Byte :=
  let f := s.feed p
  regionData s.store.archive ++ regionData s.store.stream ++ bytesOf 1 (subscriptionCode f.subscription) ++
    idBytes f.cursor ++ bytesOf 2 (s.heldCount p) ++ bytesOf 2 f.lost ++ [flagByte f.arming]

/-- R127: the rule of FEED_STATUS from port `p`. -/
def feedStatusRule (p : Port) (_params : List Byte) (s : State) : State × Answer := (s, .ok (feedStatusData s p))

/-- R127: FEED_STATUS. -/
def execFeedStatus (p : Port) (clocks : List Lanes) (s : State) : Result :=
  .next (s.runCommand .feedStatus (feedStatusRule p) p clocks)

end Sys2Proof.Machine
end

