-- ==== Sys2Proof/Machine/CueCommands.lean ====
section
/-! DEFINITION. The meanings of the cue list rows: CUE_ADD, CUE_DELETE, CUE_LIST, and FAULT_REQUEST_TAKEN (08). -/

namespace Sys2Proof.Machine

/-- R46: the block start of the block being gathered, while one is. -/
def State.gatheredStart (s : State) : Option Nat :=
  if s.take.gathering then s.framer.filling?.map fun i => (s.framer.buffer i).start else none

/-- R134: the late limit of a cue, if one applies. -/
def State.lateLimit (s : State) : Option Nat :=
  match s.take.state with
  | .idle => none
  | .armed => none
  | .starting => none
  | .rolling => s.gatheredStart
  | .closing => if s.take.gathering then s.gatheredStart else some s.take.endPosition

/-- R134: the answer to an accepted CUE_ADD at a position. -/
def State.cueStatus (s : State) (position : Nat) : Status :=
  match s.lateLimit with
  | some limit => if position < limit then .okLate else .ok
  | none => .ok

/-- R132, step 3: the characters a label may have. -/
def labelAccepted (label : List Byte) : Bool :=
  label.length ≤ 10 && label.all fun b => 32 ≤ b.toNat && b.toNat ≤ 126

/-- R133: the data of the answer of CUE_ADD: the id, the position used, the index and the number of entries. -/
def cueAddData (id : Nat) (position : Nat) (entries : List Cue) : List Byte :=
  bytesOf 2 id ++ positionBytes position ++ bytesOf 1 (entries.findIdx fun c => c.id == id) ++ bytesOf 1 entries.length

/-- R132 to R134: the rule of CUE_ADD from port `p`. -/
def cueAddRule (p : Port) (params : List Byte) (s : State) : State × Answer :=
  match params with
  | kind :: mode :: a :: b :: c :: d :: e :: f :: _len :: label =>
    match cueKind? kind, flag? mode with
    | some kind, some explicit =>
      if labelAccepted label then
        if 128 ≤ s.cues.entries.length then (s, .refuse .full)
        else
          let position := if explicit then numberOf [a, b, c, d, e, f] else s.timebase.position
          let cues := s.cues.add position kind label (.port p)
          ({ s with cues := cues }.raiseOthers .cueChange p,
            .response (Response.of (s.cueStatus position) (cueAddData s.cues.newId position cues.entries)))
      else (s, .refuse .range)
    | _, _ => (s, .refuse .range)
  | _ => (s, .refuse .badLength)

/-- R133: CUE_ADD. -/
def execCueAdd (p : Port) (clocks : List Lanes) (s : State) : Result :=
  .next (s.runCommand .cueAdd (cueAddRule p) p clocks)

/-- R135: the rule of CUE_DELETE from port `p`. -/
def cueDeleteRule (p : Port) (params : List Byte) (s : State) : State × Answer :=
  match params with
  | [hi, lo] =>
    let id := numberOf [hi, lo]
    if id = 0 then (s, .refuse .range)
    else if s.cues.entries.any fun c => c.id == id then
      let entries := s.cues.entries.filter fun c => c.id != id
      ({ s with cues := { s.cues with entries := entries } }.raiseOthers .cueChange p, .ok (bytesOf 1 entries.length))
    else (s, .refuse .notFound)
  | _ => (s, .refuse .badLength)

/-- R135: CUE_DELETE. -/
def execCueDelete (p : Port) (clocks : List Lanes) (s : State) : Result :=
  .next (s.runCommand .cueDelete (cueDeleteRule p) p clocks)

/-- R136, 10 §10.5: an entry of CUE_LIST in 20 bytes; label bytes beyond the label length are sent as 0, as in a record's
cue entry (DESIGN CHOICE, log 32). -/
def cueListBytes (c : Cue) : List Byte :=
  bytesOf 2 c.id ++ positionBytes c.position ++ bytesOf 1 (kindOrigin c) ++ bytesOf 1 c.label.length ++ labelBytes c.label

/-- R136: the rule of CUE_LIST. -/
def cueListRule (params : List Byte) (s : State) : State × Answer :=
  match params with
  | [start, count] =>
    if start.toNat ≤ 127 ∧ 1 ≤ count.toNat ∧ count.toNat ≤ 128 then
      (s, .ok (bytesOf 1 s.cues.entries.length ++
        ((s.cues.entries.drop start.toNat).take count.toNat).flatMap cueListBytes))
    else (s, .refuse .range)
  | _ => (s, .refuse .badLength)

/-- R136: CUE_LIST. -/
def execCueList (p : Port) (clocks : List Lanes) (s : State) : Result :=
  .next (s.runCommand .cueList cueListRule p clocks)

/-- R137, R138: the cue list takes its oldest FAULT request: the cue is added and CUE_CHANGE raised at every port, or the
request is dropped at a full list. -/
def State.takeFaultRequest (s : State) : State :=
  match s.cues.requests with
  | [] => s
  | r :: rest =>
    let c := { s.cues with requests := rest }
    if c.entries.length < 128 then
      { s with cues := c.add r.position .fault r.label .part }.raiseAll .cueChange
    else { s with cues := c }

/-- R137: FAULT_REQUEST_TAKEN. -/
def execFaultRequestTaken (s : State) : Result := .next (if s.resetHeld then s else s.takeFaultRequest)

end Sys2Proof.Machine
end

