-- ==== Sys2Proof/Machine/Ports.lean ====
section
/-! DEFINITION. The meanings of the port rows (09): transfers, BAD_COMMAND, PORT_MODE, EVENTS, EVENT_MASK, STATUS, and
reset. -/

namespace Sys2Proof.Machine

/-! ### Transfers (R142 to R145, R147, R149, R150) -/

/-- R144: a command frame begins at a port that has been selected: RECEIVING, with the periods so far clocked in; at the
deassertion of SEL the frame ends. -/
def PortState.receive (q : PortState) (clocks : List Lanes) (ended : Bool) : PortState :=
  let q1 := { q.toPhase .receiving with rx := ReceiveBuffer.empty }.clockIn clocks
  if ended then q1.endFrame else q1

/-- R142, R143: a transfer of `n` SCLK periods at port `p` that ends before its first byte is whole: in SINGLE mode the port
drives filler on D1 in each of them (DEDUCED, log 36), and nothing else comes of it in any phase. -/
def State.codelessTransfer (s : State) (p : Port) (n : Nat) : State :=
  if (s.port p).inTransfer then s else s.setPort p ((s.port p).select.drivesFiller n)

/-- R143, R144, R147, R150: a command code as transfer code at port `p`. In RECEIVING and SENDING the assertion is open
already and no transfer code forms (09 §9.3). -/
def State.frameStart (s : State) (p : Port) (clocks : List Lanes) (ended : Bool) : State :=
  let q := (s.port p).select
  let bytes := (bytesIn q.laneMode clocks).1
  match bytes.head? with
  | none => s.codelessTransfer p clocks.length
  | some code =>
    if code = readCode then s
    else
      match (s.port p).phase with
      | .idle => s.setPort p (q.receive clocks ended)
      | .responseReady =>
        let s1 := (s.setPort p q).dropResponse p
        s1.setPort p ({ s1.port p with responseDiscarded := true }.receive clocks ended)
      | .executing => s.setPort p { q.drivesFiller clocks.length with inputDropped := true, restIgnored := !ended }
      | .waiting => s.setPort p { q.drivesFiller clocks.length with inputDropped := true, restIgnored := !ended }
      | .receiving => s
      | .sending => s

/-- R143: FRAME_START. -/
def execFrameStart (p : Port) (clocks : List Lanes) (ended : Bool) (s : State) : Result :=
  .next (if s.resetHeld then s else s.frameStart p clocks ended)

/-- R145: whether port `p` is RECEIVING an incomplete frame. -/
def PortState.frameOpen (q : PortState) : Bool := q.phase = .receiving && q.rx.frame?.isNone

/-- R145: FRAME_ABANDONED: SEL is deasserted before the frame is complete. -/
def execFrameAbandoned (p : Port) (s : State) : Result :=
  .next (if s.resetHeld || !(s.port p).frameOpen then s else s.setPort p (s.port p).deselect.abandon)

/-- R145, R142: RECEIVE_TIMEOUT: the frame is abandoned and the rest of the assertion is ignored, with filler on D1 in its
SCLK periods in SINGLE mode. -/
def execReceiveTimeout (t : TimedOutFrame) (s : State) : Result :=
  .next (if s.resetHeld || !(s.port t.port).frameOpen then s
    else s.setPort t.port { (s.port t.port).abandon.drivesFiller t.rest.length with restIgnored := true, clocks := [] })

/-- R146: BAD_COMMAND: a complete frame whose code names no command. -/
def execBadCommand (p : Port) (clocks : List Lanes) (s : State) : Result :=
  .next (if s.resetHeld then s
    else
      match s.frameEnds p clocks with
      | some (s1, f) => if commandOf? f.code = none then s1.answer p (.refuse .badCommand) else s
      | none => s.frameFails p clocks)

/-- R142, R143, R147, R149: READ as transfer code at port `p`: the response begins in RESPONSE_READY; filler in IDLE,
EXECUTING and WAITING; in RECEIVING and SENDING the assertion is open already. -/
def State.readTransfer (s : State) (p : Port) (clocks : List Lanes) : State :=
  let q := (s.port p).select
  match (bytesIn q.laneMode clocks).1.head? with
  | none => s.codelessTransfer p clocks.length
  | some code =>
    if code = readCode then
      let k := bytePeriods q.laneMode
      let first := fillerIn q.laneMode k
      let fill := s.setPort p { q with driven := first ++ fillerOut q.laneMode (clocks.length - k) }
      match (s.port p).phase with
      | .responseReady => (s.setPort p { q.toPhase .sending with driven := first }).send p (clocks.drop k)
      | .idle => fill
      | .executing => fill
      | .waiting => fill
      | .receiving => s
      | .sending => s
    else s

/-- R149: READ. -/
def execRead (p : Port) (clocks : List Lanes) (s : State) : Result :=
  .next (if s.resetHeld then s else s.readTransfer p clocks)

/-- R149, R153: in SENDING the SCLK periods `clocks` send more of the response, then SEL is deasserted: the response leaves
the port, a mode change due is made, and the port is IDLE. -/
def State.endResponse (s : State) (p : Port) (clocks : List Lanes) : State :=
  let q := s.port p
  if q.phase = .sending then
    let s1 := (s.send p clocks).dropResponse p
    s1.setPort p ((s1.port p).deselect.toPhase .idle)
  else s

/-- R149: RESPONSE_END. -/
def execResponseEnd (p : Port) (clocks : List Lanes) (s : State) : Result :=
  .next (if s.resetHeld then s else s.endResponse p clocks)

/-! ### Port commands (R153, R156 to R158) -/

/-- R153: the rule of PORT_MODE from port `p`. -/
def portModeRule (p : Port) (params : List Byte) (s : State) : State × Answer :=
  match params with
  | [mode] =>
    match laneMode? mode with
    | some m =>
      let q := s.port p
      (s.setPort p { q with modeDue := if m = q.laneMode then none else some m }, .ok (bytesOf 1 (laneCode m)))
    | none => (s, .refuse .range)
  | _ => (s, .refuse .badLength)

/-- R153: PORT_MODE. -/
def execPortMode (p : Port) (clocks : List Lanes) (s : State) : Result :=
  .next (s.runCommand .portMode (portModeRule p) p clocks)

/-- R156: the rule of EVENTS from port `p`. -/
def eventsRule (p : Port) (_params : List Byte) (s : State) : State × Answer :=
  let q := s.port p
  (s.setPort p (q.withEvents 0 q.mask), .ok (bytesOf 2 q.events.toNat ++ bytesOf 2 q.mask.toNat))

/-- R156: EVENTS. -/
def execEvents (p : Port) (clocks : List Lanes) (s : State) : Result :=
  .next (s.runCommand .events (eventsRule p) p clocks)

/-- R157: the rule of EVENT_MASK from port `p`. -/
def eventMaskRule (p : Port) (params : List Byte) (s : State) : State × Answer :=
  match params with
  | [hi, lo] =>
    let m := numberOf [hi, lo]
    if m < 512 then
      let q := s.port p
      (s.setPort p (q.withEvents q.events (BitVec.ofNat 9 m)), .ok (bytesOf 2 m))
    else (s, .refuse .range)
  | _ => (s, .refuse .badLength)

/-- R157: EVENT_MASK. -/
def execEventMask (p : Port) (clocks : List Lanes) (s : State) : Result :=
  .next (s.runCommand .eventMask (eventMaskRule p) p clocks)

/-- R158: the data of STATUS for port `p`. -/
def statusData (s : State) (p : Port) : List Byte :=
  bytesOf 1 (clockCode s.timebase.clock) ++ bytesOf 1 (referenceCode s.timebase.reference) ++
    bytesOf 1 (rateCode s.timebase.rate) ++ positionBytes s.timebase.position ++ bytesOf 1 (takeCode s.take.state) ++
    bytesOf 2 s.take.number ++ bytesOf 2 s.take.sequence ++
    ([s.links.l0, s.links.l1, s.links.l2, s.links.l3].flatMap fun r => bytesOf 1 (lockCode r.lock) ++ [flagByte r.ready]) ++
    bytesOf 1 (laneCode (s.port p).laneMode)

/-- R158: the rule of STATUS from port `p`. -/
def statusRule (p : Port) (_params : List Byte) (s : State) : State × Answer := (s, .ok (statusData s p))

/-- R158: STATUS. -/
def execStatus (p : Port) (clocks : List Lanes) (s : State) : Result :=
  .next (s.runCommand .status (statusRule p) p clocks)

/-! ### Reset (R159) -/

/-- R159: RESET: every block returns to its reset state; the queue of steps is not the part's and stays
(DESIGN CHOICE, log 24). -/
def execReset (t : Nat) (s : State) : Result :=
  .next { State.resetAt (s.moment t) true with pending := s.pending }

/-- R159: RESET_END: the ports enter IDLE, READY goes high; the reset time is this moment (DESIGN CHOICE, log 15). A transfer
whose assertion began before is ignored to its end, and in SINGLE mode the port drives nothing on D1 in its remaining
SCLK periods, which R142 and R159 leave open (DESIGN CHOICE, log 37). -/
def execResetEnd (t : Nat) (s : State) : Result :=
  .next (if s.resetHeld then { State.resetAt (s.moment t) false with pending := s.pending } else s.advance t)

end Sys2Proof.Machine
end

