-- ==== Sys2Proof/Machine/Dispatch.lean ====
section
/-! DEFINITION. The dispatch of steps to their meanings, one arm for each row of the opcode table. -/

namespace Sys2Proof.Machine

open Host

/-- The effect of a step on everything but the queue. -/
def exec (i : Instr) (s : State) : Host.Outcome State Fault Refusal :=
  match i with
  | .lineTransition l t => Sys2Proof.Machine.execLineTransition l t s
  | .edgeTimeout l t => Sys2Proof.Machine.execEdgeTimeout l t s
  | .linkSetup p clocks t => Sys2Proof.Machine.execLinkSetup p clocks t s
  | .linkRestart p clocks t => Sys2Proof.Machine.execLinkRestart p clocks t s
  | .linkStatus p clocks => Sys2Proof.Machine.execLinkStatus p clocks s
  | .linkCounters p clocks => Sys2Proof.Machine.execLinkCounters p clocks s
  | .wclkEdge t => Sys2Proof.Machine.execWclkEdge t s
  | .latePeriod t => Sys2Proof.Machine.execLatePeriod t s
  | .referenceAbsent t => Sys2Proof.Machine.execReferenceAbsent t s
  | .clockSetup p clocks t => Sys2Proof.Machine.execClockSetup p clocks t s
  | .samplePeriodEvent t => Sys2Proof.Machine.execSamplePeriodEvent t s
  | .takeLengthLimit t => Sys2Proof.Machine.execTakeLengthLimit t s
  | .positionLimit t => Sys2Proof.Machine.execPositionLimit t s
  | .nextWaitExpiry p t => Sys2Proof.Machine.execNextWaitExpiry p t s
  | .recordPlacement => Sys2Proof.Machine.execRecordPlacement s
  | .recordPublication => Sys2Proof.Machine.execRecordPublication s
  | .arm p clocks => Sys2Proof.Machine.execArm p clocks s
  | .disarm p clocks => Sys2Proof.Machine.execDisarm p clocks s
  | .roll p clocks => Sys2Proof.Machine.execRoll p clocks s
  | .close p clocks => Sys2Proof.Machine.execClose p clocks s
  | .abort p clocks => Sys2Proof.Machine.execAbort p clocks s
  | .trackMapSet p clocks => Sys2Proof.Machine.execTrackMapSet p clocks s
  | .trackMapGet p clocks => Sys2Proof.Machine.execTrackMapGet p clocks s
  | .gainSet p clocks => Sys2Proof.Machine.execGainSet p clocks s
  | .gainApply p clocks => Sys2Proof.Machine.execGainApply p clocks s
  | .gainDiscard p clocks => Sys2Proof.Machine.execGainDiscard p clocks s
  | .gainGet p clocks => Sys2Proof.Machine.execGainGet p clocks s
  | .archiveSetup p clocks => Sys2Proof.Machine.execArchiveSetup p clocks s
  | .archiveGet p clocks => Sys2Proof.Machine.execArchiveGet p clocks s
  | .streamSetup p clocks => Sys2Proof.Machine.execStreamSetup p clocks s
  | .streamGet p clocks => Sys2Proof.Machine.execStreamGet p clocks s
  | .storeSetup p clocks => Sys2Proof.Machine.execStoreSetup p clocks s
  | .subscribe p clocks => Sys2Proof.Machine.execSubscribe p clocks s
  | .unsubscribe p clocks => Sys2Proof.Machine.execUnsubscribe p clocks s
  | .next p clocks => Sys2Proof.Machine.execNext p clocks s
  | .release p clocks => Sys2Proof.Machine.execRelease p clocks s
  | .feedStatus p clocks => Sys2Proof.Machine.execFeedStatus p clocks s
  | .cueAdd p clocks => Sys2Proof.Machine.execCueAdd p clocks s
  | .cueDelete p clocks => Sys2Proof.Machine.execCueDelete p clocks s
  | .cueList p clocks => Sys2Proof.Machine.execCueList p clocks s
  | .faultRequestTaken => Sys2Proof.Machine.execFaultRequestTaken s
  | .frameStart p clocks ended => Sys2Proof.Machine.execFrameStart p clocks ended s
  | .frameAbandoned p => Sys2Proof.Machine.execFrameAbandoned p s
  | .receiveTimeout t => Sys2Proof.Machine.execReceiveTimeout t s
  | .badCommand p clocks => Sys2Proof.Machine.execBadCommand p clocks s
  | .read p clocks => Sys2Proof.Machine.execRead p clocks s
  | .responseEnd p clocks => Sys2Proof.Machine.execResponseEnd p clocks s
  | .portMode p clocks => Sys2Proof.Machine.execPortMode p clocks s
  | .events p clocks => Sys2Proof.Machine.execEvents p clocks s
  | .eventMask p clocks => Sys2Proof.Machine.execEventMask p clocks s
  | .status p clocks => Sys2Proof.Machine.execStatus p clocks s
  | .reset t => Sys2Proof.Machine.execReset t s
  | .resetEnd t => Sys2Proof.Machine.execResetEnd t s

end Sys2Proof.Machine
end

