-- ==== Sys2Proof/Safety.lean ====
section
/-! DEFINITION. The terms in which claims about the part are stated: a command in hand at a port, the ports after an answer,
the conditions that hold in every safe run, and readings of the part's formats written apart from the part's own. -/

namespace Sys2Proof.Machine

/-! ### Commands in hand -/

/-- The port, SCLK periods and command of a row of the table that is a command. -/
def commandRow? : Instr → Option (Port × List Lanes × Command)
  | .linkSetup p clocks _ => some (p, clocks, .linkSetup)
  | .linkRestart p clocks _ => some (p, clocks, .linkRestart)
  | .linkStatus p clocks => some (p, clocks, .linkStatus)
  | .linkCounters p clocks => some (p, clocks, .linkCounters)
  | .clockSetup p clocks _ => some (p, clocks, .clockSetup)
  | .arm p clocks => some (p, clocks, .arm)
  | .disarm p clocks => some (p, clocks, .disarm)
  | .roll p clocks => some (p, clocks, .roll)
  | .close p clocks => some (p, clocks, .close)
  | .abort p clocks => some (p, clocks, .abort)
  | .trackMapSet p clocks => some (p, clocks, .trackMapSet)
  | .trackMapGet p clocks => some (p, clocks, .trackMapGet)
  | .gainSet p clocks => some (p, clocks, .gainSet)
  | .gainApply p clocks => some (p, clocks, .gainApply)
  | .gainDiscard p clocks => some (p, clocks, .gainDiscard)
  | .gainGet p clocks => some (p, clocks, .gainGet)
  | .archiveSetup p clocks => some (p, clocks, .archiveSetup)
  | .archiveGet p clocks => some (p, clocks, .archiveGet)
  | .streamSetup p clocks => some (p, clocks, .streamSetup)
  | .streamGet p clocks => some (p, clocks, .streamGet)
  | .storeSetup p clocks => some (p, clocks, .storeSetup)
  | .subscribe p clocks => some (p, clocks, .subscribe)
  | .unsubscribe p clocks => some (p, clocks, .unsubscribe)
  | .next p clocks => some (p, clocks, .next)
  | .release p clocks => some (p, clocks, .release)
  | .feedStatus p clocks => some (p, clocks, .feedStatus)
  | .cueAdd p clocks => some (p, clocks, .cueAdd)
  | .cueDelete p clocks => some (p, clocks, .cueDelete)
  | .cueList p clocks => some (p, clocks, .cueList)
  | .portMode p clocks => some (p, clocks, .portMode)
  | .events p clocks => some (p, clocks, .events)
  | .eventMask p clocks => some (p, clocks, .eventMask)
  | .status p clocks => some (p, clocks, .status)
  | .lineTransition .. | .edgeTimeout .. | .wclkEdge .. | .latePeriod .. | .referenceAbsent .. | .samplePeriodEvent ..
  | .takeLengthLimit .. | .positionLimit .. | .nextWaitExpiry .. | .recordPlacement | .recordPublication
  | .faultRequestTaken | .frameStart .. | .frameAbandoned .. | .receiveTimeout .. | .badCommand .. | .read ..
  | .responseEnd .. | .reset .. | .resetEnd .. => none

/-- The tick of a command row that carries one: the moment the command is taken (log 1). -/
def commandMoment : Instr → State → Nat
  | .linkSetup _ _ t, s => s.moment t
  | .linkRestart _ _ t, s => s.moment t
  | .clockSetup _ _ t, s => s.moment t
  | _, s => s.now

/-- R144, R146: with the SCLK periods `clocks` the frame of command `c` with parameters `ps` is in hand at port `p`; `e` is
the port once SEL has been deasserted. -/
structure State.commandAt (s : State) (p : Port) (clocks : List Lanes) (c : Command) (ps : List Byte) (e : PortState) :
    Prop where
  running : s.resetHeld = false
  frame : ∃ code : Byte, commandOf? code = some c ∧ s.frameEnds p clocks = some (s.setPort p e, ⟨code, ps.length, ps⟩)

/-- The three ports when port `p` becomes `mine` and each other port changes by `others`. -/
def State.portsAfter (s : State) (p : Port) (mine : PortState) (others : PortState → PortState) : PerPort PortState :=
  PerPort.of fun q => if q = p then mine else others (s.port q)

/-- The three ports each with event `k` raised. -/
def State.portsRaised (s : State) (k : EventKind) : PerPort PortState := PerPort.of fun q => (s.port q).raise k

/-- R146, R149, R151: a port that holds a response of status `st` with these data. -/
def PortState.holds (e : PortState) (st : Status) (data : List Byte) : PortState :=
  { e with phase := .responseReady, readyHigh := true, response := some ⟨st, .bytes data⟩, sent := 0,
           rx := ReceiveBuffer.empty }

/-- 09 §9.5: the statuses of a refusal, and GONE, which "changes nothing" as well (R125). -/
def Status.changesNothing : Status → Bool
  | .gone | .busy | .state | .range | .conflict | .full | .notFound | .badCommand | .badLength => true
  | .ok | .okLate | .okClamped | .none => false

/-- What two states of a port share when only events have been raised between them (R154). -/
def PortState.sameTransaction (a b : PortState) : Prop :=
  b = { a with events := b.events, attnAsserted := b.attnAsserted } ∧ a.events &&& b.events = a.events

/-- R13, R28, R137: the cue list `c` after a FAULT request with this label at the present position: it waits in the queue
while the take is ROLLING or CLOSING and the queue holds fewer than 8. -/
def State.cuesAsked (s : State) (c : Cues) (label : List Byte) : Cues :=
  if (s.take.state = .rolling ∨ s.take.state = .closing) ∧ c.requests.length < 8 then
    { c with requests := c.requests ++ [⟨label, s.timebase.position⟩] }
  else c

/-- R119, R122, R124: `u` is `s` after the publication of the FILLING record `r` of its region: dropped and its pages given
back with no subscriber, else the newest of the ring, held by the subscribers; an empty cursor becomes it, a wait is
answered with it, an armed port gets REC_READY and is disarmed. -/
structure State.Publishes (s u : State) (r : Record) : Prop where
  frame : u = { s with store := u.store, feeds := u.feeds, ports := u.ports }
  dropped : (∀ p, (s.feed p).subscription ≠ some r.id.feed) → u = s.setRegion r.id.feed { s.region r.id.feed with
    filling := none, writePoint := r.firstPage, lastPublished := some r.id }
  kept : (∃ p, (s.feed p).subscription = some r.id.feed) →
    u.store = s.store.setRegion r.id.feed { s.region r.id.feed with
      filling := none, lastPublished := some r.id
      ring := (s.region r.id.feed).ring ++ [{ r with
        state := .held, holders := PerPort.of fun p => decide ((s.feed p).subscription = some r.id.feed) }] }
  others : ∀ p, (s.feed p).subscription ≠ some r.id.feed → u.feed p = s.feed p ∧ u.port p = s.port p
  holders : ∀ p, (s.feed p).subscription = some r.id.feed →
    let told := fun q : PortState => if (s.feed p).arming then q.raise .recReady else q
    let fed := { s.feed p with
      arming := false
      cursor := match (s.feed p).cursor with
        | none => some r.id
        | some c => some c }
    ((s.feed p).wait = none → u.feed p = fed ∧ u.port p = told (s.port p)) ∧
    (∀ k, (s.feed p).wait = some k →
      u.feed p = { fed with wait := none, lost := 0, transfer := some ⟨r.id, r.bytes.length, 0, false⟩ } ∧
      u.port p = told { s.port p with
        phase := .responseReady, readyHigh := true, sent := 0, rx := ReceiveBuffer.empty
        response := some ⟨.ok, .record (s.feed p).lost r.id r.bytes.length⟩ })

/-- R75: the cues of the block gathered in buffer `i`, in list order. -/
def State.blockCues (s : State) (i : BufferId) : List Cue :=
  s.cues.entries.filter fun c => decide ((s.framer.buffer i).start ≤ c.position) &&
    decide (c.position < (s.framer.buffer i).start + blockLengthOf s.timebase.rate)

/-- R95, 06 §6.5: eight times the bytes of the stream record of the block gathered in buffer `i`, at shift `k` with the first
`j` roster entries present. -/
def State.blockCost (s : State) (i : BufferId) (k j : Nat) : Nat :=
  8 * (32 + 16 * (s.blockCues i).length + ((s.rate.roster.take j).map fun c =>
    sectionLength k (((s.framer.buffer i).channel c (blockLengthOf s.timebase.rate)).map fun x =>
      requantize k x.toInt)).sum)

/-- R56, R74 to R76, R103 to R108: `u` has taken the block gathered in buffer `i` of `s` over for coding: the buffer CODING with
its take number and sequence, the stream job begun and the archive job queued, the cue copy, the decision on the cost of
the block with the bits B + L available, the reservoir it leaves, and SHED at every port where it shed or overran. -/
structure State.HandsOver (s u : State) (i : BufferId) : Prop where
  buffer : u.framer.buffer i = { s.framer.buffer i with
    state := .coding, take := s.take.number, sequence := s.take.sequence }
  engine : u.engine = { s.engine with
    state := .stream, block := some i, archiveQueued := true, cueCopy := s.blockCues i
    decision := u.engine.decision }
  decision : ∃ d, u.engine.decision = some d ∧
    d = streamDecision (s.blockCost i) s.rate.roster.length s.rate.prevShift (10 * s.rate.rate + s.rate.level) ∧
    u.rate = { s.rate with
      prevShift := d.shift
      level := if d.overrun then 0
        else min (s.rate.factor * (10 * s.rate.rate))
          (s.rate.level + 10 * s.rate.rate - s.blockCost i d.shift d.present) } ∧
    ∀ p, (u.port p).events.getLsbD (eventBit .shed) =
      ((s.port p).events.getLsbD (eventBit .shed) || d.shed || d.overrun)

/-! ### Conditions of a safe run -/

/-- 09 §9.1, R148, R151, R155: READY and ATTN follow the phase, the events and the mask; a response stands exactly in
RESPONSE_READY and SENDING, and a NEXT wait exactly in WAITING. -/
structure PortsSound (s : State) : Prop where
  ready : ∀ p, (s.port p).readyHigh = (!s.resetHeld && readyIn (s.port p).phase)
  attn : ∀ p, (s.port p).attnAsserted = attnOf (s.port p).events (s.port p).mask
  response : ∀ p, (s.port p).response.isSome = ((s.port p).phase = .responseReady || (s.port p).phase = .sending)
  waiting : ∀ p, (s.feed p).wait.isSome = decide ((s.port p).phase = .waiting)
  held : s.resetHeld = true → ∀ p, (s.port p).phase = .idle

/-- R18: seven counters of at most 65535. -/
structure LinkCounters.Sound (c : LinkCounters) : Prop where
  widthViolations : c.widthViolations ≤ 65535
  tagMismatches : c.tagMismatches ≤ 65535
  parityErrors : c.parityErrors ≤ 65535
  badFrames : c.badFrames ≤ 65535
  lockLosses : c.lockLosses ≤ 65535
  slipRepeats : c.slipRepeats ≤ 65535
  slipDrops : c.slipDrops ≤ 65535

/-- 01 §1.2, R9, R12 to R17, R19: one receiver in a safe run. -/
structure LinkRx.Sound (r : LinkRx) : Prop where
  enabled : r.enabled = false ↔ r.lock = .disabled
  settings : r.settings.accepted = true
  carry : r.carry ≤ 3
  goodRun : r.goodRun ≤ 3
  badRun : r.badRun ≤ 2
  fifo : r.fifo.length ≤ 8
  frames : ∀ f ∈ r.fifo, f.length = 16
  ready : r.ready = true → r.lock = .locked
  unlocked : r.lock ≠ .locked → r.fifo = [] ∧ r.lastFrame = none
  repeatable : r.ready = true → r.fifo = [] → r.lastFrame ≠ none
  assembly : r.phase = .waitMark ↔ r.frame = none
  partialFrame : ∀ f, r.frame = some f → f.slots.length < 16 ∧ f.cells.length < 30
  counters : r.counters.Sound

/-- 02 §2.1, R25, R30, R31: the timebase in a safe run. -/
structure Timebase.Sound (tb : Timebase) : Prop where
  position : tb.position ≤ lastPosition
  goodCount : tb.goodCount ≤ 63
  counting : tb.goodCount ≠ 0 → tb.clock = .acquire
  free : tb.clock = .free ↔ tb.reference = .none
  due : tb.clock ≠ .locked → tb.edgesDue = []
  period : (tb.blockLength = 480 ∧ tb.nominal = 8192) ∨ (tb.blockLength = 960 ∧ tb.nominal = 4096)

/-- 02 §2.6, R35 to R38: the take controller in a safe run. -/
structure Take.Sound (t : Take) : Prop where
  gathering : t.gathering = true → t.state = .rolling ∨ t.state = .closing
  rolling : t.state = .rolling → t.gathering = true
  endRequest : t.endRequest ≠ .none ↔ t.state = .closing
  number : t.number ≤ 65535
  numbered : t.state = .rolling ∨ t.state = .closing → 1 ≤ t.number
  sequence : t.sequence ≤ 65535
  limit : t.gathering = true → t.sequence ≤ 65534

/-- R97, R98, R101, R107: the rate controller in a safe run. -/
structure RateControl.Sound (rc : RateControl) : Prop where
  entries : 1 ≤ rc.roster.length ∧ rc.roster.length ≤ 16
  distinct : rc.roster.Nodup
  rate : 128 ≤ rc.rate ∧ rc.rate ≤ 16000
  factor : 1 ≤ rc.factor ∧ rc.factor ≤ 16
  level : rc.level ≤ rc.capacity
  prevShift : rc.prevShift ≤ 8

/-- 08 §8.1, R130, R131, R137: the cue list in a safe run. -/
structure Cues.Sound (c : Cues) : Prop where
  ordered : c.entries.Pairwise fun a b => cueBefore a b = true
  entries : c.entries.length ≤ 128
  distinct : (c.entries.map Cue.id).Nodup
  ids : ∀ e ∈ c.entries, 1 ≤ e.id ∧ e.id ≤ 65535
  labels : ∀ e ∈ c.entries, e.label.length ≤ 10
  origins : ∀ e ∈ c.entries, e.kind = .fault ↔ e.origin = .part
  nextId : 1 ≤ c.nextId ∧ c.nextId ≤ 65535
  requests : c.requests.length ≤ 8
  requestLabels : ∀ r ∈ c.requests, r.label.length ≤ 10

/-- R114, R117: every record of a ring is HELD with holders or SPENT without, and the head is not SPENT. -/
structure Region.Sound (r : Region) : Prop where
  states : ∀ x ∈ r.ring, (x.state = .held ∧ noHolders x.holders = false) ∨ (x.state = .spent ∧ noHolders x.holders = true)
  head : ∀ x, r.ring.head? = some x → x.state = .held
  pages : ∀ x ∈ r.ring, x.pages = pagesFor x.bytes.length
  filling : ∀ x, r.filling = some x → x.pages = pagesFor x.bytes.length ∧ x.state = .filling

/-- R96, R113, R118: the ports and the records of the store in a safe run: a port holds records of its subscribed feed
alone, as a run of the ring from its cursor to the newest, the cursor empty exactly when it holds none; no two records of
a ring share an identity; and a record is FILLING only in the feed of the engine's job. -/
structure State.Holdings (s : State) : Prop where
  ofFeed : ∀ f, (∀ x ∈ (s.region f).ring, x.id.feed = f) ∧ ∀ x, (s.region f).filling = some x → x.id.feed = f
  distinct : ∀ f, ((s.region f).ring.map Record.id).Nodup
  elsewhere : ∀ p f, (s.feed p).subscription ≠ some f → ∀ x ∈ (s.region f).ring, x.holders.get p = false
  run : ∀ p f, (s.feed p).subscription = some f → ∃ older held : List Record, (s.region f).ring = older ++ held ∧
    (∀ x ∈ older, x.holders.get p = false) ∧ (∀ x ∈ held, x.holders.get p = true) ∧
    (s.feed p).cursor = held.head?.map Record.id
  unsubscribed : ∀ p, (s.feed p).subscription = none → (s.feed p).cursor = none
  streamJob : s.store.stream.filling.isSome = true →
    s.engine.state = .stream ∨ (s.engine.state = .ending ∧ ∃ a, s.engine.endJob = some ⟨a, false⟩)
  archiveJob : s.store.archive.filling.isSome = true →
    s.engine.state = .archive ∨ (s.engine.state = .ending ∧ ∃ a, s.engine.endJob = some ⟨a, true⟩)
  ending : s.engine.state = .ending → s.take.state = .closing ∧ s.take.gathering = false

/-- R113: the identities the engine may still publish are of no record of the rings: that of the record being written,
those of the records still to come of the block in coding, and those of the END records still to come of the take. -/
structure State.NewIdsFresh (s : State) : Prop where
  written : ∀ f, ∀ x ∈ (s.region f).ring, ∀ y, (s.region f).filling = some y → x.id ≠ y.id
  ofBlock : ∀ f, ∀ x ∈ (s.region f).ring, ∀ i, s.engine.block = some i →
    s.engine.state = .stream ∨ (s.engine.state = .archive ∧ f = .archive) →
    x.id ≠ ⟨f, (s.framer.buffer i).take, (s.framer.buffer i).sequence⟩
  ofTake : ∀ f, ∀ x ∈ (s.region f).ring, s.take.state = .rolling ∨ s.take.state = .closing →
    ¬ (f = .stream ∧ s.engine.state = .ending ∧ ∃ a, s.engine.endJob = some ⟨a, true⟩) →
    x.id ≠ ⟨f, s.take.number, s.take.sequence⟩

/-! ### Readings of the formats -/

/-- R160: the 30 cells of a slot, cell 0 first, as a stage box sends them. -/
def slotCells (e : SlotEntry) (tag : Nat) : List Bool :=
  bitsOf 24 e.sample.toNat ++ [e.valid, e.overload] ++ bitsOf 4 tag

/-- R162: the bits of some bytes, each byte most significant bit first. -/
def bitsOfBytes (bs : List Byte) : List Bool := bs.flatMap fun b => bitsOf 8 b.toNat

/-- R162: what a decoder reads as one code under parameter `r`: the residual and the bits after it. `n` counts the
one-bits read so far. -/
def readCodeFrom (r : Nat) : (n : Nat) → List Bool → Option (Int × List Bool)
  | n, true :: rest =>
    if n = 31 then
      if rest.length < 28 then none else some (residualOf (numberOfBits (rest.take 28)), rest.drop 28)
    else readCodeFrom r (n + 1) rest
  | n, false :: rest =>
    if rest.length < r then none else some (residualOf (n * 2 ^ r + numberOfBits (rest.take r)), rest.drop r)
  | _, [] => none
where
  /-- R90: the residual that maps to `u`. -/
  residualOf (u : Nat) : Int := if u % 2 = 0 then (u / 2 : Nat) else -((u + 1) / 2 : Nat)

/-- R162: reading every code of a partition of `m` residuals. -/
def readCodes (r : Nat) : (m : Nat) → List Bool → Option (List Int × List Bool)
  | 0, bs => some ([], bs)
  | m + 1, bs =>
    match readCodeFrom r 0 bs with
    | some (e, rest) => (readCodes r m rest).map fun x => (e :: x.1, x.2)
    | none => none

/-- R87: the samples a decoder rebuilds from warm-up samples and residuals of order `k`, given the three samples before,
newest first; the first `k` entries of `es` are taken as samples. -/
def rebuildFrom (k : Nat) (y1 y2 y3 : Int) : (warm : Nat) → List Int → List Int
  | 0, e :: es =>
    let y := e + prediction k y1 y2 y3
    y :: rebuildFrom k y y1 y2 0 es
  | w + 1, e :: es => e :: rebuildFrom k e y1 y2 w es
  | _, [] => []

/-- The two blocks of state that no step of the part but reset ever lowers: the performance position (R31) and the
model's time (log 1). -/
def State.notBefore (a b : State) : Prop := a.timebase.position ≤ b.timebase.position ∧ a.now ≤ b.now

/-- The rows that are reset. -/
def isReset : Instr → Bool
  | .reset _ => true
  | .resetEnd _ => true
  | _ => false

/-- The rows at which a sample-period event is taken (log 5). -/
def isSampleRow : Instr → Bool
  | .samplePeriodEvent .. => true
  | .takeLengthLimit _ => true
  | .positionLimit _ => true
  | .nextWaitExpiry _ _ => true
  | _ => false

end Sys2Proof.Machine
end

