-- ==== Sys2Proof/Certificates/Slice0/Obligations.lean ====
section
/-! DEFINITION. The statements for the provers. Each docstring names the rules it rests on; where a statement rests on a
choice of the model, it names the log entry. -/

open Sys2Proof Sys2Proof.Machine

/-! ### The queue, reset and the conditions of a safe run -/

/-- 95, opening: every step is whole. A step of the part is `exec` of the command at the front of the queue on the state
with the queue's rest. With nothing waiting the part idles. (Choices of the model: log 3.) -/
def Obligations.StepTakesTheFrontOfTheQueue : Prop :=
  (∀ (c : Instr) (rest : List Instr) (s : State),
    step { s with pending := c :: rest } = exec c { s with pending := rest }) ∧
  (∀ s : State, s.pending = [] → step s = .next s)

/-- R159, 00 §4, the columns "After reset" of 01 to 09: RESET returns every block to its reset state, with READY low
while it is held; when it ends each port is IDLE and READY goes high. What the spec gives the part after reset is
listed. (Choices of the model: logs 1, 15, 24, and 37 for the lanes, on which nothing has been driven.) -/
def Obligations.ResetReturnsEveryBlock : Prop :=
  (∀ (s : State) (t : Nat),
    exec (.reset t) s = .next { State.reset with
      timebase := { State.reset.timebase with
        absenceStart := max s.now t, lastSample := max s.now t, nextOscillator := max s.now t + 4096 }
      ports := PerPort.of fun _ => { State.reset.port .p0 with readyHigh := false }
      now := max s.now t
      resetHeld := true
      pending := s.pending }) ∧
  (∀ (s : State) (t : Nat), s.resetHeld = true →
    exec (.resetEnd t) s = .next { State.reset with
      timebase := { State.reset.timebase with
        absenceStart := max s.now t, lastSample := max s.now t, nextOscillator := max s.now t + 4096 }
      now := max s.now t
      pending := s.pending }) ∧
  (∀ l, (State.reset.link l).enabled = false ∧ (State.reset.link l).lock = .disabled ∧
    (State.reset.link l).settings = ⟨3, 6, 7, 10, 11, 15, 1, 24⟩ ∧ (State.reset.link l).fifo = [] ∧
    (State.reset.link l).ready = false ∧ (State.reset.link l).lastFrame = none ∧
    (State.reset.link l).counters = ⟨0, 0, 0, 0, 0, 0, 0⟩) ∧
  State.reset.timebase.reference = .none ∧ State.reset.timebase.rate = .hz96000 ∧
  State.reset.timebase.blockLength = 960 ∧ State.reset.timebase.nominal = 4096 ∧
  State.reset.timebase.clock = .free ∧ State.reset.timebase.position = 0 ∧
  State.reset.take = ⟨.idle, 0, 0, 0, false, .none, 0⟩ ∧
  (∀ t : Fin 64, (State.reset.framer.map[t]).enabled = true ∧
    linkNumber (State.reset.framer.map[t]).link = t.val / 16 ∧ (State.reset.framer.map[t]).slot.val = t.val % 16 ∧
    State.reset.framer.lastGood[t] = 0) ∧
  State.reset.framer.buffer0.state = .free ∧ State.reset.framer.buffer1.state = .free ∧
  (∀ (b : Fin 4) (t : Fin 64),
    (State.reset.mix.active[b])[t] = ⟨if (b = 0 ∧ t = 0) ∨ (b = 1 ∧ t = 1) then 32768 else 0, false⟩) ∧
  State.reset.mix.edited = State.reset.mix.active ∧ State.reset.mix.applyMark = none ∧
  State.reset.engine.state = .idle ∧ State.reset.engine.includeMixes = false ∧
  State.reset.rate = ⟨[.bus 0, .bus 1], 1536, 4, 0, 0⟩ ∧ State.reset.rate.budget = 15360 ∧
  State.reset.rate.capacity = 61440 ∧
  State.reset.store = ⟨⟨1792, [], none, 0, none⟩, ⟨256, [], none, 1792, none⟩⟩ ∧
  (∀ p, State.reset.feed p = ⟨none, none, 0, none, false, none, none⟩) ∧
  State.reset.cues = ⟨[], 1, []⟩ ∧
  (∀ p, (State.reset.port p).laneMode = .single ∧ (State.reset.port p).phase = .idle ∧
    (State.reset.port p).inputDropped = false ∧ (State.reset.port p).responseDiscarded = false ∧
    (State.reset.port p).events = 0 ∧ (State.reset.port p).mask = 0 ∧ (State.reset.port p).readyHigh = true ∧
    (State.reset.port p).attnAsserted = false)

/-- Every condition of a safe run that the steps keep holds right after reset. (Choices of the model: log 15.) -/
def Obligations.ResetIsSound : Prop :=
  PortsSound State.reset ∧ (∀ l, (State.reset.link l).Sound) ∧ State.reset.timebase.Sound ∧ State.reset.take.Sound ∧
  State.reset.rate.Sound ∧ State.reset.cues.Sound ∧ (∀ f, (State.reset.region f).Sound) ∧ State.reset.Holdings

/-- R148, R149, R151, R155, R159 and 09 §9.3: READY and ATTN follow phase, events and mask in every step, and a response
or a wait stands in its phase alone. -/
def Obligations.StepsKeepPortsSound : Prop :=
  ∀ s t : State, PortsSound s → step s = .next t → PortsSound t

/-- 01 §1.2, R9, R12 to R18: lock state, elastic FIFO, assembler, runs and counters of each receiver stay within their
bounds and in step with each other. -/
def Obligations.StepsKeepLinksSound : Prop :=
  ∀ s t : State, (∀ l, (s.link l).Sound) → step s = .next t → ∀ l, (t.link l).Sound

/-- 02 §2.1, §2.6, R97, R98, R101, R107: the timebase, the take controller and the rate controller stay within their
bounds: a take gathers in ROLLING and CLOSING alone, FREE is exactly reference NONE, no reference edge is due outside LOCKED,
the reservoir level is at most the capacity. (Choices of the model: logs 6, 26.) -/
def Obligations.StepsKeepControllersSound : Prop :=
  ∀ s t : State, step s = .next t →
    (s.timebase.Sound → t.timebase.Sound) ∧ (s.take.Sound → t.take.Sound) ∧ (s.rate.Sound → t.rate.Sound)

/-- R130, R131, R137: the cue list stays in order, holds at most 128 entries, and no two of its entries share an id. -/
def Obligations.StepsKeepCuesSound : Prop :=
  ∀ s t : State, s.cues.Sound → step s = .next t → t.cues.Sound

/-- R114, R117 to R119: in each region every record of the ring is HELD with holders or SPENT without, and no SPENT record
stands at the head. R113, R118: while the identities the engine publishes are new to the rings, each port holds records
of its subscribed feed alone, in one run of the ring from its cursor to the newest, and its cursor is empty exactly when
it holds none. (Choices of the model: log 10.) -/
def Obligations.StepsKeepRegionsSound : Prop :=
  (∀ s t : State, (∀ f, (s.region f).Sound) → step s = .next t → ∀ f, (t.region f).Sound) ∧
  ∀ s t : State, (∀ f, (s.region f).Sound) → s.Holdings → s.NewIdsFresh → step s = .next t → t.Holdings

/-- R25, R29, R31, R45: the performance position never decreases but by reset, increases by at most one in a step, and
changes only at the rows that are sample-period events, never at WCLK_EDGE or LINE_TRANSITION (the reading of logs 5 and
6); the model's time never runs back. A sample-period event of the oscillator outside a take, at no boundary: the
position advances by one, the session rate's N and nominal period are in force, and each link is asked for a frame.
(Choices of the model: logs 1, 5, 6, 7, 27.) -/
def Obligations.PositionCountsSamplePeriods : Prop :=
  (∀ (i : Instr) (s t : State), isReset i = false → exec i s = .next t →
    s.now ≤ t.now ∧ s.timebase.position ≤ t.timebase.position ∧
    t.timebase.position ≤ s.timebase.position + 1 ∧
    (isSampleRow i = false → t.timebase.position = s.timebase.position)) ∧
  ∀ (t : Nat) (s : State), s.resetHeld = false → s.timebase.clock ≠ .locked →
    s.timebase.nextOscillator ≤ max s.now t → s.take.gathering = false → s.timebase.position + 1 < lastPosition →
    (s.timebase.position + 1) % blockLengthOf s.timebase.rate ≠ 0 →
    exec (.samplePeriodEvent ⟨t, []⟩) s = .next { s with
      now := max s.now t
      timebase := { s.timebase with
        position := s.timebase.position + 1
        lastSample := s.timebase.nextOscillator
        nextOscillator := s.timebase.nextOscillator + nominalOf s.timebase.rate
        blockLength := blockLengthOf s.timebase.rate
        nominal := nominalOf s.timebase.rate }
      links := ⟨s.links.l0.request.1, s.links.l1.request.1, s.links.l2.request.1, s.links.l3.request.1⟩ }

/-! ### Bytes, frames and responses at a port (09, 10 §10.4) -/

/-- R142, R163: bytes laid on the lanes are read back whole, and SCLK periods short of a byte are left over; in SINGLE
mode only D0 counts. A byte out of the port stands on D1, bit 7 in the first period and bit 0 in the eighth, or on D3 to
D0, bits 7 to 4 in the first period and bits 3 to 0 in the second. Filler holds D1 high in each period, or all four lanes
once the port sends in QUAD mode; before that no lane is driven. -/
def Obligations.BytesCrossTheLanes : Prop :=
  (∀ (bs : List Byte) (part : List Lanes), part.length < 8 →
    bytesIn .single (periodsOf .single bs ++ part) = (bs, part)) ∧
  (∀ (bs : List Byte) (part : List Lanes), part.length < 2 →
    bytesIn .quad (periodsOf .quad bs ++ part) = (bs, part)) ∧
  (∀ a b : List Lanes, a.map (·.getLsbD 0) = b.map (·.getLsbD 0) → (bytesIn .single a).1 = (bytesIn .single b).1) ∧
  (∀ b : Byte, (drivenByte .single b).length = 8 ∧
    ∀ i, i < 8 → (drivenByte .single b)[i]? = some (.d1 (b.getLsbD (7 - i)))) ∧
  (∀ b : Byte, ∃ hi lo : Lanes, drivenByte .quad b = [.all hi, .all lo] ∧ b.toNat = 16 * hi.toNat + lo.toNat) ∧
  ∀ n i : Nat, i < n →
    (fillerIn .single n)[i]? = some (.d1 true) ∧ (fillerOut .single n)[i]? = some (.d1 true) ∧
    (fillerIn .quad n)[i]? = some .released ∧ (fillerOut .quad n)[i]? = some (.all 15)

/-- R142, R143, R144, R151, R153, R163: a command frame laid on the lanes of an IDLE port arrives whole, however its SCLK
periods are split between FRAME_START and the command's row, and stands in EXECUTING with READY low once SEL is
deasserted. Up to 250 parameter bytes are kept, and a frame that declares up to 255 is received in full. In SINGLE mode the
port drives filler on D1 in every period. (Choices of the model: logs 4, 19.) -/
def Obligations.FrameArrivesWhole : Prop :=
  ∀ (s : State) (p : Port) (first rest : List Lanes) (code : Byte) (ps : List Byte),
    s.resetHeld = false → (s.port p).phase = .idle → code ≠ 0 → ps.length ≤ 255 →
    first ++ rest = periodsOf (s.port p).select.laneMode (code :: BitVec.ofNat 8 ps.length :: ps) →
    (periodsOfByte (s.port p).select.laneMode code).length ≤ first.length →
    (∃ t e, exec (.frameStart p first false) s = .next t ∧ t = { s with ports := s.portsAfter p (t.port p) id } ∧
      (t.port p).phase = .receiving ∧ (t.port p).readyHigh = true ∧
      t.frameEnds p rest = some (t.setPort p e, ⟨code, ps.length, ps.take 250⟩) ∧ e.phase = .executing ∧ e.readyHigh = false ∧
      e.laneMode = (s.port p).select.modeDue.getD (s.port p).select.laneMode ∧ e.modeDue = none ∧
      (t.port p).driven = fillerIn (s.port p).select.laneMode first.length ∧
      e.driven = fillerIn (s.port p).select.laneMode (first.length + rest.length)) ∧
    (∃ t, exec (.frameStart p (first ++ rest) true) s = .next t ∧
      t = { s with ports := s.portsAfter p (t.port p) id } ∧ (t.port p).phase = .executing ∧
      (t.port p).readyHigh = false ∧ t.frameEnds p [] = some (t, ⟨code, ps.length, ps.take 250⟩) ∧
      (t.port p).driven = fillerIn (s.port p).select.laneMode (first.length + rest.length))

/-- R142, R147, R150: a command code in EXECUTING and WAITING is ignored with INPUT_DROPPED; in RESPONSE_READY it discards
the response, with RESPONSE_DISCARDED, and begins a frame. In SINGLE mode the port drives filler on D1 in every period.
(Choices of the model: log 4.) -/
def Obligations.FrameStartOutsideIdle : Prop :=
  ∀ (s : State) (p : Port) (clocks : List Lanes) (ended : Bool) (code : Byte) (more : List Byte),
    s.resetHeld = false → (bytesIn (s.port p).laneMode clocks).1 = code :: more → code ≠ 0 →
    ((s.port p).phase = .executing ∨ (s.port p).phase = .waiting →
      ∃ t, exec (.frameStart p clocks ended) s = .next t ∧ t = { s with ports := s.portsAfter p (t.port p) id } ∧
        t.port p = { s.port p with
          inputDropped := true, restIgnored := !ended, clocks := []
          driven := fillerIn (s.port p).laneMode clocks.length }) ∧
    ((s.port p).phase = .responseReady →
      ∃ t, exec (.frameStart p clocks ended) s = .next t ∧
        t = { s with
          ports := s.portsAfter p (t.port p) id
          feeds := s.feeds.set p { s.feed p with transfer := none } } ∧
        (t.port p).response = none ∧ (t.port p).sent = 0 ∧ (t.port p).responseDiscarded = true ∧
        (t.port p).driven = fillerIn (s.port p).laneMode clocks.length ∧
        (ended = false → (t.port p).phase = .receiving ∧ (t.port p).rx.code = some code ∧
          (t.port p).laneMode = (s.port p).laneMode ∧ (t.port p).inputDropped = (s.port p).inputDropped) ∧
        (t.port p).events = (s.port p).events ∧ (t.port p).mask = (s.port p).mask)

/-- R142, R145, R153: a frame under way is abandoned by the row FRAME_ABANDONED, by RECEIVE_TIMEOUT, and by a command's row
whose SCLK periods leave it incomplete: INPUT_DROPPED is set, the port is IDLE, and no part of the frame reaches any
block. In SINGLE mode the port drives filler on D1 in every period, those that are ignored after RECEIVE_TIMEOUT
included. (Choices of the model: logs 1, 4, 19.) -/
def Obligations.FramesAreAbandoned : Prop :=
  (∀ (s : State) (p : Port), s.resetHeld = false → (s.port p).phase = .receiving → (s.port p).rx.frame? = none →
    exec (.frameAbandoned p) s = .next { s with
      ports := s.portsAfter p
        { s.port p with
          phase := .idle, readyHigh := true, rx := ReceiveBuffer.empty, inputDropped := true, restIgnored := false
          clocks := [], laneMode := (s.port p).modeDue.getD (s.port p).laneMode, modeDue := none } id } ∧
    ∀ rest : List Lanes, exec (.receiveTimeout ⟨p, rest⟩) s = .next { s with
      ports := s.portsAfter p
        { s.port p with
          phase := .idle, readyHigh := true, rx := ReceiveBuffer.empty, inputDropped := true, restIgnored := true
          clocks := [], driven := (s.port p).driven ++ fillerIn (s.port p).laneMode rest.length } id }) ∧
  ∀ (i : Instr) (p : Port) (clocks : List Lanes) (c : Command) (s : State), commandRow? i = some (p, clocks, c) →
    s.resetHeld = false → (s.port p).phase = .receiving → ((s.port p).clockIn clocks).rx.frame? = none →
    ∃ t, exec i s = .next t ∧
      t = { s with now := commandMoment i s, ports := s.portsAfter p (t.port p) id } ∧
      (t.port p).phase = .idle ∧ (t.port p).readyHigh = true ∧ (t.port p).rx = ReceiveBuffer.empty ∧
      (t.port p).inputDropped = true ∧ (t.port p).response = (s.port p).response ∧
      (t.port p).driven = (s.port p).driven ++ fillerIn (s.port p).laneMode clocks.length ∧
      (t.port p).events = (s.port p).events ∧ (t.port p).mask = (s.port p).mask

/-- R146, 09 §9.5: BAD_COMMAND for a frame whose code names no command, BAD_LENGTH for a command's frame of another
length than it requires; and a command answered with a refusal, or with GONE, changes nothing but its own port. (A port
with a frame in hand holds no response: PortsSound.) (Choices of the model: logs 1, 19.) -/
def Obligations.RefusalsChangeNothing : Prop :=
  (∀ (s : State) (p : Port) (clocks : List Lanes) (e : PortState) (f : Frame), s.resetHeld = false →
    s.frameEnds p clocks = some (s.setPort p e, f) → commandOf? f.code = none →
    exec (.badCommand p clocks) s = .next { s with ports := s.portsAfter p (e.holds .badCommand []) id }) ∧
  ∀ (i : Instr) (s : State) (p : Port) (clocks : List Lanes) (c : Command) (e : PortState) (f : Frame),
    commandRow? i = some (p, clocks, c) → s.resetHeld = false →
    s.frameEnds p clocks = some (s.setPort p e, f) → commandOf? f.code = some c →
    ((250 < f.length ∨ requiredLength c f.params ≠ some f.length) →
      exec i s = .next { s with now := commandMoment i s, ports := s.portsAfter p (e.holds .badLength []) id }) ∧
    (∀ (t : State) (r : Response), (s.port p).response = none →
      exec i s = .next t → (t.port p).response = some r → r.status.changesNothing = true →
      t = { s with now := commandMoment i s, ports := s.portsAfter p (e.holds r.status []) id })

/-- 09, opening, R154: a command of one port leaves the transactions of the other ports alone: between them only events
are raised. ABORT is apart, since its END records may answer a waiting NEXT (R39, R122). -/
def Obligations.CommandsLeaveOtherPortsAlone : Prop :=
  ∀ (i : Instr) (s t : State) (p q : Port) (clocks : List Lanes) (c : Command),
    commandRow? i = some (p, clocks, c) → c ≠ .abort → q ≠ p → exec i s = .next t →
    (s.port q).sameTransaction (t.port q)

/-- R149, R121, R123, R163: the bytes of a response, in order: status, flags, length, data, then filler; the data of a
record's answer are the lost count, the record, and the trailer. The record bytes are those of the record of that identity
in its feed's region. After a cut they are zeros and the trailer is CUT. -/
def Obligations.ResponseLayout : Prop :=
  (∀ (s : State) (p : Port) (r : Response), r.dataLength < 2 ^ 24 →
    s.responseByte p r 0 = statusCode r.status ∧
    (s.responseByte p r 1).getLsbD 7 = (s.port p).inputDropped ∧
    (s.responseByte p r 1).getLsbD 6 = (s.port p).responseDiscarded ∧
    (s.responseByte p r 1).extractLsb' 0 6 = 0 ∧
    numberOf [s.responseByte p r 2, s.responseByte p r 3, s.responseByte p r 4] = r.dataLength ∧
    ∀ i, 5 + r.dataLength ≤ i → s.responseByte p r i = 0xFF) ∧
  (∀ (s : State) (p : Port) (st : Status) (data : List Byte) (i : Nat) (h : i < data.length),
    s.responseByte p ⟨st, .bytes data⟩ (5 + i) = data[i]) ∧
  (∀ (s : State) (p : Port) (lost : Nat) (id : RecordId) (size : Nat), lost < 65536 →
    (∀ x, (s.feed p).transfer = some x → x.cut = false) →
    numberOf [s.responseByte p ⟨.ok, .record lost id size⟩ 5, s.responseByte p ⟨.ok, .record lost id size⟩ 6] = lost ∧
    (∀ i, i < size → s.responseByte p ⟨.ok, .record lost id size⟩ (7 + i) = s.storedByte id i) ∧
    s.responseByte p ⟨.ok, .record lost id size⟩ (7 + size) = 0xA5) ∧
  (∀ (s : State) (p : Port) (lost : Nat) (id : RecordId) (before after : List Record) (r : Record),
    (s.region id.feed).ring = before ++ r :: after → r.id = id → (∀ x ∈ before, x.id ≠ id) →
    (∀ x, (s.feed p).transfer = some x → x.cut = false) →
    ∀ (i : Nat) (h : i < r.bytes.length),
      s.responseByte p ⟨.ok, .record lost id r.bytes.length⟩ (7 + i) = r.bytes[i]) ∧
  (∀ (s : State) (p : Port) (lost : Nat) (id : RecordId) (size : Nat) (x : Transfer),
    (s.feed p).transfer = some x → x.cut = true →
    (∀ i, i < size → s.responseByte p ⟨.ok, .record lost id size⟩ (7 + i) = 0) ∧
    s.responseByte p ⟨.ok, .record lost id size⟩ (7 + size) = 0)

/-- R142, R143, R147, R149, R152, R153, R163: READ in RESPONSE_READY sends the first bytes of the response on the lanes of the
mode, filler before them on D1 in SINGLE mode, and the flags byte, once sent, clears both flags; in IDLE, EXECUTING and
WAITING it sends filler and leaves phase, flags and the command in hand. A transfer that ends before its first byte is whole
drives filler on D1 in SINGLE mode and changes nothing else in any phase, whichever row brings it; while an assertion is open
none begins. SEL deasserted in SENDING after further periods: the response leaves the port, a mode change due is made, and
the port is IDLE. (Choices of the model: logs 4, 19, 34, 35, 36.) -/
def Obligations.ResponsesAreSent : Prop :=
  (∀ (s : State) (p : Port) (clocks : List Lanes) (r : Response) (more : List Byte),
    s.resetHeld = false → (s.port p).phase = .responseReady → (s.port p).response = some r → (s.port p).sent = 0 →
    (bytesIn (s.port p).laneMode clocks).1 = readCode :: more →
    ∃ t, exec (.read p clocks) s = .next t ∧
      t = { s with
        ports := s.portsAfter p (t.port p) id
        feeds := s.feeds.set p { s.feed p with
          transfer := (s.feed p).transfer.bind fun x => x.advance (min (5 + r.dataLength) more.length) } } ∧
      t.port p = { s.port p with
        phase := .sending, readyHigh := true, restIgnored := false
        sent := min (5 + r.dataLength) more.length
        inputDropped := (s.port p).inputDropped && decide (more.length < 2)
        responseDiscarded := (s.port p).responseDiscarded && decide (more.length < 2)
        driven := (t.port p).driven, clocks := (t.port p).clocks } ∧
      (t.port p).driven = (match (s.port p).laneMode with
        | .single => List.replicate 8 (.d1 true)
        | .quad => List.replicate 2 .released) ++
          ((List.range (more.length + 1)).flatMap fun i => drivenByte (s.port p).laneMode (s.responseByte p r i)).take
            (clocks.length - bytePeriods (s.port p).laneMode)) ∧
  (∀ (s : State) (p : Port) (clocks : List Lanes) (more : List Byte), s.resetHeld = false →
    (s.port p).phase = .idle ∨ (s.port p).phase = .executing ∨ (s.port p).phase = .waiting →
    (bytesIn (s.port p).select.laneMode clocks).1 = readCode :: more →
    ∃ t, exec (.read p clocks) s = .next t ∧ t = { s with ports := s.portsAfter p (t.port p) id } ∧
      t.port p = { (s.port p).select with driven := (t.port p).driven } ∧
      (t.port p).phase = (s.port p).phase ∧ (t.port p).inputDropped = (s.port p).inputDropped ∧
      (t.port p).rx = (s.port p).rx ∧
      (t.port p).driven = match (s.port p).select.laneMode with
        | .single => List.replicate clocks.length (.d1 true)
        | .quad => List.replicate 2 .released ++ List.replicate (clocks.length - 2) (.all 15)) ∧
  (∀ (s : State) (p : Port) (clocks : List Lanes) (ended : Bool), s.resetHeld = false →
    (s.port p).phase ≠ .receiving → (s.port p).phase ≠ .sending →
    (bytesIn (s.port p).select.laneMode clocks).1 = [] →
    ∃ t, exec (.read p clocks) s = .next t ∧ exec (.frameStart p clocks ended) s = .next t ∧
      t = { s with
        ports := s.portsAfter p
          { (s.port p).select with driven := fillerIn (s.port p).select.laneMode clocks.length } id }) ∧
  (∀ (s : State) (p : Port) (clocks : List Lanes) (ended : Bool), s.resetHeld = false →
    (s.port p).phase = .receiving ∨ (s.port p).phase = .sending →
    exec (.read p clocks) s = .next s ∧ exec (.frameStart p clocks ended) s = .next s) ∧
  (∀ (s : State) (p : Port) (clocks : List Lanes) (r : Response),
    s.resetHeld = false → (s.port p).phase = .sending → (s.port p).response = some r →
    let whole := (bytesIn (s.port p).laneMode ((s.port p).clocks ++ clocks)).1.length
    ∃ t, exec (.responseEnd p clocks) s = .next t ∧
      t = { s with
        ports := s.portsAfter p (t.port p) id
        feeds := s.feeds.set p { s.feed p with transfer := none } } ∧
      (t.port p).phase = .idle ∧ (t.port p).readyHigh = true ∧ (t.port p).response = none ∧ (t.port p).sent = 0 ∧
      (t.port p).laneMode = (s.port p).modeDue.getD (s.port p).laneMode ∧ (t.port p).modeDue = none ∧
      (t.port p).inputDropped = ((s.port p).inputDropped && !decide ((s.port p).sent ≤ 1 ∧
        1 < (s.port p).sent + whole)) ∧
      (t.port p).driven = (s.port p).driven ++ (((List.range (whole + 1)).flatMap fun i =>
        drivenByte (s.port p).laneMode (s.responseByte p r ((s.port p).sent + i))).drop (s.port p).clocks.length).take
          clocks.length ∧
      (t.port p).events = (s.port p).events ∧ (t.port p).mask = (s.port p).mask ∧
      (t.port p).attnAsserted = (s.port p).attnAsserted)

/-! ### Port commands and events (09 §9.6 to §9.8) -/

/-- R153, R163: PORT_MODE notes a mode change due, or answers RANGE. (Choices of the model: log 19.) -/
def Obligations.PortModeSetsTheModeDue : Prop :=
  ∀ (s : State) (p : Port) (clocks : List Lanes) (e : PortState) (b : Byte), s.commandAt p clocks .portMode [b] e →
    (∀ m, laneMode? b = some m →
      exec (.portMode p clocks) s = .next { s with
        ports := s.portsAfter p
          ({ e with modeDue := if m = e.laneMode then none else some m }.holds .ok [b]) id }) ∧
    (2 ≤ b.toNat → exec (.portMode p clocks) s = .next { s with ports := s.portsAfter p (e.holds .range []) id })

/-- R154, R155, R156: an event raised at a port joins its pending set, once, and asserts ATTN exactly when the set and
the mask meet, and nothing else of the port changes; EVENTS answers with the pending set and the mask, empties the set
and deasserts ATTN. (Choices of the model: log 19.) -/
def Obligations.EventsAreRaisedAndRead : Prop :=
  (∀ (q : PortState) (k j : EventKind),
    ((q.raise k).events.getLsbD (eventBit j) = (q.events.getLsbD (eventBit j) || decide (j = k))) ∧
    ((q.raise k).attnAsserted = true ↔ ∃ i, (q.raise k).events.getLsbD i = true ∧ q.mask.getLsbD i = true) ∧
    (q.raise k).raise k = q.raise k ∧ q.sameTransaction (q.raise k)) ∧
  ∀ (s : State) (p : Port) (clocks : List Lanes) (e : PortState), s.commandAt p clocks .events [] e →
    ∃ a b c d : Byte, numberOf [a, b] = e.events.toNat ∧ numberOf [c, d] = e.mask.toNat ∧
      exec (.events p clocks) s = .next { s with
        ports := s.portsAfter p
          ({ e with events := 0, attnAsserted := false }.holds .ok [a, b, c, d]) id }

/-- R157: the whole rule of EVENT_MASK, in any take state: a value naming a kind beyond the nine is RANGE; else the mask
is replaced and answered, ATTN follows at once, and the pending set and everything else stay. The port's receive buffer
is left open. -/
def Obligations.EventMaskReplacesTheMask : Prop :=
  ∀ (s : State) (p : Port) (clocks : List Lanes) (e : PortState) (hi lo : Byte),
    s.commandAt p clocks .eventMask [hi, lo] e →
    ∃ t, exec (.eventMask p clocks) s = .next t ∧
      (512 ≤ numberOf [hi, lo] → t = { s with
        ports := s.portsAfter p { e.holds .range [] with rx := (t.port p).rx } id }) ∧
      (∀ m : EventSet, m.toNat = numberOf [hi, lo] → t = { s with
        ports := s.portsAfter p
          { ({ e with mask := m, attnAsserted := decide (e.events &&& m ≠ 0) }.holds .ok [hi, lo]) with
            rx := (t.port p).rx } id }) ∧
      (numberOf [hi, lo] = 0 → (t.port p).events = e.events ∧ (t.port p).attnAsserted = false)

/-- R127, R158, R163: FEED_STATUS answers with 48 bytes of the two regions and the asking port's feed state, STATUS with
23 bytes of the timebase, the take, the links and the asking port's lane mode; neither changes anything. (Choices of the
model: logs 19, 31.) -/
def Obligations.StatusReadingsChangeNothing : Prop :=
  (∀ (s : State) (p : Port) (clocks : List Lanes) (e : PortState), s.commandAt p clocks .feedStatus [] e →
    let ident : Option RecordId → List Byte := fun o => match o with
      | none => [0, 0, 0, 0]
      | some x => bytesOf 2 x.take ++ bytesOf 2 x.sequence
    let region := fun r : Region => bytesOf 2 r.size ++ bytesOf 2 r.used ++ bytesOf 2 r.ring.length ++
      [if r.filling.isSome then (1 : Byte) else 0] ++ ident (r.ring.head?.map Record.id) ++
      ident (r.ring.getLast?.map Record.id) ++ ident r.lastPublished
    let subscribed : Byte := match (s.feed p).subscription with
      | none => 0
      | some .archive => 1
      | some .stream => 2
    let data := region s.store.archive ++ region s.store.stream ++ [subscribed] ++ ident (s.feed p).cursor ++
      bytesOf 2 (s.heldCount p) ++ bytesOf 2 (s.feed p).lost ++ [if (s.feed p).arming then (1 : Byte) else 0]
    data.length = 48 ∧
    exec (.feedStatus p clocks) s = .next { s with ports := s.portsAfter p (e.holds .ok data) id }) ∧
  ∀ (s : State) (p : Port) (clocks : List Lanes) (e : PortState), s.commandAt p clocks .status [] e →
    s.timebase.position ≤ lastPosition →
    ∃ position : List Byte, position.length = 6 ∧ numberOf position = s.timebase.position ∧
      let byte := fun n : Nat => BitVec.ofNat 8 n
      let link := fun l : LinkId => [byte (lockCode (s.link l).lock), if (s.link l).ready then (1 : Byte) else 0]
      let data := [byte (clockCode s.timebase.clock), byte (referenceCode s.timebase.reference),
        byte (rateCode s.timebase.rate)] ++ position ++ [byte (takeCode s.take.state)] ++ bytesOf 2 s.take.number ++
        bytesOf 2 s.take.sequence ++ link .l0 ++ link .l1 ++ link .l2 ++ link .l3 ++ [byte (laneCode e.laneMode)]
      data.length = 23 ∧
      exec (.status p clocks) s = .next { s with ports := s.portsAfter p (e.holds .ok data) id }

/-! ### Stage links (01) -/

/-- R1, R2, R9, R10, R19: with windows that LINK_SETUP accepts, a width is in a class exactly when it lies in that
class's window. A transition on a line with no timeout come: ignored on a disabled link; the first only starts
measurement; a glitch becomes the carry; in HUNT only a MARK counts, and moves the link to SYNC; in SYNC and LOCKED a
VIOLATION is counted and the assembler takes the pulse, which began a width before. The model's own reading (log 8): a
width that the carry brings above the timeout is a VIOLATION, and a transition after a timeout that has come and has not
been taken takes it first, at its own moment, and then only starts measurement. (Choices of the model: logs 1, 8, 23.) -/
def Obligations.LineTransitionsAreMeasured : Prop :=
  (∀ (k : LinkSettings) (w : Nat), k.accepted = true →
    (classOf w k = .short ↔ k.shortLo ≤ w ∧ w ≤ k.shortHi) ∧ (classOf w k = .long ↔ k.longLo ≤ w ∧ w ≤ k.longHi) ∧
    (classOf w k = .mark ↔ k.markLo ≤ w ∧ w ≤ k.markHi) ∧
    (w ≤ k.filter → classOf w k = .violation) ∧ classOf k.timeout k = .violation) ∧
  ∀ (l : LinkId) (t : Nat) (s : State), s.resetHeld = false →
    ((s.link l).enabled = false → exec (.lineTransition l t) s = .next { s with now := max s.now t }) ∧
    ((s.link l).enabled = true → (s.link l).timeoutBy? (max s.now t) = none →
      let seen := { s.link l with timedOut := false, measuredFrom := some (max s.now t), quietSince := max s.now t }
      ((s.link l).measuredFrom = none →
        exec (.lineTransition l t) s = .next { s with now := max s.now t, links := s.links.set l seen }) ∧
      (∀ m, (s.link l).measuredFrom = some m → m < max s.now t →
        let w := max s.now t - m + (s.link l).carry
        let c := classOf w (s.link l).settings
        (w ≤ (s.link l).settings.filter →
          exec (.lineTransition l t) s = .next { s with
            now := max s.now t, links := s.links.set l { seen with carry := w } }) ∧
        ((s.link l).settings.filter < w → (s.link l).lock = .hunt →
          exec (.lineTransition l t) s = .next { s with
            now := max s.now t
            links := s.links.set l
              (if c = .mark then
                { seen with
                  carry := 0, lock := .sync, goodRun := 0, phase := .markTail, markDue := false
                  frame := some ⟨[], [], false⟩ }
              else { seen with carry := 0 }) }) ∧
        ((s.link l).settings.filter < w → (s.link l).lock = .sync ∨ (s.link l).lock = .locked →
          exec (.lineTransition l t) s = .next (State.assemble { s with
            now := max s.now t
            links := s.links.set l { seen with
              carry := 0
              counters := if c = .violation then
                { (s.link l).counters with
                  widthViolations := min ((s.link l).counters.widthViolations + 1) 65535 }
                else (s.link l).counters } } l c (max s.now t - w) (max s.now t))))) ∧
    (∀ due, due = (s.link l).quietSince + (s.link l).settings.timeout + 1 → due ≤ max s.now t →
      (s.link l).enabled = true → (s.link l).timedOut = false →
      let fresh := { s.link l with
        phase := .waitMark, markDue := false, frame := none, carry := 0, timedOut := false
        measuredFrom := some (max s.now t), quietSince := max s.now t }
      ((s.link l).lock = .hunt →
        exec (.lineTransition l t) s = .next { s with now := max s.now t, links := s.links.set l fresh }) ∧
      ((s.link l).lock = .sync →
        exec (.lineTransition l t) s = .next { s with
          now := max s.now t, links := s.links.set l { fresh with lock := .hunt, goodRun := 0 } }) ∧
      ((s.link l).lock = .locked →
        exec (.lineTransition l t) s = .next (State.announceDeparture { s with
          now := max s.now t
          links := s.links.set l { fresh with
            lock := .hunt, fifo := [], ready := false, lastFrame := none, badRun := 0
            counters := { (s.link l).counters with
              lockLosses := min ((s.link l).counters.lockLosses + 1) 65535 } } } l due)))

/-- R4 to R7, R11 to R13: what the assembler of a link in SYNC or LOCKED makes of each class of pulse in each phase. A cell
joins the slot under way; the thirtieth completes it on those thirty cells (SlotsMakeFrames goes on from there). A bad frame returns SYNC to HUNT; in LOCKED the first and second of a run are counted and the third
departs. In LOCKED a MARK gives its start tick to the timebase: ignored unless the link is the reference, else a
reference edge (R23), which starts measurement or, ending a good period in LOCKED, is a sample-period event (R27).
(Choices of the model: logs 6, 14.) -/
def Obligations.AssemblerFollowsThePulses : Prop :=
  (∀ (s : State) (l : LinkId) (e : Nat),
    (s.timebase.reference ≠ .link l → s.markTime l e = s) ∧
    (s.timebase.reference = .link l → s.timebase.lastEdge = none →
      s.markTime l e = { s with timebase := { s.timebase with lastEdge := some e, absenceStart := e } }) ∧
    (∀ d, s.timebase.reference = .link l → s.timebase.lastEdge = some d → s.timebase.clock = .locked →
      s.timebase.nominal - 16 ≤ e - d → e < d + s.timebase.nominal + 17 →
      s.markTime l e = { s with timebase := { s.timebase with
        lastEdge := some e, absenceStart := e, edgesDue := s.timebase.edgesDue ++ [e] } })) ∧
  ∀ (s : State) (l : LinkId) (start t : Nat), (s.link l).lock = .sync ∨ (s.link l).lock = .locked →
    let begun := { s.link l with phase := .markTail, markDue := false, frame := some ⟨[], [], false⟩ }
    let bad := { s.link l with
      phase := .waitMark, markDue := false, frame := none
      counters := { (s.link l).counters with badFrames := min ((s.link l).counters.badFrames + 1) 65535 } }
    ((s.link l).phase = .waitMark →
      ((s.link l).lock = .sync → s.assemble l .mark start t = s.setLink l begun) ∧
      ((s.link l).lock = .locked → s.assemble l .mark start t = (s.setLink l begun).markTime l start)) ∧
    (∀ c, c ≠ .mark → (s.link l).phase = .waitMark → (s.link l).markDue = false → s.assemble l c start t = s) ∧
    ((s.link l).phase = .markTail → s.assemble l .short start t = s.setLink l { s.link l with phase := .cells }) ∧
    (∀ f, (s.link l).phase = .cells → (s.link l).frame = some f →
      (f.halfOne = false →
        s.assemble l .short start t = s.setLink l { s.link l with frame := some ⟨f.slots, f.cells, true⟩ }) ∧
      (f.halfOne = true → f.cells.length < 29 →
        s.assemble l .short start t = s.setLink l { s.link l with
          frame := some ⟨f.slots, f.cells ++ [true], false⟩ }) ∧
      (f.halfOne = true → f.cells.length = 29 →
        s.assemble l .short start t = s.completeSlot l f (f.cells ++ [true]) t) ∧
      (f.halfOne = false → f.cells.length = 29 →
        s.assemble l .long start t = s.completeSlot l f (f.cells ++ [false]) t) ∧
      (f.halfOne = false → f.cells.length < 29 →
        s.assemble l .long start t = s.setLink l { s.link l with
          frame := some ⟨f.slots, f.cells ++ [false], false⟩ })) ∧
    (∀ c, (c ≠ .mark ∧ (s.link l).phase = .waitMark ∧ (s.link l).markDue = true) ∨
        ((c = .long ∨ c = .violation) ∧ (s.link l).phase = .markTail) ∨
        (c = .violation ∧ (s.link l).phase = .cells) ∨
        (c = .long ∧ (s.link l).phase = .cells ∧ ∃ f, (s.link l).frame = some f ∧ f.halfOne = true) ∨
        (c = .mark ∧ (s.link l).phase ≠ .waitMark) →
      ((s.link l).lock = .sync → s.assemble l c start t = s.setLink l { bad with lock := .hunt, goodRun := 0 }) ∧
      ((s.link l).lock = .locked → (s.link l).badRun < 2 → c ≠ .mark →
        s.assemble l c start t = s.setLink l { bad with badRun := (s.link l).badRun + 1 }) ∧
      ((s.link l).lock = .locked → (s.link l).badRun < 2 → c = .mark →
        s.assemble l c start t = (s.setLink l { begun with
          badRun := (s.link l).badRun + 1, counters := bad.counters }).markTime l start) ∧
      ((s.link l).lock = .locked → 2 ≤ (s.link l).badRun →
        s.assemble l c start t = (s.setLink l { bad with
          lock := .hunt, fifo := [], ready := false, lastFrame := none, badRun := 0
          counters := { bad.counters with
            lockLosses := min ((s.link l).counters.lockLosses + 1) 65535 } }).announceDeparture l t))

/-- R6 to R8, R11, R12, R15, R18, R160: the receiver reads the fields of a slot where the stage box puts them, and any
thirty cells are such a slot. The last cell of a slot: a tag mismatch is counted and ends the frame as a bad one (SYNC
returns to HUNT, LOCKED counts two and departs at the third), a parity error is counted and carried, the sixteenth slot
makes a good frame, which in LOCKED joins the FIFO and in SYNC counts toward lock. At a full FIFO the oldest frame is
dropped, counted and reported as a slip (R16). Each counter stops at 65535. -/
def Obligations.SlotsMakeFrames : Prop :=
  (∀ (e : SlotEntry) (tag : Nat), tag < 16 →
    (slotCells e tag).length = 30 ∧ slotEntryOf (slotCells e tag) e.parityFailed = e ∧ slotTag (slotCells e tag) = tag ∧
    (parityFails (slotCells e tag) = true ↔ ((slotCells e tag).filter id).length % 2 = 1)) ∧
  (∀ cells : List Bool, cells.length = 30 →
    ∃ (e : SlotEntry) (tag : Nat), tag < 16 ∧ cells = slotCells e tag ∧ e.parityFailed = parityFails cells) ∧
  ∀ (s : State) (l : LinkId) (f : PartialFrame) (e : SlotEntry) (tag : Nat) (t : Nat), tag < 16 →
    f.slots.length < 16 → e.parityFailed = parityFails (slotCells e tag) →
    let c := (s.link l).counters
    let counted := { c with parityErrors := if e.parityFailed then min (c.parityErrors + 1) 65535 else c.parityErrors }
    let mismatched := { counted with tagMismatches := min (c.tagMismatches + 1) 65535 }
    let bad := { s.link l with
      phase := .waitMark, markDue := false, frame := none
      counters := { mismatched with badFrames := min (c.badFrames + 1) 65535 } }
    (tag ≠ f.slots.length →
      s.completeSlot l f (slotCells e tag) t = (s.setLink l { s.link l with counters := mismatched }).badFrame l t ∧
      ((s.link l).lock = .sync →
        s.completeSlot l f (slotCells e tag) t = s.setLink l { bad with lock := .hunt, goodRun := 0 }) ∧
      ((s.link l).lock = .locked → (s.link l).badRun < 2 →
        s.completeSlot l f (slotCells e tag) t = s.setLink l { bad with badRun := (s.link l).badRun + 1 }) ∧
      ((s.link l).lock = .locked → 2 ≤ (s.link l).badRun →
        s.completeSlot l f (slotCells e tag) t = (s.setLink l { bad with
          lock := .hunt, fifo := [], ready := false, lastFrame := none, badRun := 0
          counters := { bad.counters with lockLosses := min (c.lockLosses + 1) 65535 } }).announceDeparture l t)) ∧
    (tag = f.slots.length → tag < 15 →
      s.completeSlot l f (slotCells e tag) t = s.setLink l { s.link l with
        frame := some ⟨f.slots ++ [e], [], false⟩
        counters := counted }) ∧
    (tag = f.slots.length → tag = 15 → (s.link l).lock = .locked → (s.link l).fifo.length < 8 →
      s.completeSlot l f (slotCells e tag) t = s.setLink l { s.link l with
        fifo := (s.link l).fifo ++ [f.slots ++ [e]]
        ready := (s.link l).ready || decide ((s.link l).fifo.length = 3)
        badRun := 0, phase := .waitMark, markDue := true, frame := none
        counters := counted }) ∧
    (tag = f.slots.length → tag = 15 → (s.link l).lock = .locked → (s.link l).fifo.length = 8 →
      s.completeSlot l f (slotCells e tag) t = (s.setLink l { s.link l with
        fifo := (s.link l).fifo.tail ++ [f.slots ++ [e]]
        badRun := 0, phase := .waitMark, markDue := true, frame := none
        counters := { counted with slipDrops := min (c.slipDrops + 1) 65535 } }).reportSlip l) ∧
    (tag = f.slots.length → tag = 15 → (s.link l).lock = .sync → (s.link l).goodRun < 3 →
      s.completeSlot l f (slotCells e tag) t = s.setLink l { s.link l with
        goodRun := (s.link l).goodRun + 1, phase := .waitMark, markDue := true, frame := none
        counters := counted }) ∧
    (tag = f.slots.length → tag = 15 → (s.link l).lock = .sync → (s.link l).goodRun = 3 →
      s.completeSlot l f (slotCells e tag) t = (s.setLink l { s.link l with
        lock := .locked, goodRun := 0, badRun := 0, fifo := [], ready := false, lastFrame := none
        phase := .waitMark, markDue := true, frame := none
        counters := counted }).raiseAll .linkChange)

/-- R14 to R17, R52: an arrival and a request at the elastic FIFO: order, the ready flag at level 4, slip drops at level 8,
slip repeats at level 0. A repeat is reported as a slip; a reported slip sets SLIP on every enabled track of the link in
the block being gathered, and marks nothing when none is. -/
def Obligations.ElasticFifo : Prop :=
  (∀ (s : State) (l : LinkId),
    s.askLink l = (if (s.link l).ready = true ∧ (s.link l).fifo = [] then
      (s.setLink l (s.link l).request.1).reportSlip l else s.setLink l (s.link l).request.1) ∧
    (s.take.gathering = false → s.reportSlip l = s) ∧
    ∀ i, s.take.gathering = true → s.framer.filling? = some i → ∃ marks : Vector TrackMarks 64,
      s.reportSlip l = { s with framer := s.framer.setBuffer i { s.framer.buffer i with marks := marks } } ∧
      ∀ x : Fin 64, marks[x] =
        if (s.framer.map[x]).enabled = true ∧ (s.framer.map[x]).link = l then
          { (s.framer.buffer i).marks[x] with slip := true } else (s.framer.buffer i).marks[x]) ∧
  ∀ (r : LinkRx) (f : LinkFrame),
    ((r.arrive f).fifo.length = min (r.fifo.length + 1) (max 8 r.fifo.length) ∧ (r.arrive f).fifo.getLast? = some f ∧
      (r.fifo.length < 8 → (r.arrive f).fifo = r.fifo ++ [f] ∧ (r.arrive f).counters = r.counters) ∧
      (r.fifo.length = 8 → (r.arrive f).fifo = r.fifo.tail ++ [f] ∧
        (r.arrive f).counters = { r.counters with slipDrops := min (r.counters.slipDrops + 1) 65535 }) ∧
      (r.ready = true → (r.arrive f).ready = true) ∧ (r.fifo.length = 3 → (r.arrive f).ready = true) ∧
      (r.fifo.length < 3 → (r.arrive f).ready = r.ready)) ∧
    (r.ready = false → r.request = (r, none)) ∧
    (r.ready = true → ∀ g rest, r.fifo = g :: rest → r.request = ({ r with fifo := rest, lastFrame := some g }, some g)) ∧
    (r.ready = true → r.fifo = [] →
      r.request = ({ r with counters := { r.counters with slipRepeats := min (r.counters.slipRepeats + 1) 65535 } },
        r.lastFrame))

/-- R3, R11, R13, R24, R28, R137: the edge timeout once `timeout` + 1 ticks of silence have passed: nothing more in
HUNT, back to HUNT from SYNC, a departure from LOCKED. What a departure does outside the receiver: LINK_CHANGE at every
port, a FAULT request in ROLLING and CLOSING, and, if the link is the reference, absence: a count of 0 in ACQUIRE,
HOLDOVER from LOCKED with its own event and request. (Choices of the model: logs 1, 2, 7, 14, 20, 26.) -/
def Obligations.EdgeTimeoutIsTaken : Prop :=
  (∀ (l : LinkId) (t : Nat) (s : State), s.resetHeld = false → (s.link l).enabled = true → (s.link l).timedOut = false →
    ((s.link l).quietSince + (s.link l).settings.timeout + 1 ≤ max s.now t →
      let r := { s.link l with
        phase := .waitMark, markDue := false, frame := none, carry := 0, timedOut := true, measuredFrom := none }
      ((s.link l).lock = .hunt →
        exec (.edgeTimeout l t) s = .next { s with now := max s.now t, links := s.links.set l r }) ∧
      ((s.link l).lock = .sync →
        exec (.edgeTimeout l t) s = .next { s with
          now := max s.now t, links := s.links.set l { r with lock := .hunt, goodRun := 0 } }) ∧
      ((s.link l).lock = .locked →
        exec (.edgeTimeout l t) s = .next (State.announceDeparture { s with
          now := max s.now t
          links := s.links.set l { r with
            lock := .hunt, fifo := [], ready := false, lastFrame := none, badRun := 0
            counters := { r.counters with lockLosses := min (r.counters.lockLosses + 1) 65535 } } }
          l ((s.link l).quietSince + (s.link l).settings.timeout + 1)))) ∧
    (max s.now t < (s.link l).quietSince + (s.link l).settings.timeout + 1 →
      exec (.edgeTimeout l t) s = .next { s with now := max s.now t })) ∧
  ∀ (s : State) (l : LinkId) (t : Nat),
    let cues := s.cuesAsked s.cues (linkLostLabel l)
    let tb := { s.timebase with lastEdge := none, absenceStart := t }
    s.announceDeparture l t =
      if s.timebase.reference = .link l then
        match s.timebase.clock with
        | .locked => { s with
            cues := s.cuesAsked cues clockHoldLabel
            timebase := { tb with
              clock := .holdover, goodCount := 0, edgesDue := []
              nextOscillator := max (tb.lastSample + tb.nominal) t }
            ports := PerPort.of fun p => ((s.port p).raise .linkChange).raise .clockChange }
        | .acquire => { s with cues := cues, timebase := { tb with goodCount := 0 }, ports := s.portsRaised .linkChange }
        | .free => { s with cues := cues, timebase := tb, ports := s.portsRaised .linkChange }
        | .holdover => { s with cues := cues, timebase := tb, ports := s.portsRaised .linkChange }
      else { s with cues := cues, ports := s.portsRaised .linkChange }

/-- R9, R13, R19, R20: the five rows of the table of LINK_SETUP, and its refusals: a link or an enable code that is
none, a bound of 0, a window's low bound above its high bound, windows out of order, a filter above 3 or not below
short_lo, a timeout outside 16 to 255 or not above mark_hi; LINK_RESTART clears the receiver to HUNT, refused with STATE
on a DISABLED link and with RANGE for no link. A LOCKED link that is restarted or disabled departs (EdgeTimeoutIsTaken).
(Choices of the model: logs 1, 19, 20, 28.) -/
def Obligations.LinkSetupAndRestart : Prop :=
  (∀ (s : State) (p : Port) (clocks : List Lanes) (t : Nat) (e : PortState) (lb eb a b c d g h f o : Byte),
    s.commandAt p clocks .linkSetup [lb, eb, a, b, c, d, g, h, f, o] e →
    let k : LinkSettings := ⟨a.toNat, b.toNat, c.toNat, d.toNat, g.toNat, h.toNat, f.toNat, o.toNat⟩
    let now := max s.now t
    let base := { s with now := now, ports := s.ports.set p e }
    let done := fun x : State => Host.Outcome.next (φ := Fault) (ρ := Refusal) { x with
      ports := x.ports.set p ((x.port p).holds .ok []) }
    let refused :=
      (k.shortLo = 0 ∨ k.shortHi = 0 ∨ k.longLo = 0 ∨ k.longHi = 0 ∨ k.markLo = 0 ∨ k.markHi = 0) ∨
      (k.shortHi < k.shortLo ∨ k.longHi < k.longLo ∨ k.markHi < k.markLo) ∨
      (k.longLo ≤ k.shortHi ∨ k.markLo ≤ k.longHi) ∨
      (3 < k.filter ∨ k.shortLo ≤ k.filter) ∨
      (k.timeout < 16 ∨ 255 < k.timeout ∨ k.timeout ≤ k.markHi)
    ((3 < lb.toNat ∨ 1 < eb.toNat ∨ refused) →
      exec (.linkSetup p clocks t) s = .next { s with
        now := now, ports := s.portsAfter p (e.holds .range []) id }) ∧
    (∀ l, lb.toNat = linkNumber l → ¬ refused →
      let r := s.link l
      let cleared := { r with
        settings := k, phase := .waitMark, markDue := false, frame := none, carry := 0, timedOut := false, goodRun := 0
        badRun := 0, fifo := [], ready := false, lastFrame := none, measuredFrom := none }
      let departed := { cleared with
        counters := { r.counters with lockLosses := min (r.counters.lockLosses + 1) 65535 } }
      (r.enabled = false → eb = 0 →
        exec (.linkSetup p clocks t) s = done { base with links := s.links.set l { r with settings := k } }) ∧
      (r.enabled = false → eb = 1 →
        exec (.linkSetup p clocks t) s = done { base with
          links := s.links.set l { cleared with enabled := true, lock := .hunt, quietSince := now } }) ∧
      (r.enabled = true → eb = 1 → k = r.settings → exec (.linkSetup p clocks t) s = done base) ∧
      (r.enabled = true → eb = 1 → k ≠ r.settings → r.lock ≠ .locked →
        exec (.linkSetup p clocks t) s = done { base with links := s.links.set l { cleared with lock := .hunt } }) ∧
      (r.enabled = true → eb = 1 → k ≠ r.settings → r.lock = .locked →
        exec (.linkSetup p clocks t) s = done (State.announceDeparture
          { base with links := s.links.set l { departed with lock := .hunt } } l now)) ∧
      (r.enabled = true → eb = 0 → r.lock ≠ .locked →
        exec (.linkSetup p clocks t) s = done { base with
          links := s.links.set l { cleared with enabled := false, lock := .disabled } }) ∧
      (r.enabled = true → eb = 0 → r.lock = .locked →
        exec (.linkSetup p clocks t) s = done (State.announceDeparture
          { base with links := s.links.set l { departed with enabled := false, lock := .disabled } } l now)))) ∧
  ∀ (s : State) (p : Port) (clocks : List Lanes) (t : Nat) (e : PortState) (lb : Byte),
    s.commandAt p clocks .linkRestart [lb] e →
    let base := { s with now := max s.now t, ports := s.ports.set p e }
    (3 < lb.toNat → exec (.linkRestart p clocks t) s = .next { s with
      now := max s.now t, ports := s.portsAfter p (e.holds .range []) id }) ∧
    (∀ l, lb.toNat = linkNumber l →
      let r := s.link l
      let cleared := { r with
        lock := .hunt, phase := .waitMark, markDue := false, frame := none, carry := 0, timedOut := false, goodRun := 0
        badRun := 0, fifo := [], ready := false, lastFrame := none, measuredFrom := none }
      (r.lock = .disabled → exec (.linkRestart p clocks t) s = .next { s with
        now := max s.now t, ports := s.portsAfter p (e.holds .state []) id }) ∧
      (r.lock = .hunt ∨ r.lock = .sync → exec (.linkRestart p clocks t) s = .next { s with
        now := max s.now t, links := s.links.set l cleared, ports := s.portsAfter p (e.holds .ok []) id }) ∧
      (r.lock = .locked →
        let x := State.announceDeparture { base with links := s.links.set l { cleared with
          counters := { r.counters with lockLosses := min (r.counters.lockLosses + 1) 65535 } } } l base.now
        exec (.linkRestart p clocks t) s = .next { x with ports := x.ports.set p ((x.port p).holds .ok []) }))

/-- R21, R22: LINK_STATUS and LINK_COUNTERS answer with the link as it stands; the one changes nothing, the other zeroes
the seven counters when asked. (Choices of the model: log 19.) -/
def Obligations.LinkReadings : Prop :=
  (∀ (s : State) (p : Port) (clocks : List Lanes) (e : PortState) (lb : Byte),
    s.commandAt p clocks .linkStatus [lb] e →
    (3 < lb.toNat →
      exec (.linkStatus p clocks) s = .next { s with ports := s.portsAfter p (e.holds .range []) id }) ∧
    (∀ l, lb.toNat = linkNumber l → ∃ data : List Byte,
      exec (.linkStatus p clocks) s = .next { s with ports := s.portsAfter p (e.holds .ok data) id } ∧
      ((s.link l).Sound → data.map BitVec.toNat = [(s.link l).enabled.toNat, lockCode (s.link l).lock,
        (s.link l).ready.toNat, (s.link l).fifo.length, (s.link l).goodRun, (s.link l).badRun,
        (s.link l).settings.shortLo, (s.link l).settings.shortHi, (s.link l).settings.longLo,
        (s.link l).settings.longHi, (s.link l).settings.markLo, (s.link l).settings.markHi, (s.link l).settings.filter,
        (s.link l).settings.timeout]))) ∧
  (∀ (s : State) (p : Port) (clocks : List Lanes) (e : PortState) (lb cb : Byte),
    s.commandAt p clocks .linkCounters [lb, cb] e →
    (3 < lb.toNat ∨ 1 < cb.toNat →
      exec (.linkCounters p clocks) s = .next { s with ports := s.portsAfter p (e.holds .range []) id }) ∧
    (∀ l, lb.toNat = linkNumber l → cb.toNat ≤ 1 →
      let c := (s.link l).counters
      exec (.linkCounters p clocks) s = .next { s with
        links := if cb = 1 then s.links.set l { s.link l with counters := ⟨0, 0, 0, 0, 0, 0, 0⟩ } else s.links
        ports := s.portsAfter p (e.holds .ok ([c.widthViolations, c.tagMismatches, c.parityErrors, c.badFrames,
          c.lockLosses, c.slipRepeats, c.slipDrops].flatMap (bytesOf 2))) id }))

/-! ### Timebase (02 §2.2 to §2.5) -/

/-- R23, R24, R26 to R28: a rising edge on WCLK: ignored unless WCLK is the reference; without
a last edge it only starts measurement; else the period it ends is early bad or good. Early bad: ACQUIRE loses its
count, LOCKED goes to HOLDOVER with CLOCK_CHANGE and, in ROLLING and CLOSING, the CLOCK HOLD request, HOLDOVER stays. Good:
it counts toward lock in ACQUIRE, is a sample-period event in LOCKED, and ends HOLDOVER. The model's own reading (log 9):
an edge after a late period that has come and has not been taken takes it first, at its own moment, and then only starts
measurement. (Choices of the model: logs 1, 6, 7, 9, 26.) -/
def Obligations.WclkEdgesAreJudged : Prop :=
  ∀ (t : Nat) (s : State), s.resetHeld = false →
    let e := max s.now t
    let tb := s.timebase
    let seen := { tb with lastEdge := some e, absenceStart := e }
    (tb.reference ≠ .wclk → exec (.wclkEdge t) s = .next { s with now := e }) ∧
    (tb.reference = .wclk → tb.lastEdge = none →
      exec (.wclkEdge t) s = .next { s with now := e, timebase := seen }) ∧
    (∀ d, tb.reference = .wclk → tb.lastEdge = some d → e < d + tb.nominal + 17 →
      (e - d < tb.nominal - 16 → tb.clock = .acquire →
        exec (.wclkEdge t) s = .next { s with now := e, timebase := { seen with goodCount := 0 } }) ∧
      (e - d < tb.nominal - 16 → tb.clock = .holdover →
        exec (.wclkEdge t) s = .next { s with now := e, timebase := seen }) ∧
      (e - d < tb.nominal - 16 → tb.clock = .locked →
        exec (.wclkEdge t) s = .next { s with
          now := e, cues := s.cuesAsked s.cues clockHoldLabel, ports := s.portsRaised .clockChange
          timebase := { seen with
            clock := .holdover, goodCount := 0, edgesDue := []
            nextOscillator := max (tb.lastSample + tb.nominal) e } }) ∧
      (tb.nominal - 16 ≤ e - d → tb.clock = .acquire → tb.goodCount < 63 →
        exec (.wclkEdge t) s = .next { s with now := e, timebase := { seen with goodCount := tb.goodCount + 1 } }) ∧
      (tb.nominal - 16 ≤ e - d → tb.clock = .acquire → tb.goodCount = 63 →
        exec (.wclkEdge t) s = .next { s with
          now := e
          ports := s.portsRaised .clockChange
          timebase := if tb.nominal / 2 ≤ e - tb.lastSample
            then { seen with clock := .locked, goodCount := 0, edgesDue := tb.edgesDue ++ [e] }
            else { seen with clock := .locked, goodCount := 0 } }) ∧
      (tb.nominal - 16 ≤ e - d → tb.clock = .locked →
        exec (.wclkEdge t) s = .next { s with
          now := e, timebase := { seen with edgesDue := tb.edgesDue ++ [e] } }) ∧
      (tb.nominal - 16 ≤ e - d → tb.clock = .holdover →
        exec (.wclkEdge t) s = .next { s with
          now := e, ports := s.portsRaised .clockChange
          timebase := { seen with clock := .acquire, goodCount := 1 } })) ∧
    (∀ d, tb.reference = .wclk → tb.lastEdge = some d → d + tb.nominal + 17 ≤ e →
      (tb.clock = .acquire →
        exec (.wclkEdge t) s = .next { s with now := e, timebase := { seen with goodCount := 0 } }) ∧
      (tb.clock = .holdover → exec (.wclkEdge t) s = .next { s with now := e, timebase := seen }) ∧
      (tb.clock = .locked →
        exec (.wclkEdge t) s = .next { s with
          now := e, cues := s.cuesAsked s.cues clockHoldLabel, ports := s.portsRaised .clockChange
          timebase := { seen with
            clock := .holdover, goodCount := 0, edgesDue := []
            nextOscillator := max (tb.lastSample + tb.nominal) (d + tb.nominal + 17) } }))

/-- R24, R26, R28, R30, R165: a late period and an absence, each at its moment: the last edge becomes none; ACQUIRE loses its
count; LOCKED goes to HOLDOVER, timed by the oscillator, with CLOCK_CHANGE at every port and, in ROLLING and CLOSING, the
CLOCK HOLD request. An entry to HOLDOVER taken before a boundary `p` of a running take has its request at p - 1, the
oscillator produces the event at `p`, and the block that begins there is flagged HOLDOVER from it; an entry taken after it
has its request at `p`, whose sample period is reference-timed, and the oscillator goes on from there. The closing block
keeps the flag it has. (Choices of the model: logs 1, 2, 6, 7, 10, 26.) -/
def Obligations.SilencesOfTheReference : Prop :=
  (∀ (t : Nat) (s : State), s.resetHeld = false → s.timebase.reference ≠ .none →
    let tb := s.timebase
    (∀ d, tb.lastEdge = some d →
      (max s.now t < d + tb.nominal + 17 → exec (.latePeriod t) s = .next { s with now := max s.now t }) ∧
      (d + tb.nominal + 17 ≤ max s.now t →
        (tb.clock = .acquire → exec (.latePeriod t) s = .next { s with
          now := max s.now t, timebase := { tb with lastEdge := none, goodCount := 0 } }) ∧
        (tb.clock = .holdover → exec (.latePeriod t) s = .next { s with
          now := max s.now t, timebase := { tb with lastEdge := none } }) ∧
        (tb.clock = .locked → exec (.latePeriod t) s = .next { s with
          now := max s.now t, cues := s.cuesAsked s.cues clockHoldLabel, ports := s.portsRaised .clockChange
          timebase := { tb with
            lastEdge := none, clock := .holdover, goodCount := 0, edgesDue := []
            nextOscillator := max (tb.lastSample + tb.nominal) (d + tb.nominal + 17) } }))) ∧
    (max s.now t < tb.absenceStart + 2 * tb.nominal →
      exec (.referenceAbsent t) s = .next { s with now := max s.now t }) ∧
    (tb.absenceStart + 2 * tb.nominal ≤ max s.now t →
      let gone := { tb with lastEdge := none, absenceStart := tb.absenceStart + 2 * tb.nominal }
      (tb.clock = .acquire → exec (.referenceAbsent t) s = .next { s with
        now := max s.now t, timebase := { gone with goodCount := 0 } }) ∧
      (tb.clock = .holdover → exec (.referenceAbsent t) s = .next { s with now := max s.now t, timebase := gone }) ∧
      (tb.clock = .locked → exec (.referenceAbsent t) s = .next { s with
        now := max s.now t, cues := s.cuesAsked s.cues clockHoldLabel, ports := s.portsRaised .clockChange
        timebase := { gone with
          clock := .holdover, goodCount := 0, edgesDue := []
          nextOscillator := max (tb.lastSample + tb.nominal) (tb.absenceStart + 2 * tb.nominal) } }))) ∧
  ∀ (t d e : Nat) (s : State) (i j : BufferId), s.resetHeld = false → s.timebase.reference ≠ .none →
    s.timebase.clock = .locked → s.timebase.edgesDue = [e] → s.timebase.lastEdge = some d →
    s.timebase.nominal = nominalOf s.timebase.rate → d + s.timebase.nominal + 17 ≤ max s.now t →
    s.timebase.lastSample + s.timebase.nominal ≤ max s.now t →
    s.take.state = .rolling → s.take.gathering = true → s.take.sequence < 65534 → s.cues.requests.length < 8 →
    s.framer.filling? = some i → j ≠ i → (s.framer.buffer j).state = .free → s.engine.state = .idle →
    s.timebase.position + 1 < lastPosition → (s.timebase.position + 1) % blockLengthOf s.timebase.rate = 0 →
    let p := s.timebase.position + 1
    let flags := fun (u : State) (begun : Bool) => u.timebase.position = p ∧ u.timebase.clock = .holdover ∧
      u.timebase.edgesDue = [] ∧ u.framer.filling? = some j ∧ (u.framer.buffer j).start = p ∧
      (u.framer.buffer j).holdover = begun ∧ (u.framer.buffer i).holdover = (s.framer.buffer i).holdover
    let asked := fun position : Nat => { s.cues with requests := s.cues.requests ++ [⟨clockHoldLabel, position⟩] }
    (∃ entered u, exec (.latePeriod t) s = .next entered ∧ exec (.samplePeriodEvent ⟨t, []⟩) entered = .next u ∧
      flags u true ∧ u.cues = asked (p - 1)) ∧
    ∃ taken u, exec (.samplePeriodEvent ⟨t, []⟩) s = .next taken ∧ exec (.latePeriod t) taken = .next u ∧
      flags u false ∧ u.cues = asked p ∧
      u.timebase.nextOscillator = max (e + s.timebase.nominal) (d + s.timebase.nominal + 17)

/-- R29, R30, R41, R65: CLOCK_SETUP: its refusals, no effect when nothing changes, and the table of its effects by
timebase state, the CLOCK HOLD request from LOCKED in ROLLING and CLOSING included; a rate change moves a marked gain
application to the next boundary of the new N. (Choices of the model: logs 1, 7, 12, 19, 26.) -/
def Obligations.ClockSetupActsOnTheChange : Prop :=
  ∀ (s : State) (p : Port) (clocks : List Lanes) (t : Nat) (e : PortState) (fb rb : Byte),
    s.commandAt p clocks .clockSetup [fb, rb] e →
    let now := max s.now t
    let tb := s.timebase
    (5 < fb.toNat ∨ 1 < rb.toNat → exec (.clockSetup p clocks t) s = .next { s with
      now := now, ports := s.portsAfter p (e.holds .range []) id }) ∧
    (∀ ref rate, fb.toNat = referenceCode ref → rb.toNat = rateCode rate →
      (rate ≠ tb.rate → s.take.state ≠ .idle → exec (.clockSetup p clocks t) s = .next { s with
        now := now, ports := s.portsAfter p (e.holds .busy []) id }) ∧
      (rate = tb.rate ∨ s.take.state = .idle →
        let set := { tb with reference := ref, rate := rate, lastEdge := none, absenceStart := now, goodCount := 0 }
        let mix := { s.mix with
          applyMark := if rate = tb.rate then s.mix.applyMark
            else s.mix.applyMark.map fun _ => (tb.position / blockLengthOf rate + 1) * blockLengthOf rate }
        let answered := fun raised : PortState → PortState => s.portsAfter p ((raised e).holds .ok []) raised
        (ref = tb.reference → rate = tb.rate → exec (.clockSetup p clocks t) s = .next { s with
          now := now, ports := answered id }) ∧
        (ref ≠ tb.reference ∨ rate ≠ tb.rate →
          (tb.clock = .free → ref = .none → exec (.clockSetup p clocks t) s = .next { s with
            now := now, timebase := set, mix := mix, ports := answered id }) ∧
          (tb.clock = .free → ref ≠ .none → exec (.clockSetup p clocks t) s = .next { s with
            now := now, timebase := { set with clock := .acquire }, mix := mix
            ports := answered fun q => q.raise .clockChange }) ∧
          (tb.clock = .acquire ∨ tb.clock = .holdover → ref = .none → exec (.clockSetup p clocks t) s = .next { s with
            now := now, timebase := { set with clock := .free }, mix := mix
            ports := answered fun q => q.raise .clockChange }) ∧
          (tb.clock = .acquire ∨ tb.clock = .holdover → ref ≠ .none → exec (.clockSetup p clocks t) s = .next { s with
            now := now, timebase := set, mix := mix, ports := answered id }) ∧
          (tb.clock = .locked → exec (.clockSetup p clocks t) s = .next { s with
            now := now, mix := mix, cues := s.cuesAsked s.cues clockHoldLabel
            ports := answered fun q => q.raise .clockChange
            timebase := { set with
              clock := if ref = .none then .free else .holdover
              edgesDue := []
              nextOscillator := max (tb.lastSample + tb.nominal) now } }))))

/-- R25, R27 to R29, R31, R45, R47 to R54, R60, R62 to R64: a sample-period event inside a gathered block, of a
reference edge or of the oscillator: the position advances, and one row joins the filling buffer, each track formed from
its link's answer, each bus rounded and saturated. HOLDOVER is set by an event of the oscillator and left by one that is
reference-timed, the oldest edge due in LOCKED. The oscillator's next event falls a nominal period after this one. The marks of each track join the
buffer, SLIP too where its link repeated a frame; a saturated bus sets its clip flag and, with the flag clear before,
its CLIP mark, and MIX_CLIP is raised at every port when all four flags were clear. The sample, the last-good sample and
the marks of one track follow the answer of its link and the condition of its slot. (Choices of the model: logs 1, 6, 7,
17, 27.) -/
def Obligations.GatheredSamplePeriod : Prop :=
  (∀ (t : Nat) (s : State) (i : BufferId) (refTimed : Bool) (last : Nat) (due : List Nat), s.resetHeld = false →
    (refTimed = true ∧ s.timebase.clock = .locked ∧ s.timebase.edgesDue = last :: due) ∨
      (refTimed = false ∧ s.timebase.clock ≠ .locked ∧ s.timebase.nextOscillator ≤ max s.now t ∧
        last = s.timebase.nextOscillator ∧ due = s.timebase.edgesDue) →
    s.take.gathering = true → s.framer.filling? = some i → s.timebase.position + 1 < lastPosition →
    (s.timebase.position + 1) % blockLengthOf s.timebase.rate ≠ 0 →
    ∃ u row, exec (.samplePeriodEvent ⟨t, []⟩) s = .next u ∧
      u = { s with
        now := max s.now t, timebase := u.timebase, links := u.links, framer := u.framer, mix := u.mix
        ports := u.ports } ∧
      u.timebase = { s.timebase with
        position := s.timebase.position + 1, edgesDue := due
        blockLength := blockLengthOf s.timebase.rate, nominal := nominalOf s.timebase.rate
        lastSample := last, nextOscillator := last + nominalOf s.timebase.rate } ∧
      u.links = ⟨s.links.l0.request.1, s.links.l1.request.1, s.links.l2.request.1, s.links.l3.request.1⟩ ∧
      (u.framer.buffer i).rows = (s.framer.buffer i).rows ++ [row] ∧
      (u.framer.buffer i).holdover = ((s.framer.buffer i).holdover || !refTimed) ∧ u.framer.map = s.framer.map ∧
      (∀ j, j ≠ i → u.framer.buffer j = s.framer.buffer j) ∧
      (∀ x : Fin 64, row.tracks[x] =
        (formTrack s.framer.map[x] s.linkAnswers s.framer.lastGood[x] (s.framer.buffer i).marks[x]).sample) ∧
      (∀ x : Fin 64, u.framer.lastGood[x] =
        (formTrack s.framer.map[x] s.linkAnswers s.framer.lastGood[x] (s.framer.buffer i).marks[x]).lastGood) ∧
      (∀ x : Fin 64, (u.framer.buffer i).marks[x] =
        (formTrack s.framer.map[x] s.linkAnswers s.framer.lastGood[x]
          (if (s.framer.map[x]).enabled = true ∧ (s.link (s.framer.map[x]).link).ready = true ∧
              (s.link (s.framer.map[x]).link).fifo = [] then
            { (s.framer.buffer i).marks[x] with slip := true } else (s.framer.buffer i).marks[x])).marks) ∧
      (let value := fun b : Fin 4 => roundHalfUp (busSum s.mix.active[b] s.mix.ramps[b] row.tracks
        (s.timebase.position + 1 - (s.framer.buffer i).start) (blockLengthOf s.timebase.rate))
      (∀ b : Fin 4, row.buses[b] = saturate (value b) ∧
        u.mix.clipFlags[b] = (s.mix.clipFlags[b] || saturates (value b)) ∧
        (u.framer.buffer i).clips[b] =
          ((s.framer.buffer i).clips[b] || (saturates (value b) && !s.mix.clipFlags[b]))) ∧
      ((∀ b : Fin 4, s.mix.clipFlags[b] = false) → (∃ b : Fin 4, saturates (value b) = true) →
        u.ports = s.portsRaised .mixClip) ∧
      ((∃ b : Fin 4, s.mix.clipFlags[b] = true) ∨ (∀ b : Fin 4, saturates (value b) = false) → u.ports = s.ports)) ∧
      u.mix = { s.mix with clipFlags := u.mix.clipFlags }) ∧
  ∀ (e : TrackEntry) (answers : PerLink (Option LinkFrame)) (good : Sample) (m : TrackMarks),
    (e.enabled = false → formTrack e answers good m = ⟨0, good, m⟩) ∧
    (e.enabled = true → answers.get e.link = none → formTrack e answers good m = ⟨0, good, { m with absent := true }⟩) ∧
    (∀ (frame : LinkFrame) (h : e.slot.val < frame.length), e.enabled = true → answers.get e.link = some frame →
      let slot := frame[e.slot.val]
      (slot.parityFailed = true → formTrack e answers good m = ⟨good, good, { m with held := true }⟩) ∧
      (slot.parityFailed = false → slot.valid = false → formTrack e answers good m =
        ⟨0, good, { m with invalid := true, overload := m.overload || slot.overload }⟩) ∧
      (slot.parityFailed = false → slot.valid = true → formTrack e answers good m =
        ⟨slot.sample, slot.sample, { m with overload := m.overload || slot.overload }⟩))

/-- R32, R35, R46, R55, R102: the boundary at the take start position, with no block in coding and no port waiting: the
take number increases with 65535 followed by 1, the sequence is 0, gathering begins in a buffer whose block starts here,
the reservoir is half full, and TAKE_CHANGE is raised at every port. (Choices of the model: logs 1, 7.) -/
def Obligations.TakeStartsAtItsBoundary : Prop :=
  ∀ (t : Nat) (s : State), s.resetHeld = false → s.timebase.clock ≠ .locked →
    s.timebase.nextOscillator ≤ max s.now t → s.take.state = .starting → s.take.gathering = false →
    s.engine.state = .idle → (∀ p, (s.feed p).wait = none) → s.timebase.position + 1 < lastPosition →
    (s.timebase.position + 1) % blockLengthOf s.timebase.rate = 0 →
    s.take.startPosition = s.timebase.position + 1 →
    s.framer.buffer0.state = .free → s.framer.buffer1.state = .free →
    ∃ u, exec (.samplePeriodEvent ⟨t, []⟩) s = .next u ∧
      u.timebase.position = s.take.startPosition ∧
      u.take = { s.take with
        state := .rolling, gathering := true, sequence := 0
        number := if s.take.number < 65535 then s.take.number + 1 else 1 } ∧
      u.rate = { s.rate with level := s.rate.factor * (10 * s.rate.rate) / 2, prevShift := 0 } ∧
      u.framer.filling? = some .b0 ∧ (u.framer.buffer .b0).start = s.take.startPosition ∧
      (u.framer.buffer .b0).rows.length = 1 ∧ (u.framer.buffer .b0).holdover = true ∧
      u.framer.buffer .b1 = s.framer.buffer .b1 ∧
      (∀ p, (u.port p).events.getLsbD (eventBit .takeChange) = true ∧ (s.port p).sameTransaction (u.port p)) ∧
      u.store = s.store ∧ u.feeds = s.feeds ∧ u.cues = s.cues ∧ u.engine = s.engine

/-- R36, R37, R46, R54 to R56, R59, R74 to R76, R95, R103 to R108: a boundary of a running take, of the oscillator or of
a reference edge, with no block in coding: the block being gathered goes to coding with its take number, its sequence,
its cue copy and its stream decision, the reservoir is charged, and SHED is raised where the decision shed or overran
(`HandsOver`; R103 to R107 are stated of the decision itself in StreamDecisionAndReservoir). In ROLLING the other buffer
begins the next block with the sample period at the boundary, HOLDOVER set unless it is reference-timed; the closing
boundary of CLOSING ends gathering and the framer's buffers stay as they are. The boundary that closes block 65534 in
ROLLING, by the row TAKE_LENGTH_LIMIT: the take is CLOSING with end request CLOSE and an END sequence of 65535. R164: a
link that times out after the boundary and before the framer's requests is ABSENT from offset 0 of the new block, and
its FAULT request carries the boundary's position. (Choices of the model: logs 1, 5, 6, 7, 17, 20, 27.) -/
def Obligations.BlocksCloseAtBoundaries : Prop :=
  (∀ (t : Nat) (s : State) (i : BufferId), s.resetHeld = false → s.timebase.clock ≠ .locked →
    s.timebase.nextOscillator ≤ max s.now t → s.take.state = .rolling → s.take.gathering = true →
    s.take.sequence = 65534 → s.framer.filling? = some i → s.engine.state = .idle →
    (∀ j, j ≠ i → (s.framer.buffer j).state ≠ .filling) →
    s.timebase.position + 1 < lastPosition → (s.timebase.position + 1) % blockLengthOf s.timebase.rate = 0 →
    ∃ u, exec (.takeLengthLimit t) s = .next u ∧
      u.timebase.position = s.timebase.position + 1 ∧
      u.take = { s.take with
        state := .closing, gathering := false, endRequest := .close, sequence := 65535
        endPosition := s.timebase.position + 1 } ∧
      s.HandsOver u i ∧ u.framer.filling? = none ∧ u.cues = s.cues ∧ u.store = s.store ∧
      (∀ p, (u.port p).events.getLsbD (eventBit .takeChange) = true)) ∧
  ∀ (t : Nat) (s : State) (i j : BufferId) (refTimed : Bool), s.resetHeld = false →
    (refTimed = true ∧ s.timebase.clock = .locked ∧ s.timebase.edgesDue ≠ []) ∨
      (refTimed = false ∧ s.timebase.clock ≠ .locked ∧ s.timebase.nextOscillator ≤ max s.now t) →
    s.take.gathering = true → s.framer.filling? = some i → j ≠ i → (s.framer.buffer j).state = .free →
    s.engine.state = .idle → s.timebase.position + 1 < lastPosition →
    (s.timebase.position + 1) % blockLengthOf s.timebase.rate = 0 →
    let p := s.timebase.position + 1
    let handedOver := fun u : State => u.timebase.position = p ∧ u.store = s.store ∧ s.HandsOver u i
    let goesOn := fun u : State =>
      u.take = { s.take with sequence := s.take.sequence + 1 } ∧ u.framer.filling? = some j ∧
      (u.framer.buffer j).start = p ∧ (u.framer.buffer j).rows.length = 1 ∧
      (u.framer.buffer j).holdover = !refTimed ∧ u.mix = { s.mix.boundary with clipFlags := u.mix.clipFlags }
    (s.take.state = .rolling → s.take.sequence < 65534 →
      ∃ u, exec (.samplePeriodEvent ⟨t, []⟩) s = .next u ∧ handedOver u ∧ goesOn u ∧ u.cues = s.cues) ∧
    (s.take.state = .closing →
      ∃ u, exec (.samplePeriodEvent ⟨t, []⟩) s = .next u ∧ handedOver u ∧ u.cues = s.cues ∧
        u.take = { s.take with gathering := false, sequence := s.take.sequence + 1, endPosition := p } ∧
        u.framer.filling? = none ∧ u.framer.buffer j = s.framer.buffer j ∧ u.mix = s.mix.boundary) ∧
    (∀ l, s.take.state = .rolling → s.take.sequence < 65534 → (s.link l).enabled = true → (s.link l).timedOut = false →
      (s.link l).lock = .locked → (s.link l).quietSince + (s.link l).settings.timeout + 1 ≤ max s.now t →
      s.timebase.reference ≠ .link l → s.cues.requests.length < 8 →
      ∃ u row, exec (.samplePeriodEvent ⟨t, [.timeout l]⟩) s = .next u ∧ handedOver u ∧ goesOn u ∧
        (u.link l).lock = .hunt ∧ (u.framer.buffer j).rows = [row] ∧
        u.cues = { s.cues with requests := s.cues.requests ++ [⟨linkLostLabel l, p⟩] } ∧
        ∀ x : Fin 64, (s.framer.map[x]).enabled = true → (s.framer.map[x]).link = l →
          row.tracks[x] = 0 ∧ ((u.framer.buffer j).marks[x]).absent = true)

/-- R31, R38, R39, R58, R122: the sample-period event at which the position reaches 2^48 - 1, by the row POSITION_LIMIT:
each NEXT wait is answered NONE with its lost count. A take in STARTING returns to IDLE; one in ROLLING or CLOSING ends
as by an ABORT: the block being gathered is discarded, and with no block in coding the END records are published at once
and the take is IDLE. From then on sample-period events leave the position, ask the links for frames, and no boundary
occurs; ROLL and GAIN_APPLY are refused with RANGE. (Choices of the model: logs 1, 5, 6, 7, 11, 19, 33.) -/
def Obligations.PositionLimitEndsTheCount : Prop :=
  (∀ (t : Nat) (s : State), s.resetHeld = false → s.timebase.clock ≠ .locked →
    s.timebase.nextOscillator ≤ max s.now t → s.timebase.position + 1 = lastPosition →
    s.take.state = .starting → s.take.gathering = false →
    ∃ u, exec (.positionLimit t) s = .next u ∧ u.timebase.position = lastPosition ∧
      u.take = { s.take with state := .idle } ∧ u.store = s.store ∧ u.cues = s.cues ∧ u.rate = s.rate ∧
      u.mix = s.mix ∧ u.framer = s.framer ∧ u.engine = s.engine ∧
      (∀ p, (s.feed p).wait = none → u.feed p = s.feed p ∧ u.port p = (s.port p).raise .takeChange) ∧
      (∀ p k, (s.feed p).wait = some k → u.feed p = { s.feed p with lost := 0, wait := none } ∧
        u.port p = ((s.port p).raise .takeChange).holds .none (bytesOf 2 (s.feed p).lost))) ∧
  (∀ (t : Nat) (s : State), s.resetHeld = false → s.timebase.clock ≠ .locked →
    s.timebase.nextOscillator ≤ max s.now t → s.timebase.position + 1 = lastPosition →
    s.take.state = .rolling ∨ s.take.state = .closing →
    ∃ u, exec (.positionLimit t) s = .next u ∧ u.timebase.position = lastPosition ∧ u.cues = s.cues ∧ u.rate = s.rate ∧
      u.mix = s.mix ∧ u.take.gathering = false ∧
      (∀ p k, (s.feed p).wait = some k → (u.feed p).wait = none ∧ (u.port p).phase = .responseReady ∧
        (u.port p).response = some ⟨.none, .bytes (bytesOf 2 (s.feed p).lost)⟩) ∧
      (s.engine.state ≠ .idle → u.engine = s.engine ∧ u.store = s.store ∧
        (s.take.gathering = false → u.framer = s.framer ∧
          u.take = { s.take with state := .closing, gathering := false, endRequest := .abort }) ∧
        (∀ i, s.take.gathering = true → s.framer.filling? = some i →
          u.framer = s.framer.setBuffer i { s.framer.buffer i with state := .free } ∧
          u.take = { s.take with
            state := .closing, gathering := false, endRequest := .abort
            endPosition := (s.framer.buffer i).start })) ∧
      (∀ i, s.take.gathering = true → s.framer.filling? = some i → s.engine.state = .idle → s.engine.block = none →
        s.store.archive.filling = none → s.store.stream.filling = none →
        (u.framer.buffer i).state = .free ∧ u.engine.state = .idle ∧
        u.take = { s.take with
          state := .idle, gathering := false, endRequest := .none, endPosition := (s.framer.buffer i).start } ∧
        ∀ f, (u.region f).filling = none ∧
          (u.region f).lastPublished = some ⟨f, s.take.number, s.take.sequence⟩)) ∧
  (∀ (t : Nat) (s u : State), s.timebase.position = lastPosition → s.take.gathering = false →
    exec (.samplePeriodEvent ⟨t, []⟩) s = .next u →
    u.timebase.position = lastPosition ∧ u.mix = s.mix ∧ u.take = s.take ∧ u.feeds = s.feeds ∧ u.framer = s.framer ∧
    (s.resetHeld = false → (s.timebase.clock = .locked ∧ s.timebase.edgesDue ≠ []) ∨
        (s.timebase.clock ≠ .locked ∧ s.timebase.nextOscillator ≤ max s.now t) →
      u.links = ⟨s.links.l0.request.1, s.links.l1.request.1, s.links.l2.request.1, s.links.l3.request.1⟩)) ∧
  (∀ (s : State) (p : Port) (clocks : List Lanes) (e : PortState), s.timebase.position = lastPosition →
    (s.commandAt p clocks .roll [] e → s.take.state = .armed →
      exec (.roll p clocks) s = .next { s with ports := s.portsAfter p (e.holds .range []) id }) ∧
    (s.commandAt p clocks .gainApply [] e →
      exec (.gainApply p clocks) s = .next { s with ports := s.portsAfter p (e.holds .range []) id }))

/-- R122, R148: the boundary that brings the wait of port `p` to 0, by the row NEXT_WAIT_EXPIRY, outside a take: the
wait is answered NONE with the lost count, which becomes 0; each other wait is lowered by one. (Choices of the model:
logs 1, 5, 7, 19.) -/
def Obligations.WaitsEndAtTheirBoundary : Prop :=
  ∀ (p : Port) (t : Nat) (s : State), s.resetHeld = false → s.timebase.clock ≠ .locked →
    s.timebase.nextOscillator ≤ max s.now t → s.take.gathering = false → s.take.state = .idle → s.engine.state = .idle →
    s.timebase.position + 1 < lastPosition → (s.timebase.position + 1) % blockLengthOf s.timebase.rate = 0 →
    (s.feed p).wait = some 1 →
    ∃ u, exec (.nextWaitExpiry p t) s = .next u ∧
      u.timebase.position = s.timebase.position + 1 ∧
      u.feed p = { s.feed p with lost := 0, wait := none } ∧
      u.port p = (s.port p).holds .none (bytesOf 2 (s.feed p).lost) ∧
      (∀ q k, (s.feed q).wait = some k → 2 ≤ k →
        u.feed q = { s.feed q with wait := some (k - 1) } ∧ u.port q = s.port q) ∧
      (∀ q, (s.feed q).wait = none → u.feed q = s.feed q ∧ u.port q = s.port q) ∧
      u.store = s.store ∧ u.take = s.take ∧ u.cues = s.cues ∧ u.engine = s.engine

/-! ### Takes (02 §2.6) -/

/-- R33, R40, R139, R140: ARM: STATE outside IDLE, CONFLICT if the roster names a disabled track; else ARMED, with the
cue list and its request queue emptied, the id counter kept, and TAKE_CHANGE at every port. (Choices of the model: log
19.) -/
def Obligations.ArmTakesTheRoster : Prop :=
  ∀ (s : State) (p : Port) (clocks : List Lanes) (e : PortState), s.commandAt p clocks .arm [] e →
    (s.take.state ≠ .idle →
      exec (.arm p clocks) s = .next { s with ports := s.portsAfter p (e.holds .state []) id }) ∧
    (s.take.state = .idle → (∃ x : Fin 64, Source.track x ∈ s.rate.roster ∧ (s.framer.map[x]).enabled = false) →
      exec (.arm p clocks) s = .next { s with ports := s.portsAfter p (e.holds .conflict []) id }) ∧
    (s.take.state = .idle → (∀ x : Fin 64, Source.track x ∈ s.rate.roster → (s.framer.map[x]).enabled = true) →
      exec (.arm p clocks) s = .next { s with
        take := { s.take with state := .armed }
        cues := { s.cues with entries := [], requests := [] }
        ports := s.portsAfter p ((e.raise .takeChange).holds .ok []) fun q => q.raise .takeChange })

/-- R34: the whole rule of DISARM: from ARMED to IDLE with TAKE_CHANGE at every port, answered OK, nothing else changed;
refused with STATE in any other take state. The port's receive buffer is left open. -/
def Obligations.DisarmReturnsToIdle : Prop :=
  ∀ (s : State) (p : Port) (clocks : List Lanes) (e : PortState), s.commandAt p clocks .disarm [] e →
    ∃ t, exec (.disarm p clocks) s = .next t ∧
      (s.take.state = .armed → t = { s with
        take := { s.take with state := .idle }
        ports := s.portsAfter p { (e.raise .takeChange).holds .ok [] with rx := (t.port p).rx } fun q =>
          q.raise .takeChange }) ∧
      (s.take.state ≠ .armed → t = { s with
        ports := s.portsAfter p { e.holds .state [] with rx := (t.port p).rx } id })

/-- R35, R37, R40: ROLL and CLOSE: STATE outside ARMED and ROLLING; else STARTING with the take start position, and
CLOSING with end request CLOSE, each answered with the next multiple of N above the position, in six bytes. (Choices of
the model: logs 12, 19.) -/
def Obligations.RollAndCloseNameABoundary : Prop :=
  ∀ (s : State) (p : Port) (clocks : List Lanes) (e : PortState),
    let n := blockLengthOf s.timebase.rate
    (s.commandAt p clocks .roll [] e → s.take.state ≠ .armed →
      exec (.roll p clocks) s = .next { s with ports := s.portsAfter p (e.holds .state []) id }) ∧
    (s.commandAt p clocks .close [] e → s.take.state ≠ .rolling →
      exec (.close p clocks) s = .next { s with ports := s.portsAfter p (e.holds .state []) id }) ∧
    (∀ b : Nat, s.timebase.position < b → b ≤ s.timebase.position + n → n ∣ b → b < 2 ^ 48 →
      ∃ data : List Byte, numberOf data = b ∧ data.length = 6 ∧
        (s.commandAt p clocks .roll [] e → s.take.state = .armed →
          exec (.roll p clocks) s = .next { s with
            take := { s.take with state := .starting, startPosition := b }
            ports := s.portsAfter p ((e.raise .takeChange).holds .ok data) fun q => q.raise .takeChange }) ∧
        (s.commandAt p clocks .close [] e → s.take.state = .rolling →
          exec (.close p clocks) s = .next { s with
            take := { s.take with state := .closing, endRequest := .close }
            ports := s.portsAfter p ((e.raise .takeChange).holds .ok data) fun q => q.raise .takeChange }))

/-- R38, R39, R40, R58, R80, R119: ABORT: STATE in IDLE and ARMED; from STARTING back to IDLE; in ROLLING and CLOSING
with a block in coding, gathering ends at once, the block being gathered is discarded, and the end request is ABORT;
that block in coding, the store and the rate controller are not touched. With no block in coding the END records follow
at once, published in both feeds to the ports subscribed, and the take is IDLE in the same step. (Choices of the model:
logs 11, 19.) -/
def Obligations.AbortEndsTheTake : Prop :=
  ∀ (s : State) (p : Port) (clocks : List Lanes) (e : PortState), s.commandAt p clocks .abort [] e →
    (s.take.state = .idle ∨ s.take.state = .armed →
      exec (.abort p clocks) s = .next { s with ports := s.portsAfter p (e.holds .state []) id }) ∧
    (s.take.state = .starting → exec (.abort p clocks) s = .next { s with
      take := { s.take with state := .idle }
      ports := s.portsAfter p ((e.raise .takeChange).holds .ok []) fun q => q.raise .takeChange }) ∧
    (∀ i, s.take.state = .rolling → s.take.gathering = true → s.framer.filling? = some i → s.engine.state ≠ .idle →
      exec (.abort p clocks) s = .next { s with
        take := { s.take with
          state := .closing, gathering := false, endRequest := .abort, endPosition := (s.framer.buffer i).start }
        framer := s.framer.setBuffer i { s.framer.buffer i with state := .free }
        ports := s.portsAfter p ((e.raise .takeChange).holds .ok []) fun q => q.raise .takeChange }) ∧
    (∀ i, s.take.state = .closing → s.take.gathering = true → s.framer.filling? = some i → s.engine.state ≠ .idle →
      exec (.abort p clocks) s = .next { s with
        take := { s.take with
          gathering := false, endRequest := .abort, endPosition := (s.framer.buffer i).start }
        framer := s.framer.setBuffer i { s.framer.buffer i with state := .free }
        ports := s.portsAfter p (e.holds .ok []) id }) ∧
    (s.take.state = .closing → s.take.gathering = false → s.engine.state ≠ .idle →
      exec (.abort p clocks) s = .next { s with
        take := { s.take with endRequest := .abort }
        ports := s.portsAfter p (e.holds .ok []) id }) ∧
    (∀ i, s.take.state = .rolling ∨ s.take.state = .closing → s.take.gathering = true →
      s.framer.filling? = some i → s.engine.state = .idle → s.engine.block = none →
      s.store.archive.filling = none → s.store.stream.filling = none →
      1 ≤ s.store.archive.free → 1 ≤ s.store.stream.free →
      ∃ u, exec (.abort p clocks) s = .next u ∧
        u.take = { s.take with
          state := .idle, gathering := false, endRequest := .none, endPosition := (s.framer.buffer i).start } ∧
        u.engine.state = .idle ∧ (u.framer.buffer i).state = .free ∧ u.rate = s.rate ∧ u.cues = s.cues ∧
        (∀ q, (u.port q).events.getLsbD (eventBit .takeChange) = true) ∧
        (∀ q, (s.feed q).subscription = none → u.feed q = s.feed q) ∧
        ∀ f, let id : RecordId := ⟨f, s.take.number, s.take.sequence⟩
          ((∀ q, (s.feed q).subscription ≠ some f) →
            u.region f = { s.region f with lastPublished := some id }) ∧
          ((∃ q, (s.feed q).subscription = some f) → ∃ r : Record,
            (u.region f).ring = (s.region f).ring ++ [r] ∧ (u.region f).lastPublished = some id ∧
            (u.region f).filling = none ∧ r.id = id ∧ r.kind = .ending ∧ r.state = .held ∧ r.pages = 1 ∧
            r.bytes = ({ s with take := { s.take with endPosition := (s.framer.buffer i).start } }.endRecord f true).bytes ∧
            ∀ q, r.holders.get q = decide ((s.feed q).subscription = some f)) ∧
          ∀ q, (s.feed q).subscription = some f →
            (u.feed q).arming = false ∧ (u.feed q).wait = none ∧
            (u.feed q).cursor = some ((s.feed q).cursor.getD id) ∧
            ((s.feed q).arming = true → (u.port q).events.getLsbD (eventBit .recReady) = true) ∧
            (∀ k, q ≠ p → (s.feed q).wait = some k → (u.port q).phase = .responseReady ∧
              (u.port q).response = some ⟨.ok, .record (s.feed q).lost id 32⟩))

/-! ### Track map, gains, archive setting (03, 04, 05) -/

/-- R41, R43, R44: TRACK_MAP_SET: BUSY in a take; in IDLE RANGE, CONFLICT with another enabled track of the same source
position, or the entry is replaced, with CONFIG_CHANGE at the other two ports. TRACK_MAP_GET, in any take state, gives
the entries asked for, or RANGE. (Choices of the model: log 19.) -/
def Obligations.TrackMapCommands : Prop :=
  (∀ (s : State) (p : Port) (clocks : List Lanes) (e : PortState) (a b c d : Byte),
    s.commandAt p clocks .trackMapSet [a, b, c, d] e →
    (s.take.state ≠ .idle →
      exec (.trackMapSet p clocks) s = .next { s with ports := s.portsAfter p (e.holds .busy []) id }) ∧
    (s.take.state = .idle → 63 < a.toNat ∨ 1 < b.toNat ∨ 3 < c.toNat ∨ 15 < d.toNat →
      exec (.trackMapSet p clocks) s = .next { s with ports := s.portsAfter p (e.holds .range []) id }) ∧
    (∀ (x : Fin 64) (l : LinkId) (j : Fin 16), s.take.state = .idle → a.toNat = x → b.toNat ≤ 1 → c.toNat = linkNumber l →
      d.toNat = j →
      (b = 1 → (∃ y : Fin 64, y ≠ x ∧ s.framer.map[y] = ⟨true, l, j⟩) →
        exec (.trackMapSet p clocks) s = .next { s with ports := s.portsAfter p (e.holds .conflict []) id }) ∧
      (b = 0 ∨ (∀ y : Fin 64, y ≠ x → s.framer.map[y] ≠ ⟨true, l, j⟩) →
        ∃ map : Vector TrackEntry 64,
          exec (.trackMapSet p clocks) s = .next { s with
            framer := { s.framer with map := map }
            ports := s.portsAfter p (e.holds .ok []) fun q => q.raise .configChange } ∧
          ∀ y : Fin 64, map[y] = if y = x then ⟨decide (b = 1), l, j⟩ else s.framer.map[y]))) ∧
  (∀ (s : State) (p : Port) (clocks : List Lanes) (e : PortState) (a n : Byte),
    s.commandAt p clocks .trackMapGet [a, n] e →
    (63 < a.toNat ∨ n.toNat = 0 ∨ 64 < n.toNat ∨ 64 < a.toNat + n.toNat →
      exec (.trackMapGet p clocks) s = .next { s with ports := s.portsAfter p (e.holds .range []) id }) ∧
    (1 ≤ n.toNat → a.toNat + n.toNat ≤ 64 → ∃ data : List Byte,
      exec (.trackMapGet p clocks) s = .next { s with ports := s.portsAfter p (e.holds .ok data) id } ∧
      data.length = 4 * n.toNat ∧
      ∀ x : Fin 64, a.toNat ≤ x → x < a.toNat + n.toNat →
        ((data.drop (4 * (x - a.toNat))).take 4).map BitVec.toNat =
          [x.val, (s.framer.map[x]).enabled.toNat, linkNumber (s.framer.map[x]).link, (s.framer.map[x]).slot.val]))

/-- R69, R70: GAIN_SET writes its entries into the pending table of one bus and changes nothing else; a polarity that is
no code, a bus, or tracks out of range are refused with RANGE. (Choices of the model: log 19.) -/
def Obligations.GainSetWritesThePendingTable : Prop :=
  (∀ (s : State) (p : Port) (clocks : List Lanes) (e : PortState) (bus first count hi lo polarity : Byte)
    (before after : List Byte),
    s.commandAt p clocks .gainSet (bus :: first :: count :: before ++ hi :: lo :: polarity :: after) e →
    before.length % 3 = 0 → before.length + 3 + after.length = 3 * count.toNat → count.toNat ≤ 82 → 1 < polarity.toNat →
    exec (.gainSet p clocks) s = .next { s with ports := s.portsAfter p (e.holds .range []) id }) ∧
  ∀ (s : State) (p : Port) (clocks : List Lanes) (e : PortState) (bus first count : Byte) (gains : List GainEntry)
    (rest : List Byte), s.commandAt p clocks .gainSet (bus :: first :: count :: rest) e →
    rest = gains.flatMap (fun g => bytesOf 2 g.gain.toNat ++ [if g.inverted then 1 else 0]) →
    count.toNat = gains.length → count.toNat ≤ 82 →
    (3 < bus.toNat ∨ count.toNat = 0 ∨ 64 < first.toNat + count.toNat →
      exec (.gainSet p clocks) s = .next { s with ports := s.portsAfter p (e.holds .range []) id }) ∧
    (∀ b : Fin 4, bus.toNat = b → 1 ≤ count.toNat → first.toNat + count.toNat ≤ 64 →
      ∃ table : GainTable,
        exec (.gainSet p clocks) s = .next { s with
          mix := { s.mix with edited := table }
          ports := s.portsAfter p (e.holds .ok []) id } ∧
        (∀ (c : Fin 4) (x : Fin 64), ¬(c = b ∧ first.toNat ≤ x ∧ x < first.toNat + count.toNat) →
          (table[c])[x] = (s.mix.edited[c])[x]) ∧
        (∀ x : Fin 64, ∀ h : x - first.toNat < gains.length, first.toNat ≤ x →
          (table[b])[x] = gains[x - first.toNat]))

/-- R71, R72: GAIN_APPLY marks the next boundary, or keeps the mark there is, and answers with it; GAIN_DISCARD copies
the active table into the pending one and clears the mark, saying whether one was cancelled. CONFIG_CHANGE goes to the
other two ports. (Choices of the model: logs 12, 19.) -/
def Obligations.GainApplyAndDiscard : Prop :=
  ∀ (s : State) (p : Port) (clocks : List Lanes) (e : PortState),
    let n := blockLengthOf s.timebase.rate
    (∀ b : Nat, s.commandAt p clocks .gainApply [] e → s.timebase.position ≠ lastPosition → b < 2 ^ 48 →
      (s.mix.applyMark = some b ∨
        (s.mix.applyMark = none ∧ s.timebase.position < b ∧ b ≤ s.timebase.position + n ∧ n ∣ b)) →
      ∃ data : List Byte, numberOf data = b ∧ data.length = 6 ∧
        exec (.gainApply p clocks) s = .next { s with
          mix := { s.mix with applyMark := some b }
          ports := s.portsAfter p (e.holds .ok data) fun q => q.raise .configChange }) ∧
    (s.commandAt p clocks .gainDiscard [] e → s.mix.applyMark = none →
      exec (.gainDiscard p clocks) s = .next { s with
        mix := { s.mix with edited := s.mix.active }
        ports := s.portsAfter p (e.holds .ok [0]) id }) ∧
    (∀ b, s.commandAt p clocks .gainDiscard [] e → s.mix.applyMark = some b →
      exec (.gainDiscard p clocks) s = .next { s with
        mix := { s.mix with edited := s.mix.active, applyMark := none }
        ports := s.portsAfter p (e.holds .ok [1]) fun q => q.raise .configChange })

/-- R73: GAIN_GET answers with the apply mark, the ramping flag and the entries of the copy named, and changes nothing;
a copy, a bus or tracks out of range are refused with RANGE. (Choices of the model: log 19.) -/
def Obligations.GainGetReadsATable : Prop :=
  ∀ (s : State) (p : Port) (clocks : List Lanes) (e : PortState) (copy bus first count : Byte),
    s.commandAt p clocks .gainGet [copy, bus, first, count] e →
    (1 < copy.toNat ∨ 3 < bus.toNat ∨ 63 < first.toNat ∨ count.toNat = 0 ∨ 64 < first.toNat + count.toNat →
      exec (.gainGet p clocks) s = .next { s with ports := s.portsAfter p (e.holds .range []) id }) ∧
    (∀ b : Fin 4, bus.toNat = b → copy.toNat ≤ 1 → 1 ≤ count.toNat → first.toNat + count.toNat ≤ 64 →
      ∃ m r g : List Byte,
        exec (.gainGet p clocks) s = .next { s with ports := s.portsAfter p (e.holds .ok (m ++ r ++ g)) id } ∧
        m.length = 7 ∧ r = [if (s.mix.ramps[b]).ramping then 1 else 0] ∧ g.length = 3 * count.toNat ∧
        (s.mix.applyMark = none → m = List.replicate 7 0) ∧
        (∀ q, s.mix.applyMark = some q → q < 2 ^ 48 → m.head? = some 1 ∧ numberOf m.tail = q) ∧
        ∀ x : Fin 64, first.toNat ≤ x → x < first.toNat + count.toNat →
          let entry := if copy = 1 then (s.mix.edited[b])[x] else (s.mix.active[b])[x]
          (g.drop (3 * (x - first.toNat))).take 3 =
            bytesOf 2 entry.gain.toNat ++ [if entry.inverted then 1 else 0])

/-- R41, R82, R83, R81: ARCHIVE_SETUP: BUSY in a take; in IDLE it stores the setting, or answers RANGE. ARCHIVE_GET, in
any take state, gives the setting and the number of channels: the enabled tracks, and four buses if they are included.
(Choices of the model: log 19.) -/
def Obligations.ArchiveCommands : Prop :=
  (∀ (s : State) (p : Port) (clocks : List Lanes) (e : PortState) (a : Byte), s.commandAt p clocks .archiveSetup [a] e →
    (s.take.state ≠ .idle →
      exec (.archiveSetup p clocks) s = .next { s with ports := s.portsAfter p (e.holds .busy []) id }) ∧
    (s.take.state = .idle → 1 < a.toNat →
      exec (.archiveSetup p clocks) s = .next { s with ports := s.portsAfter p (e.holds .range []) id }) ∧
    (s.take.state = .idle → a.toNat ≤ 1 → exec (.archiveSetup p clocks) s = .next { s with
      engine := { s.engine with includeMixes := decide (a = 1) }
      ports := s.portsAfter p (e.holds .ok [a]) fun q => q.raise .configChange })) ∧
  (∀ (s : State) (p : Port) (clocks : List Lanes) (e : PortState), s.commandAt p clocks .archiveGet [] e →
    ∃ a b : Byte, exec (.archiveGet p clocks) s = .next { s with ports := s.portsAfter p (e.holds .ok [a, b]) id } ∧
      a.toNat = s.engine.includeMixes.toNat ∧
      b.toNat = (List.finRange 64).countP (fun x => (s.framer.map[x]).enabled) +
        if s.engine.includeMixes then 4 else 0)

/-- R62 to R68: the sum of one bus is that of the 64 tracks, each times the gain it has at the offset, ramped on a ramping
bus, and negated under inverted polarity; it stays within its range under active gains, and a bus sample is the rounded
sum brought into 24 bits: within half a unit of the exact quotient where that lies in range, and the limit value beyond. A ramped
gain moves from the starting gain to the new gain without passing it and is the new gain at offset N - 1. At a block
boundary the clip flags are cleared and ramps end; under a mark the active table becomes the pending one, starting gains
are the old active gains, and a bus ramps exactly when one of its gains changed. -/
def Obligations.BusSamplesAndRamps : Prop :=
  (∀ (entries : Vector GainEntry 64) (ramp : Ramp) (tracks : Vector Sample 64) (n len : Nat),
    busSum entries ramp tracks n len = ((List.finRange 64).map fun x : Fin 64 =>
      let gain : Int := if ramp.ramping then rampedGain ramp.starting[x] (entries[x]).gain n len
        else (entries[x]).gain.toNat
      if (entries[x]).inverted then -((tracks[x]).toInt * gain) else (tracks[x]).toInt * gain).sum) ∧
  (∀ (entries : Vector GainEntry 64) (starting : Vector (BitVec 16) 64) (tracks : Vector Sample 64) (n len : Nat),
    (busSum entries ⟨false, starting⟩ tracks n len).natAbs ≤ 64 * 8388608 * 65535) ∧
  (∀ acc : Int, 2 * acc - 32768 < 65536 * roundHalfUp acc ∧ 65536 * roundHalfUp acc ≤ 2 * acc + 32768) ∧
  (∀ v : Int, (saturates v = false → (saturate v).toInt = v) ∧
    (8388607 < v → saturates v = true ∧ (saturate v).toInt = 8388607) ∧
    (v < -8388608 → saturates v = true ∧ (saturate v).toInt = -8388608)) ∧
  (∀ (a b : BitVec 16) (n len : Nat), 0 < len → n < len →
    (a.toNat ≤ b.toNat →
      (a.toNat : Int) ≤ rampedGain a b n len ∧ rampedGain a b n len ≤ b.toNat ∧
        rampedGain a b n len = a.toNat + (b.toNat - a.toNat) * (n + 1) / len) ∧
    (b.toNat ≤ a.toNat →
      (b.toNat : Int) ≤ rampedGain a b n len ∧ rampedGain a b n len ≤ a.toNat ∧
        rampedGain a b n len = a.toNat - (a.toNat - b.toNat) * (n + 1) / len) ∧
    rampedGain a b (len - 1) len = b.toNat ∧ rampedGain a a n len = a.toNat) ∧
  ∀ (m : Mix) (b : Fin 4),
    (m.boundary).applyMark = none ∧ (m.boundary).edited = m.edited ∧ (m.boundary).clipFlags[b] = false ∧
    (m.applyMark = none → (m.boundary).active = m.active ∧ ((m.boundary).ramps[b]).ramping = false) ∧
    (m.applyMark ≠ none → (m.boundary).active = m.edited ∧
      (∀ x : Fin 64, ((m.boundary).ramps[b]).starting[x] = ((m.active[b])[x]).gain) ∧
      (((m.boundary).ramps[b]).ramping = true ↔ ∃ x : Fin 64, ((m.active[b])[x]).gain ≠ ((m.edited[b])[x]).gain))

/-! ### Block coder and stream rate control (05, 06) -/

/-- R86: requantization: the formula, the clamp at the top, the range, and the distance of the sample scaled back. -/
def Obligations.RequantizationRule : Prop :=
  ∀ (x : Sample) (s : Nat), s ≤ 8 →
    (s = 0 → requantize s x.toInt = x.toInt) ∧
    (1 ≤ s → requantize s x.toInt = min ((x.toInt + 2 ^ (s - 1)) / 2 ^ s) (2 ^ (23 - s) - 1)) ∧
    (-(2 ^ (23 - s)) ≤ requantize s x.toInt ∧ requantize s x.toInt ≤ 2 ^ (23 - s) - 1) ∧
    (1 ≤ s → (x.toInt + 2 ^ (s - 1)) / 2 ^ s ≤ 2 ^ (23 - s) - 1 →
      (2 * (requantize s x.toInt * 2 ^ s - x.toInt)).natAbs ≤ 2 ^ s) ∧
    (1 ≤ s → requantize s (-8388608) = -(2 ^ (23 - s)))

/-- R87 to R90, R92, R162: coding loses nothing. A decoder that knows the parameter and the number of residuals reads
from the codes of a partition exactly its residuals, whatever bits follow, for every residual of at most 2^26; samples
of 24 bits have no larger residuals; and from the warm-up samples and the residuals of any order a decoder rebuilds the
samples. The order chosen has the least selection sum, and no lower order shares it. The residuals, the eight partitions,
the Rice parameter of a partition and the length of a code are those of the spec's own formulas. -/
def Obligations.CodingLosesNothing : Prop :=
  (∀ (r : Nat) (es : List Int) (rest : List Bool), r ≤ 26 → (∀ e ∈ es, e.natAbs ≤ 2 ^ 26) →
    readCodes r es.length (es.flatMap (riceCode r) ++ rest) = some (es, rest) ∧
    (es.flatMap (riceCode r)).length = (es.map (riceLength r)).sum) ∧
  (∀ (r : Nat) (e : Int),
    let u := if 0 ≤ e then 2 * e.natAbs else 2 * e.natAbs - 1
    riceLength r e = if u / 2 ^ r ≤ 31 then u / 2 ^ r + 1 + r else 60) ∧
  (∀ part : List Int, part ≠ [] →
    let q := (part.map Int.natAbs).sum / part.length
    riceParameter part ≤ 26 ∧ (q = 0 → riceParameter part = 0) ∧
    (q ≠ 0 → 2 ^ riceParameter part ≤ q ∧ (riceParameter part < 26 → q < 2 ^ (riceParameter part + 1)))) ∧
  (∀ (k : Nat) (ys : List Int) (n : Nat), k ≤ 3 → k ≤ n → n < ys.length →
    let y := fun i => ys.getD i 0
    (residuals k ys).getD n 0 = y n -
      (if k = 0 then 0
      else if k = 1 then y (n - 1)
      else if k = 2 then 2 * y (n - 1) - y (n - 2)
      else 3 * y (n - 1) - 3 * y (n - 2) + y (n - 3))) ∧
  (∀ (k m p : Nat) (ys : List Int), ys.length = 8 * m → k ≤ m → p < 8 →
    partitionOf k p ys = ((List.range ys.length).filter fun n =>
      decide (k ≤ n) && decide (p * m ≤ n) && decide (n < (p + 1) * m)).map fun n => (residuals k ys).getD n 0) ∧
  (∀ (k : Nat) (ys : List Int), k ≤ 3 →
    rebuildFrom k 0 0 0 k (ys.take k ++ (residuals k ys).drop k) = ys ∧
    ((∀ y ∈ ys, y.natAbs ≤ 2 ^ 23) → ∀ e ∈ (residuals k ys).drop k, e.natAbs ≤ 2 ^ 26)) ∧
  ∀ ys : List Int,
    let sum := fun k => (((residuals k ys).drop 3).map Int.natAbs).sum
    chosenOrder ys ≤ 3 ∧ (∀ k, k ≤ 3 → sum (chosenOrder ys) ≤ sum k) ∧
    (∀ k, k < chosenOrder ys → sum (chosenOrder ys) < sum k)

/-- R85, R91 to R95, R108, R141, R161, R162: where every item of a record stands, and that its parts are as long as the
sizes the rate controller is given. A section is as long as its section length, a block's stream record as its size, and
the cost the reservoir was charged is eight times the bytes of the record placed (log 17). Then, read back from the
bytes: each field of the header of a record; each field of a cue entry; the five flags of a channel; and each field of a
section header with the section's body. RAW is chosen unless the predictive bit count is smaller, and its body is the
samples; a predictive body is the warm-up samples, the eight partition parameters, the codes of the partitions, and fewer
than eight zero bits. (Choices of the model: log 17.) -/
def Obligations.RecordsHaveTheSizesChargedFor : Prop :=
  (∀ (c : Source) (s : Nat) (flags : List Bool) (ys : List Int), flags.length = 5 → s ≤ 8 → 3 ≤ ys.length →
    (sectionBytes c s flags ys).length = sectionLength s ys) ∧
  (∀ (s : State) (g : GatherBuffer) (d : StreamDecision), d.shift ≤ 8 →
    s.timebase.blockLength = 480 ∨ s.timebase.blockLength = 960 →
    8 * (s.streamRecord g d).bytes.length =
      streamCost g s.timebase.blockLength s.engine.cueCopy s.rate.roster d.shift d.present) ∧
  (∀ (s : State) (f : Feed) (aborted : Bool), (s.endRecord f aborted).bytes.length = 32) ∧
  (∀ h : Header, h.id.take < 65536 → h.id.sequence < 65536 → h.position < 2 ^ 48 → h.shift < 256 →
    h.rosterLength < 256 → h.present ≤ 16 → h.sections < 256 → h.cues < 256 → h.length < 2 ^ 32 →
    let field := fun i n => numberOf ((h.bytes.drop i).take n)
    h.bytes.length = 32 ∧
    field 0 1 = (match h.kind with
      | .block => 1
      | .ending => 2) ∧
    field 1 1 = (match h.id.feed with
      | .archive => 1
      | .stream => 2) ∧
    field 2 2 = h.id.take ∧ field 4 2 = h.id.sequence ∧ field 6 6 = h.position ∧
    field 12 1 = (match h.rate with
      | .hz48000 => 0
      | .hz96000 => 1) ∧
    field 13 2 = (match h.rate with
      | .hz48000 => 480
      | .hz96000 => 960) ∧
    field 15 1 = h.shift ∧
    (field 16 1).testBit 0 = h.holdover ∧ (field 16 1).testBit 1 = h.shed ∧ (field 16 1).testBit 2 = h.overrun ∧
    (field 16 1).testBit 3 = h.aborted ∧ field 16 1 < 16 ∧
    field 17 1 = h.rosterLength ∧ (∀ x, x < 16 → (field 18 2).testBit (15 - x) = decide (x < h.present)) ∧
    field 20 1 = h.sections ∧ field 21 1 = h.cues ∧ field 22 4 = h.length ∧
    h.bytes.drop 26 = List.replicate 6 0) ∧
  (∀ (start : Nat) (c : Cue), c.id < 65536 → start ≤ c.position → c.position - start < 65536 → c.label.length ≤ 10 →
    let bytes := cueEntryBytes start c
    let field := fun i n => numberOf ((bytes.drop i).take n)
    bytes.length = 16 ∧ field 0 2 = c.id ∧ start + field 2 2 = c.position ∧
    field 4 1 / 16 = (match c.kind with
      | .mark => 0
      | .sectionStart => 1
      | .sectionEnd => 2
      | .fault => 3) ∧
    field 4 1 % 16 = (match c.origin with
      | .port .p0 => 0
      | .port .p1 => 1
      | .port .p2 => 2
      | .part => 3) ∧
    field 5 1 = c.label.length ∧ bytes.drop 6 = c.label ++ List.replicate (10 - c.label.length) 0) ∧
  (∀ (g : GatherBuffer) (t : Fin 64) (b : Fin 4),
    channelFlags g (.track t) =
      [g.marks[t].absent, g.marks[t].invalid, g.marks[t].held, g.marks[t].overload, g.marks[t].slip] ∧
    channelFlags g (.bus b) = [false, false, false, g.clips[b], false]) ∧
  ∀ (c : Source) (s : Nat) (flags : List Bool) (ys : List Int), flags.length = 5 → s ≤ 8 →
    ys.length = 480 ∨ ys.length = 960 → (∀ y ∈ ys, -(2 ^ (23 - s)) ≤ y ∧ y < 2 ^ (23 - s)) →
    let bytes := sectionBytes c s flags ys
    let bits := bitsOfBytes bytes
    let field := fun i n => numberOfBits ((bits.drop i).take n)
    let w := 24 - s
    let sample := fun i => (BitVec.ofNat w (field i w)).toInt
    let k := chosenOrder ys
    let part := fun p => partitionOf k p ys
    let codes := (List.range 8).flatMap fun p => (part p).flatMap (riceCode (riceParameter (part p)))
    field 0 7 = (match c with
      | .track t => t.val
      | .bus b => 64 + b.val) ∧
    field 10 4 = s ∧ (bits.drop 14).take 5 = flags ∧ field 19 1 = 0 ∧ field 20 12 = bytes.length ∧
    (32 + ys.length * w ≤ 32 + k * w + 40 + codes.length →
      field 7 3 = 0 ∧ 8 * bytes.length = 32 + ys.length * w ∧
      ∀ (n : Nat) (h : n < ys.length), sample (32 + n * w) = ys[n]) ∧
    (32 + k * w + 40 + codes.length < 32 + ys.length * w →
      field 7 3 = 1 + k ∧ (∀ (n : Nat) (h : n < ys.length), n < k → sample (32 + n * w) = ys[n]) ∧
      (∀ p, p < 8 → field (32 + k * w + 5 * p) 5 = riceParameter (part p)) ∧
      ∃ pad, pad < 8 ∧ bits.drop (32 + k * w + 40) = codes ++ List.replicate pad false)

/-- R103 to R107: the stream decision: the first shift from one below the previous one that fits with every entry, else
shift 8 with the most entries that fit, else an overrun with one. What it does to the reservoir: the level stays within
the capacity, is what the record left or 0 after an overrun, and the shift falls by at most one from a block to the
next. -/
def Obligations.StreamDecisionAndReservoir : Prop :=
  (∀ (cost : Nat → Nat → Nat) (n prev avail : Nat), 1 ≤ n →
    let d := streamDecision cost n prev avail
    (∀ s, prev - 1 ≤ s → s ≤ 8 → cost s n ≤ avail → (∀ x, prev - 1 ≤ x → x < s → avail < cost x n) →
      d = ⟨s, n, false, false⟩) ∧
    ((∀ s, prev - 1 ≤ s → s ≤ 8 → avail < cost s n) →
      (∀ j, 1 ≤ j → j < n → cost 8 j ≤ avail → (∀ x, j < x → x < n → avail < cost 8 x) → d = ⟨8, j, true, false⟩) ∧
      ((∀ j, 1 ≤ j → j < n → avail < cost 8 j) → d = ⟨8, 1, decide (2 ≤ n), true⟩))) ∧
  ∀ (rc : RateControl) (cost : Nat → Nat → Nat), 1 ≤ rc.roster.length → rc.prevShift ≤ 8 →
    let d := streamDecision cost rc.roster.length rc.prevShift (rc.budget + rc.level)
    let after := rc.charge cost d
    after.level ≤ rc.capacity ∧ after.prevShift = d.shift ∧ d.shift ≤ 8 ∧ rc.prevShift ≤ d.shift + 1 ∧
    1 ≤ d.present ∧ d.present ≤ rc.roster.length ∧
    (d.overrun = true → after.level = 0 ∧ rc.budget + rc.level < cost 8 1) ∧
    (d.overrun = false → cost d.shift d.present ≤ rc.budget + rc.level ∧
      after.level = min rc.capacity (rc.level + rc.budget - cost d.shift d.present)) ∧
    (after.roster = rc.roster ∧ after.rate = rc.rate ∧ after.factor = rc.factor)

/-- R41, R97, R99, R163: STREAM_SETUP: BUSY in a take; in IDLE RANGE for a bad roster length or source id, CONFLICT for
a source named twice; else the roster is stored, rate and factor are clamped, the level is lowered to the capacity, and
the answer says whether anything was clamped. (Choices of the model: log 19.) -/
def Obligations.StreamSetupClamps : Prop :=
  ∀ (s : State) (p : Port) (clocks : List Lanes) (e : PortState) (n : Byte) (ids : List Byte) (hi lo k : Byte),
    s.commandAt p clocks .streamSetup (n :: ids ++ [hi, lo, k]) e → n.toNat = ids.length → n.toNat ≤ 246 →
    (s.take.state ≠ .idle →
      exec (.streamSetup p clocks) s = .next { s with ports := s.portsAfter p (e.holds .busy []) id }) ∧
    (s.take.state = .idle → n.toNat = 0 ∨ 16 < n.toNat ∨ (∃ b ∈ ids, 67 < b.toNat) →
      exec (.streamSetup p clocks) s = .next { s with ports := s.portsAfter p (e.holds .range []) id }) ∧
    (s.take.state = .idle → 1 ≤ n.toNat → n.toNat ≤ 16 → (∀ b ∈ ids, b.toNat ≤ 67) →
      (¬ ids.Nodup →
        exec (.streamSetup p clocks) s = .next { s with ports := s.portsAfter p (e.holds .conflict []) id }) ∧
      (ids.Nodup → ∀ roster : List Source, roster.map sourceId = ids.map BitVec.toNat →
        let rate := numberOf [hi, lo]
        let r := if rate < 128 then 128 else if 16000 < rate then 16000 else rate
        let f := if k.toNat < 1 then 1 else if 16 < k.toNat then 16 else k.toNat
        let level := min s.rate.level (f * (10 * r))
        exec (.streamSetup p clocks) s = .next { s with
          rate := ⟨roster, r, f, level, s.rate.prevShift⟩
          ports := s.portsAfter p
            (e.holds (if r = rate ∧ f = k.toNat then .ok else .okClamped)
              (bytesOf 2 r ++ bytesOf 1 f ++ bytesOf 4 (10 * r) ++ bytesOf 4 (f * (10 * r)) ++ bytesOf 4 level))
            fun q => q.raise .configChange }))

/-- R100: the whole rule of STREAM_GET: roster, R, k, B, C, L and previous shift, in any take state, nothing changed.
The port's receive buffer is left open. -/
def Obligations.StreamGetReadsTheController : Prop :=
  ∀ (s : State) (p : Port) (clocks : List Lanes) (e : PortState), s.commandAt p clocks .streamGet [] e →
    ∃ t, exec (.streamGet p clocks) s = .next t ∧ t = { s with
      ports := s.portsAfter p
        { e.holds .ok (bytesOf 1 s.rate.roster.length ++
            s.rate.roster.flatMap (fun c => bytesOf 1 (sourceId c)) ++ bytesOf 2 s.rate.rate ++ bytesOf 1 s.rate.factor ++
            bytesOf 4 (10 * s.rate.rate) ++ bytesOf 4 (s.rate.factor * (10 * s.rate.rate)) ++ bytesOf 4 s.rate.level ++
            bytesOf 1 s.rate.prevShift) with
          rx := (t.port p).rx } id }

/-! ### Block store and feeds (07) -/

/-- R77, R78, R80, R81, R85, R94, R96, R110, R115, R116, R117, R123: what the engine codes next in each of its states:
in STREAM the first roster entries of the block, at the shift and with the flags of the decision; in ARCHIVE every
enabled track and, with include mixes on, the four buses, at shift 0; in END a header alone, of the stream feed and then
of the archive feed; in IDLE nothing. A channel's samples are those gathered. With a record FILLING, RECORD_PLACEMENT
changes nothing; with nothing to code too, which is the model's choice (log 2). In every other case it is the placement
of the coded record: while the free pages are too few the head record is removed, no more often than that, and the
record then stands FILLING at the write point, which moves past it around the region; nothing else changes. A forced
removal is told to each port that held the record: lost count up by one and saturating, last taken, cursor on the record
that follows, LAGGED, a transfer of it cut unless its last byte was sent; a port that did not hold it is left alone;
spent records that the removal leaves at the head go with it. (Choices of the model: log 2.) -/
def Obligations.PlacementMakesRoom : Prop :=
  (∀ s : State, s.timebase.blockLength = 480 ∨ s.timebase.blockLength = 960 →
    let sections := fun (g : GatherBuffer) (shift : Nat) (channels : List Source) => channels.flatMap fun c =>
      sectionBytes c shift (channelFlags g c) ((g.channel c s.timebase.blockLength).map fun x => requantize shift x.toInt)
    let cues := fun g : GatherBuffer => s.engine.cueCopy.flatMap (cueEntryBytes g.start)
    (∀ i d, s.engine.state = .stream → s.engine.block = some i → s.engine.decision = some d → d.shift ≤ 8 →
      let g := s.framer.buffer i
      let channels := s.rate.roster.take d.present
      let body := cues g ++ sections g d.shift channels
      s.codedRecord? = some ⟨.block, ⟨.stream, g.take, g.sequence⟩, Header.bytes
        { kind := .block, id := ⟨.stream, g.take, g.sequence⟩, position := g.start, rate := s.timebase.rate
          shift := d.shift, holdover := g.holdover, shed := d.shed, overrun := d.overrun, aborted := false
          rosterLength := s.rate.roster.length, present := d.present, sections := channels.length
          cues := s.engine.cueCopy.length, length := 32 + body.length } ++ body⟩) ∧
    (∀ i, s.engine.state = .archive → s.engine.block = some i →
      let g := s.framer.buffer i
      let channels := ((List.finRange 64).filter fun t => s.framer.map[t].enabled).map Source.track ++
        if s.engine.includeMixes then [.bus 0, .bus 1, .bus 2, .bus 3] else []
      let body := cues g ++ sections g 0 channels
      s.codedRecord? = some ⟨.block, ⟨.archive, g.take, g.sequence⟩, Header.bytes
        { kind := .block, id := ⟨.archive, g.take, g.sequence⟩, position := g.start, rate := s.timebase.rate
          shift := 0, holdover := g.holdover, shed := false, overrun := false, aborted := false
          rosterLength := 0, present := 0, sections := channels.length
          cues := s.engine.cueCopy.length, length := 32 + body.length } ++ body⟩) ∧
    (∀ j, s.engine.state = .ending → s.engine.endJob = some j →
      let feed : Feed := if j.streamDone then .archive else .stream
      s.codedRecord? = some ⟨.ending, ⟨feed, s.take.number, s.take.sequence⟩, Header.bytes
        { kind := .ending, id := ⟨feed, s.take.number, s.take.sequence⟩, position := s.take.endPosition
          rate := s.timebase.rate, shift := 0, holdover := false, shed := false, overrun := false, aborted := j.aborted
          rosterLength := if j.streamDone then 0 else s.rate.roster.length
          present := 0, sections := 0, cues := 0, length := 32 }⟩) ∧
    (s.engine.state = .idle → s.codedRecord? = none)) ∧
  (∀ (g : GatherBuffer) (c : Source) (n : Nat), g.rows.length = n →
    g.channel c n = g.rows.map fun row => match c with
      | .track t => row.tracks[t]
      | .bus b => row.buses[b]) ∧
  (∀ s : State, s.resetHeld = false →
    s.store.archive.filling ≠ none ∨ s.store.stream.filling ≠ none ∨ s.codedRecord? = none →
    exec .recordPlacement s = .next s) ∧
  (∀ (s : State) (c : CodedRecord), s.resetHeld = false → s.store.archive.filling = none →
    s.store.stream.filling = none → s.codedRecord? = some c → pagesFor c.bytes.length ≤ (s.region c.id.feed).free →
    let r := s.region c.id.feed
    let base := match c.id.feed with
      | .archive => 0
      | .stream => s.store.archive.size
    exec .recordPlacement s = .next (s.setRegion c.id.feed { r with
      filling := some ⟨c.id, c.kind, c.bytes, (c.bytes.length + 4095) / 4096, r.writePoint, .filling,
        ⟨false, false, false⟩⟩
      writePoint := base + (r.writePoint - base + (c.bytes.length + 4095) / 4096) % r.size })) ∧
  (∀ (s : State) (c : CodedRecord), s.resetHeld = false → s.store.archive.filling = none →
    s.store.stream.filling = none → s.codedRecord? = some c →
    let f := c.id.feed
    let pages := (c.bytes.length + 4095) / 4096
    exec .recordPlacement s = .next (s.place c.kind c.id c.bytes) ∧
    (pages ≤ (s.region f).size → ∃ n,
      let removed := fun m => (fun x : State => x.removeHead f)^[m] s
      let r := (removed n).region f
      let base := match f with
        | .archive => 0
        | .stream => s.store.archive.size
      (∀ m, m < n → ((removed m).region f).free < pages) ∧ pages ≤ r.free ∧
      s.place c.kind c.id c.bytes = (removed n).setRegion f { r with
        filling := some ⟨c.id, c.kind, c.bytes, pages, r.writePoint, .filling, ⟨false, false, false⟩⟩
        writePoint := base + (r.writePoint - base + pages) % r.size })) ∧
  (∀ r : Region, r.free = r.size - ((r.ring.map Record.pages).sum + match r.filling with
    | some x => x.pages
    | none => 0)) ∧
  (∀ (s : State) (kind : RecordKind) (id : RecordId) (bytes : List Byte), bytes ≠ [] →
    (s.region id.feed).filling = none → pagesFor bytes.length ≤ (s.region id.feed).size →
    let after := (s.place kind id bytes).region id.feed
    after.used ≤ after.size ∧ after.size = (s.region id.feed).size ∧ after.ring <:+ (s.region id.feed).ring ∧
    after.filling.map (fun x => (x.id, x.bytes)) = some (id, bytes) ∧
    (pagesFor bytes.length ≤ (s.region id.feed).free → after.ring = (s.region id.feed).ring)) ∧
  ∀ (s : State) (f : Feed) (h : Record) (rest : List Record) (p : Port), (s.region f).ring = h :: rest →
    (h.holders.get p = false → (s.removeHead f).feed p = s.feed p ∧ (s.removeHead f).port p = s.port p) ∧
    (h.holders.get p = true →
      (s.removeHead f).port p = (s.port p).raise .lagged ∧
      (s.removeHead f).feed p = { s.feed p with
        lost := min ((s.feed p).lost + 1) 65535
        lastTaken := some h.id
        cursor := rest.head?.map Record.id
        transfer := (s.feed p).transfer.map fun x =>
          if x.id = h.id ∧ x.reached < x.size then { x with cut := true } else x }) ∧
    (s.removeHead f).store = s.store.setRegion f { s.region f with
      ring := rest.dropWhile fun r => decide (r.state = .spent) } ∧
    s.removeHead f = { s with
      store := (s.removeHead f).store, feeds := (s.removeHead f).feeds, ports := (s.removeHead f).ports }

/-- R38, R40, R57, R77, R78, R80, R119, R121 to R124: RECORD_PUBLICATION publishes the record being written
(`Publishes`): told to each subscriber, a port that waits in NEXT answered with it, REC_READY at every armed one,
waiting or not; and the engine goes on. After a block's stream record comes its archive record. After the archive record
the buffer is FREE, no block is in coding, the cue copy is empty, and the END records are requested if the take is
CLOSING and gathers nothing, ABORTED by the end request of that moment. After the stream END comes the archive END, and
after that the take is IDLE with the end request none, with TAKE_CHANGE at every port. (Choices of the model: log 19.)
-/
def Obligations.RecordsArePublished : Prop :=
  ∀ (s : State) (r : Record), s.resetHeld = false → s.store.stream.filling = (if r.id.feed = .stream then some r else none) →
    (r.id.feed = .archive → s.store.archive.filling = some r) →
    ∃ v, s.Publishes v r ∧
    (s.engine.state = .stream → r.id.feed = .stream →
      exec .recordPublication s = .next { v with engine := { s.engine with state := .archive } }) ∧
    (∀ i, s.engine.state = .archive → s.engine.block = some i → r.id.feed = .archive →
      let done := { s.engine with state := .idle, block := none, archiveQueued := false, cueCopy := [] }
      let freed := s.framer.setBuffer i { s.framer.buffer i with state := .free }
      (s.take.state = .closing ∧ s.take.gathering = false →
        exec .recordPublication s = .next { v with
          framer := freed
          engine := { done with state := .ending, endJob := some ⟨decide (s.take.endRequest = .abort), false⟩ } }) ∧
      (¬ (s.take.state = .closing ∧ s.take.gathering = false) →
        exec .recordPublication s = .next { v with framer := freed, engine := done })) ∧
    (∀ j, s.engine.state = .ending → s.engine.endJob = some j →
      (r.id.feed = .stream → exec .recordPublication s = .next { v with
        engine := { s.engine with endJob := some { j with streamDone := true } } }) ∧
      (r.id.feed = .archive → s.take.state = .closing → exec .recordPublication s = .next { v with
        engine := { s.engine with state := .idle, endJob := none }
        take := { s.take with state := .idle, gathering := false, endRequest := .none }
        ports := v.portsRaised .takeChange }))

/-- R41, R111, R112, R123, R163: STORE_SETUP: BUSY in a take; in IDLE RANGE for sizes outside their limits; the present
sizes change nothing else; other sizes empty both regions, and each port that held records loses them all with LAGGED: its
last taken is the newest it held, its cursor empty, and a transfer of one of them is cut unless its last byte was sent.
CONFIG_CHANGE goes to the other two ports. (Choices of the model: log 19.) -/
def Obligations.StoreSetupReformsTheRegions : Prop :=
  ∀ (s : State) (p : Port) (clocks : List Lanes) (e : PortState) (a b c d : Byte),
    s.commandAt p clocks .storeSetup [a, b, c, d] e →
    let ra := numberOf [a, b]
    let rs := numberOf [c, d]
    (s.take.state ≠ .idle →
      exec (.storeSetup p clocks) s = .next { s with ports := s.portsAfter p (e.holds .busy []) id }) ∧
    (s.take.state = .idle → ra < 64 ∨ rs < 16 ∨ 2048 < ra + rs →
      exec (.storeSetup p clocks) s = .next { s with ports := s.portsAfter p (e.holds .range []) id }) ∧
    (s.take.state = .idle → 64 ≤ ra → 16 ≤ rs → ra + rs ≤ 2048 →
      (ra = s.store.archive.size → rs = s.store.stream.size →
        exec (.storeSetup p clocks) s = .next { s with
          ports := s.portsAfter p (e.holds .ok [a, b, c, d]) fun q => q.raise .configChange }) ∧
      (ra ≠ s.store.archive.size ∨ rs ≠ s.store.stream.size →
        ∃ u, exec (.storeSetup p clocks) s = .next u ∧
          u = { s with
            store := ⟨⟨ra, [], none, 0, s.store.archive.lastPublished⟩, ⟨rs, [], none, ra, s.store.stream.lastPublished⟩⟩
            feeds := u.feeds, ports := u.ports } ∧
          (u.port p).response = some ⟨.ok, .bytes [a, b, c, d]⟩ ∧
          ∀ q, (q ≠ p → (u.port q).events.getLsbD (eventBit .configChange) = true) ∧
            let held := s.heldCount q
            let records := (s.store.archive.ring ++ s.store.stream.ring).filter fun x => x.holders.get q
            held = records.length ∧ (held = 0 → u.feed q = s.feed q) ∧
            (held ≠ 0 →
              (u.feed q).cursor = none ∧ (u.feed q).lost = min ((s.feed q).lost + held) 65535 ∧
              (u.feed q).subscription = (s.feed q).subscription ∧ (u.feed q).arming = (s.feed q).arming ∧
              (u.feed q).wait = (s.feed q).wait ∧ (u.feed q).lastTaken = records.getLast?.map Record.id ∧
              (u.feed q).transfer = (s.feed q).transfer.map (fun x =>
                if x.id ∈ records.map Record.id ∧ x.reached < x.size then { x with cut := true } else x) ∧
              (u.port q).events.getLsbD (eventBit .lagged) = true)))

/-- R120: SUBSCRIBE and UNSUBSCRIBE: STATE when the port has a subscription, or has none; RANGE for no feed; else the
feed state is set as the rule lists it, records already stored are not given, and an unsubscribing port leaves the
holder set of every record: records without holders are SPENT, those at the head leave in one cascade (R117), and records
that other ports hold stay. (Choices of the model: log 19.) -/
def Obligations.SubscriptionsBeginAndEnd : Prop :=
  (∀ (s : State) (p : Port) (clocks : List Lanes) (e : PortState) (a : Byte), s.commandAt p clocks .subscribe [a] e →
    ((s.feed p).subscription ≠ none →
      exec (.subscribe p clocks) s = .next { s with ports := s.portsAfter p (e.holds .state []) id }) ∧
    ((s.feed p).subscription = none → (a.toNat = 0 ∨ 2 < a.toNat) →
      exec (.subscribe p clocks) s = .next { s with ports := s.portsAfter p (e.holds .range []) id }) ∧
    (∀ f, (s.feed p).subscription = none → a.toNat = feedCode f →
      exec (.subscribe p clocks) s = .next { s with
        feeds := s.feeds.set p { s.feed p with
          subscription := some f, cursor := none, lost := 0, lastTaken := (s.region f).lastPublished, arming := true }
        ports := s.portsAfter p (e.holds .ok []) id })) ∧
  (∀ (s : State) (p : Port) (clocks : List Lanes) (e : PortState), s.commandAt p clocks .unsubscribe [] e →
    ((s.feed p).subscription = none →
      exec (.unsubscribe p clocks) s = .next { s with ports := s.portsAfter p (e.holds .state []) id }) ∧
    ((s.feed p).subscription ≠ none →
      ∃ u, exec (.unsubscribe p clocks) s = .next u ∧
        u = { s with
          store := u.store
          feeds := s.feeds.set p { s.feed p with
            subscription := none, cursor := none, lost := 0, lastTaken := none, arming := false }
          ports := s.portsAfter p (e.holds .ok (bytesOf 2 (s.heldCount p) ++ bytesOf 2 (s.feed p).lost)) id } ∧
        (∀ f, ∀ x ∈ (u.region f).ring, x.holders.get p = false ∧
          ∃ y ∈ (s.region f).ring, x.id = y.id ∧ x.bytes = y.bytes ∧ ∀ q, q ≠ p → x.holders.get q = y.holders.get q) ∧
        (∀ f, u.region f = { s.region f with
          ring := ((s.region f).ring.map fun r => if r.holders.get p then r.leave p else r).dropWhile
            fun r => decide (r.state = .spent) }) ∧
        (∀ f, (s.region f).Sound → ∀ y ∈ (s.region f).ring, ∀ q, q ≠ p → y.holders.get q = true →
          ∃ x ∈ (u.region f).ring, x.id = y.id ∧ x.state = .held ∧ x.holders.get q = true)))

/-- R121, R122, R124, R146, R31: NEXT: STATE without a subscription; else the arming flag is set, and the cursor record,
NONE for no wait, or a wait of at most 15 boundaries follows. The answer's Z is the length of the record of that identity
in its feed's region. Every answer reports the lost count and zeroes it.
(Choices of the model: log 19.) -/
def Obligations.NextFetchesTheCursor : Prop :=
  ∀ (s : State) (p : Port) (clocks : List Lanes) (e : PortState) (w : Byte), s.commandAt p clocks .next [w] e →
    let answered := fun q : PortState => s.portsAfter p q id
    ((s.feed p).subscription = none →
      exec (.next p clocks) s = .next { s with ports := answered (e.holds .state []) }) ∧
    (∀ f id, (s.feed p).subscription = some f → (s.feed p).cursor = some id →
      exec (.next p clocks) s = .next { s with
        feeds := s.feeds.set p { s.feed p with
          arming := true, lost := 0, wait := none, transfer := some ⟨id, s.storedSize id, 0, false⟩ }
        ports := answered { e with
          phase := .responseReady, readyHigh := true, sent := 0, rx := ReceiveBuffer.empty
          response := some ⟨.ok, .record (s.feed p).lost id (s.storedSize id)⟩ } }) ∧
    (∀ f (before after : List Record) (r : Record), (s.feed p).subscription = some f →
      (s.feed p).cursor = some r.id → (s.region r.id.feed).ring = before ++ r :: after →
      (∀ x ∈ before, x.id ≠ r.id) →
      exec (.next p clocks) s = .next { s with
        feeds := s.feeds.set p { s.feed p with
          arming := true, lost := 0, wait := none, transfer := some ⟨r.id, r.bytes.length, 0, false⟩ }
        ports := answered { e with
          phase := .responseReady, readyHigh := true, sent := 0, rx := ReceiveBuffer.empty
          response := some ⟨.ok, .record (s.feed p).lost r.id r.bytes.length⟩ } }) ∧
    (∀ f, (s.feed p).subscription = some f → (s.feed p).cursor = none →
      (w = 0 ∨ s.timebase.position = lastPosition →
        exec (.next p clocks) s = .next { s with
          feeds := s.feeds.set p { s.feed p with arming := true, lost := 0 }
          ports := answered (e.holds .none (bytesOf 2 (s.feed p).lost)) }) ∧
      (w ≠ 0 → s.timebase.position ≠ lastPosition →
        exec (.next p clocks) s = .next { s with
          feeds := s.feeds.set p { s.feed p with arming := true, wait := some (min w.toNat 15) }
          ports := answered { e with phase := .waiting, readyHigh := false, rx := ReceiveBuffer.empty } }))

/-- R113: of two identities of a feed the earlier is that of the lower sequence in one take, and of two takes the one whose
number the other follows by 1 to 32 767 in 1, 2, …, 65535, 1, …; of two different takes exactly one is earlier. R125,
R117: RELEASE, case by case: STATE, RANGE, the cursor record released, GONE for an identity earlier than the cursor or
not later than the last taken, RANGE for a later one. A released record leaves the port's holdings; GONE and RANGE change
nothing. (Choices of the model: log 19.) -/
def Obligations.ReleaseNamesTheCursor : Prop :=
  (∀ a b : RecordId, 1 ≤ a.take → a.take ≤ 65535 → 1 ≤ b.take → b.take ≤ 65535 →
    (a.take = b.take → (a.earlier b = true ↔ a.sequence < b.sequence)) ∧
    (a.take ≠ b.take →
      (a.earlier b = true ↔ ∃ k, 1 ≤ k ∧ k ≤ 32767 ∧ b.take = (a.take - 1 + k) % 65535 + 1) ∧
      b.earlier a = !a.earlier b)) ∧
  ∀ (s : State) (p : Port) (clocks : List Lanes) (e : PortState) (a b c d g : Byte),
    s.commandAt p clocks .release [a, b, c, d, g] e →
    let answered := fun st => s.portsAfter p (e.holds st []) id
    let answer := fun st => Host.Outcome.next (φ := Fault) (ρ := Refusal) { s with ports := answered st }
    ((s.feed p).subscription = none → exec (.release p clocks) s = answer .state) ∧
    (∀ f, (s.feed p).subscription = some f →
      let id : RecordId := ⟨f, numberOf [b, c], numberOf [d, g]⟩
      (a.toNat ≠ feedCode f ∨ id.take = 0 → exec (.release p clocks) s = answer .range) ∧
      (a.toNat = feedCode f → id.take ≠ 0 →
        ((s.feed p).cursor = some id →
          ∃ u, exec (.release p clocks) s = .next u ∧
            u = { s with
              store := s.store.setRegion f { s.region f with ring := (u.region f).ring }
              feeds := s.feeds.set p { s.feed p with
                cursor := recordAfter id (s.region f).ring, lastTaken := some id }
              ports := answered .ok } ∧
            (u.region f).ring = ((s.region f).ring.map fun r => if r.id = id then r.leave p else r).dropWhile
              (fun r => decide (r.state = .spent)) ∧
            ∀ x ∈ (u.region f).ring, x.id = id → x.holders.get p = false) ∧
        (∀ cur, (s.feed p).cursor = some cur → cur ≠ id →
          exec (.release p clocks) s = answer (if id.earlier cur then .gone else .range)) ∧
        ((s.feed p).cursor = none → (s.feed p).lastTaken = none → exec (.release p clocks) s = answer .range) ∧
        (∀ last, (s.feed p).cursor = none → (s.feed p).lastTaken = some last →
          exec (.release p clocks) s = answer (if id = last ∨ id.earlier last then .gone else .range))))

/-! ### Cue list (08) -/

/-- R130 to R134: CUE_ADD: RANGE for a kind, a position mode or a label that is none; FULL at 128 entries; else the cue
stands in its place in the list with the first id that no entry holds, searching from the counter upward with 65535
followed by 1, within 129 steps; the counter becomes the id after it; CUE_CHANGE goes to the other two ports, and the
answer gives the id, the position used, the place and the number of entries; OK_LATE says that the position lies before
the block being gathered, or before the end position of a take that gathers no more. (Choices of the model: log 19.) -/
def Obligations.CueAddInsertsInOrder : Prop :=
  ∀ (s : State) (p : Port) (clocks : List Lanes) (e : PortState) (kind mode a b c d f g len : Byte) (label : List Byte),
    s.commandAt p clocks .cueAdd (kind :: mode :: a :: b :: c :: d :: f :: g :: len :: label) e →
    len.toNat = label.length → len.toNat ≤ 241 →
    (2 < kind.toNat ∨ 1 < mode.toNat ∨ 10 < label.length ∨ (∃ x ∈ label, x.toNat < 32 ∨ 126 < x.toNat) →
      exec (.cueAdd p clocks) s = .next { s with ports := s.portsAfter p (e.holds .range []) id }) ∧
    (kind.toNat ≤ 2 → mode.toNat ≤ 1 → label.length ≤ 10 → (∀ x ∈ label, 32 ≤ x.toNat ∧ x.toNat ≤ 126) →
      (128 ≤ s.cues.entries.length →
        exec (.cueAdd p clocks) s = .next { s with ports := s.portsAfter p (e.holds .full []) id }) ∧
      (s.cues.entries.length < 128 → s.cues.Sound →
        let position := if mode.toNat = 0 then s.timebase.position else numberOf [a, b, c, d, f, g]
        let late := (∃ i, (s.take.state = .rolling ∨ s.take.state = .closing) ∧ s.take.gathering = true ∧
            s.framer.filling? = some i ∧ position < (s.framer.buffer i).start) ∨
          (s.take.state = .closing ∧ s.take.gathering = false ∧ position < s.take.endPosition)
        ∃ (cue : Cue) (before after : List Cue) (status : Status),
          cueKindCode cue.kind = kind.toNat ∧ cue.position = position ∧ cue.label = label ∧ cue.origin = .port p ∧
          (∀ x ∈ s.cues.entries, x.id ≠ cue.id) ∧
          ((∀ x ∈ s.cues.entries, x.id ≠ s.cues.nextId) → cue.id = s.cues.nextId) ∧
          (∃ n, n < 129 ∧ cue.id = (s.cues.nextId - 1 + n) % 65535 + 1 ∧
            ∀ m, m < n → ∃ x ∈ s.cues.entries, x.id = (s.cues.nextId - 1 + m) % 65535 + 1) ∧
          s.cues.entries = before ++ after ∧ (∀ x ∈ before, cueBefore x cue = true) ∧
          (∀ x ∈ after, cueBefore cue x = true) ∧
          ((late ∧ status = .okLate) ∨ (¬ late ∧ status = .ok)) ∧
          exec (.cueAdd p clocks) s = .next { s with
            cues := { s.cues with
              entries := before ++ cue :: after, nextId := if cue.id < 65535 then cue.id + 1 else 1 }
            ports := s.portsAfter p
              (e.holds status (bytesOf 2 cue.id ++ positionBytes position ++ bytesOf 1 before.length ++
                bytesOf 1 (s.cues.entries.length + 1)))
              fun q => q.raise .cueChange }))

/-- R135 to R138: CUE_DELETE: RANGE for id 0, NOT_FOUND, or the entry leaves the list. CUE_LIST: RANGE, or the entries
asked for, twenty bytes each. A FAULT request becomes the part's own cue in its place in the list, with the first id
that no entry holds, searching from the counter upward with 65535 followed by 1, within 129 steps, and with CUE_CHANGE
at every port, or is dropped at a full list. (Choices of the model: logs 2, 19, 32.) -/
def Obligations.CueListIsKept : Prop :=
  (∀ (s : State) (p : Port) (clocks : List Lanes) (e : PortState) (hi lo : Byte),
    s.commandAt p clocks .cueDelete [hi, lo] e →
    let id := numberOf [hi, lo]
    let rest := s.cues.entries.filter fun c => decide (c.id ≠ id)
    (id = 0 → exec (.cueDelete p clocks) s = .next { s with ports := s.portsAfter p (e.holds .range []) fun q => q }) ∧
    (id ≠ 0 → (∀ c ∈ s.cues.entries, c.id ≠ id) →
      exec (.cueDelete p clocks) s = .next { s with ports := s.portsAfter p (e.holds .notFound []) fun q => q }) ∧
    (id ≠ 0 → (∃ c ∈ s.cues.entries, c.id = id) → exec (.cueDelete p clocks) s = .next { s with
      cues := { s.cues with entries := rest }
      ports := s.portsAfter p (e.holds .ok (bytesOf 1 rest.length)) fun q => q.raise .cueChange })) ∧
  (∀ (s : State) (p : Port) (clocks : List Lanes) (e : PortState) (start count : Byte),
    s.commandAt p clocks .cueList [start, count] e →
    (127 < start.toNat ∨ count.toNat = 0 ∨ 128 < count.toNat →
      exec (.cueList p clocks) s = .next { s with ports := s.portsAfter p (e.holds .range []) id }) ∧
    (start.toNat ≤ 127 → 1 ≤ count.toNat → count.toNat ≤ 128 →
      let listed := (s.cues.entries.drop start.toNat).take count.toNat
      let entry := fun c : Cue => bytesOf 2 c.id ++ positionBytes c.position ++
        bytesOf 1 (16 * cueKindCode c.kind + originCode c.origin) ++ bytesOf 1 c.label.length ++
        (c.label ++ List.replicate (10 - c.label.length) 0).take 10
      (∀ c, (entry c).length = 20) ∧
      exec (.cueList p clocks) s = .next { s with
        ports := s.portsAfter p (e.holds .ok (bytesOf 1 s.cues.entries.length ++ listed.flatMap entry)) id })) ∧
  ∀ s : State, s.resetHeld = false →
    (s.cues.requests = [] → exec .faultRequestTaken s = .next s) ∧
    (∀ r rest, s.cues.requests = r :: rest →
      (128 ≤ s.cues.entries.length →
        exec .faultRequestTaken s = .next { s with cues := { s.cues with requests := rest } }) ∧
      (s.cues.entries.length < 128 → s.cues.Sound →
        ∃ (cue : Cue) (before after : List Cue),
          cue.kind = .fault ∧ cue.position = r.position ∧ cue.label = r.label ∧ cue.origin = .part ∧
          (∀ x ∈ s.cues.entries, x.id ≠ cue.id) ∧
          (∃ n, n < 129 ∧ cue.id = (s.cues.nextId - 1 + n) % 65535 + 1 ∧
            ∀ m, m < n → ∃ x ∈ s.cues.entries, x.id = (s.cues.nextId - 1 + m) % 65535 + 1) ∧
          s.cues.entries = before ++ after ∧
          (∀ x ∈ before, cueBefore x cue = true) ∧ (∀ x ∈ after, cueBefore cue x = true) ∧
          exec .faultRequestTaken s = .next { s with
            cues := ⟨before ++ cue :: after, if cue.id < 65535 then cue.id + 1 else 1, rest⟩
            ports := s.portsRaised .cueChange }))
end

