-- ==== Sys2Proof/Laws/Bytes.lean ====
section
/-! SUPPORT. Bytes, bits and codes: what is written is read back, and how long it is. -/

namespace Sys2Proof.Machine

/-! ### Numbers as bytes -/

@[simp] theorem length_bytesOf (k n : Nat) : (bytesOf k n).length = k := by
  induction k with
  | zero => rfl
  | succ k ih => simp [bytesOf, ih]

/-- A number read on from some bytes. -/
theorem numberOf_append (a b : List Byte) : numberOf (a ++ b) = numberOf a * 256 ^ b.length + numberOf b := by
  have shift : ∀ (l : List Byte) (m : Nat),
      l.foldl (fun n b => n * 256 + b.toNat) m = m * 256 ^ l.length + l.foldl (fun n b => n * 256 + b.toNat) 0 := by
    intro l
    induction l with
    | nil => simp
    | cons x xs ih =>
      intro m
      simp only [List.foldl_cons, List.length_cons]
      rw [ih, ih (0 * 256 + x.toNat)]
      ring
  simp only [numberOf, List.foldl_append]
  exact shift _ _

theorem numberOf_cons (b : Byte) (bs : List Byte) : numberOf (b :: bs) = b.toNat * 256 ^ bs.length + numberOf bs := by
  have := numberOf_append [b] bs
  simpa [numberOf] using this

theorem numberOf_lt (bs : List Byte) : numberOf bs < 256 ^ bs.length := by
  induction bs with
  | nil => simp [numberOf]
  | cons b bs ih =>
    rw [numberOf_cons, List.length_cons, pow_succ]
    have := b.isLt
    nlinarith

/-- 00 §4: the low `k` bytes of a number read back. -/
theorem numberOf_bytesOf (k n : Nat) : numberOf (bytesOf k n) = n % 256 ^ k := by
  induction k with
  | zero => simp [bytesOf, numberOf, Nat.mod_one]
  | succ k ih =>
    rw [bytesOf, numberOf_cons, ih, length_bytesOf]
    have h := Nat.mod_mul (x := n) (a := 256 ^ k) (b := 256)
    rw [pow_succ, h, BitVec.toNat_ofNat]
    ring

theorem numberOf_bytesOf_of_lt {k n : Nat} (h : n < 256 ^ k) : numberOf (bytesOf k n) = n := by
  rw [numberOf_bytesOf, Nat.mod_eq_of_lt h]

/-- 00 §4: the bytes of the number some bytes make are those bytes. -/
theorem bytesOf_numberOf (bs : List Byte) : bytesOf bs.length (numberOf bs) = bs := by
  induction bs with
  | nil => rfl
  | cons b bs ih =>
    have hlt := numberOf_lt bs
    have low : ∀ (k m n : Nat), bytesOf k (m * 256 ^ k + n) = bytesOf k n := by
      intro k
      induction k with
      | zero => intros; rfl
      | succ k ihk =>
        intro m n
        have e : m * 256 ^ (k + 1) + n = (m * 256) * 256 ^ k + n := by ring
        rw [bytesOf, bytesOf, e, ihk, Nat.add_comm, Nat.add_mul_div_right _ _ (by positivity)]
        congr 1
        apply BitVec.eq_of_toNat_eq
        simp [Nat.add_mod]
    rw [List.length_cons, numberOf_cons, bytesOf, low, ih]
    congr 1
    rw [Nat.add_comm, Nat.add_mul_div_right _ _ (by positivity), Nat.div_eq_of_lt hlt]
    simp

@[simp] theorem bytesOf_one (b : Byte) : bytesOf 1 b.toNat = [b] := by simp [bytesOf]

/-- R31: a position below 2^48 as its six bytes. -/
theorem positionBytes_of_lt {p : Nat} (h : p < 2 ^ 48) : positionBytes p = bytesOf 6 p := by
  simp only [positionBytes, if_pos h]

@[simp] theorem length_positionBytes (p : Nat) : (positionBytes p).length = 6 := by
  unfold positionBytes; split <;> simp

/-! ### Numbers as bits -/

@[simp] theorem length_bitsOf (w n : Nat) : (bitsOf w n).length = w := by
  induction w with
  | zero => rfl
  | succ w ih => simp [bitsOf, ih]

@[simp] theorem length_signedBits (w : Nat) (x : Int) : (signedBits w x).length = w := by simp [signedBits]

theorem numberOfBits_append (a b : List Bool) :
    numberOfBits (a ++ b) = numberOfBits a * 2 ^ b.length + numberOfBits b := by
  have shift : ∀ (l : List Bool) (m : Nat),
      l.foldl (fun n b => 2 * n + b.toNat) m = m * 2 ^ l.length + l.foldl (fun n b => 2 * n + b.toNat) 0 := by
    intro l
    induction l with
    | nil => simp
    | cons x xs ih =>
      intro m
      simp only [List.foldl_cons, List.length_cons]
      rw [ih, ih (2 * 0 + x.toNat)]
      ring
  simp only [numberOfBits, List.foldl_append]
  exact shift _ _

/-- The low `w` bits of a number read back. -/
theorem numberOfBits_bitsOf (w n : Nat) : numberOfBits (bitsOf w n) = n % 2 ^ w := by
  induction w with
  | zero => simp [bitsOf, numberOfBits, Nat.mod_one]
  | succ w ih =>
    have h := numberOfBits_append [n.testBit w] (bitsOf w n)
    rw [List.singleton_append] at h
    rw [bitsOf, h, ih, length_bitsOf, pow_succ, Nat.mod_mul, Nat.testBit_eq_decide_div_mod_eq]
    have : (n / 2 ^ w) % 2 = 0 ∨ (n / 2 ^ w) % 2 = 1 := by omega
    rcases this with h0 | h0 <;> simp [numberOfBits, h0, Nat.add_comm]

theorem numberOfBits_bitsOf_of_lt {w n : Nat} (h : n < 2 ^ w) : numberOfBits (bitsOf w n) = n := by
  rw [numberOfBits_bitsOf, Nat.mod_eq_of_lt h]

/-- The number of some bits is below the power of two of their count. -/
theorem numberOfBits_lt (bs : List Bool) : numberOfBits bs < 2 ^ bs.length := by
  induction bs with
  | nil => simp [numberOfBits]
  | cons b bs ih =>
    have h := numberOfBits_append [b] bs
    rw [List.singleton_append] at h
    have hb : numberOfBits [b] ≤ 1 := by cases b <;> decide
    rw [h, List.length_cons, pow_succ]
    nlinarith [Nat.mul_le_mul_right (2 ^ bs.length) hb]

/-- Bits read as a number and written again are those bits. -/
theorem bitsOf_numberOfBits (bs : List Bool) : bitsOf bs.length (numberOfBits bs) = bs := by
  induction bs with
  | nil => rfl
  | cons b bs ih =>
    have low : ∀ (w m n : Nat), bitsOf w (m * 2 ^ w + n) = bitsOf w n := by
      intro w
      induction w with
      | zero => intros; rfl
      | succ w ihw =>
        intro m n
        have e : m * 2 ^ (w + 1) + n = (m * 2) * 2 ^ w + n := by ring
        have hb : (m * 2 ^ (w + 1) + n).testBit w = n.testBit w := by
          rw [e, Nat.testBit_eq_decide_div_mod_eq, Nat.testBit_eq_decide_div_mod_eq, Nat.add_comm,
            Nat.add_mul_div_right _ _ (by positivity), Nat.add_mul_mod_self_right]
        rw [bitsOf, bitsOf, hb, e, ihw]
    have h := numberOfBits_append [b] bs
    rw [List.singleton_append] at h
    rw [List.length_cons, h, bitsOf, low, ih, Nat.testBit_eq_decide_div_mod_eq, Nat.add_comm,
      Nat.add_mul_div_right _ _ (by positivity), Nat.div_eq_of_lt (numberOfBits_lt bs)]
    cases b <;> simp [numberOfBits]

/-- R162: in words of `w` bits laid one after another, word `n` is found at bit `n * w`. -/
theorem take_drop_flatMap {α : Type} {w : Nat} {g : α → List Bool} (hg : ∀ x, (g x).length = w) (xs : List α) (rest : List Bool)
    (n : Nat) (h : n < xs.length) : ((xs.flatMap g ++ rest).drop (n * w)).take w = g xs[n] := by
  induction xs generalizing n with
  | nil => simp at h
  | cons x xs ih =>
    cases n with
    | zero => simp [hg]
    | succ n =>
      have := ih n (by simpa using h)
      rw [List.flatMap_cons, List.append_assoc, List.drop_append, List.drop_eq_nil_of_le (by rw [hg]; nlinarith), hg,
        show (n + 1) * w - w = n * w by rw [Nat.add_mul]; omega]
      simpa using this

/-- R162: a number within the two's-complement range of `w` bits reads back from its bits. -/
theorem toInt_signedBits {w : Nat} {y : Int} (hw : 1 ≤ w) (h1 : -(2 ^ (w - 1)) ≤ y) (h2 : y < 2 ^ (w - 1)) :
    (BitVec.ofNat w (numberOfBits (signedBits w y))).toInt = y := by
  rw [signedBits, numberOfBits_bitsOf_of_lt (BitVec.isLt _)]
  simp only [BitVec.ofNat_toNat, BitVec.setWidth_eq, BitVec.toInt_ofInt]
  have h3 : (2 : Int) ^ w = 2 * 2 ^ (w - 1) := by rw [← pow_succ']; congr 1; omega
  have h4 : ((2 ^ w : Nat) : Int) = 2 * 2 ^ (w - 1) := by push_cast; exact h3
  exact Int.bmod_eq_of_le (by omega) (by omega)

/-- R92: bits packed into bytes take as many bytes as hold them. -/
theorem length_packBits (bs : List Bool) : (packBits bs).length = (bs.length + 7) / 8 := by
  fun_induction packBits bs with
  | case1 a b c d e f g h rest ih => simp [ih]; omega
  | case2 => rfl
  | case3 short h1 h2 =>
    have : short.length ≤ 7 := by
      rcases short with _ | ⟨a, _ | ⟨b, _ | ⟨c, _ | ⟨d, _ | ⟨e, _ | ⟨f, _ | ⟨g, _ | ⟨h, r⟩⟩⟩⟩⟩⟩⟩⟩ <;> simp
      exact (h1 _ _ _ _ _ _ _ _ _ rfl).elim
    have : 1 ≤ short.length := by
      rcases short with _ | ⟨a, r⟩
      · exact (h2 rfl).elim
      · simp
    simp; omega

/-- The eight bits of a byte made of eight bits. -/
theorem bitsOf_byte {l : List Bool} (h : l.length = 8) : bitsOf 8 (BitVec.ofNat 8 (numberOfBits l)).toNat = l := by
  have hl := numberOfBits_lt l
  have hb := bitsOf_numberOfBits l
  rw [h] at hl hb
  rw [BitVec.toNat_ofNat, Nat.mod_eq_of_lt hl, hb]

/-- R92, R162: the bits of packed bytes are the bits packed, and zeros to the end of the last byte. -/
theorem bitsOfBytes_packBits (bs : List Bool) :
    bitsOfBytes (packBits bs) = bs ++ List.replicate (8 * ((bs.length + 7) / 8) - bs.length) false := by
  have cons : ∀ (b : Byte) (l : List Byte), bitsOfBytes (b :: l) = bitsOf 8 b.toNat ++ bitsOfBytes l := by
    simp [bitsOfBytes]
  fun_induction packBits bs with
  | case1 a b c d e f g h rest ih =>
    rw [cons, bitsOf_byte rfl, ih]
    simp; omega
  | case2 => rfl
  | case3 short h1 h2 =>
    have : short.length ≤ 7 := by
      rcases short with _ | ⟨a, _ | ⟨b, _ | ⟨c, _ | ⟨d, _ | ⟨e, _ | ⟨f, _ | ⟨g, _ | ⟨h, r⟩⟩⟩⟩⟩⟩⟩⟩ <;> simp
      exact (h1 _ _ _ _ _ _ _ _ _ rfl).elim
    have : 1 ≤ short.length := by
      rcases short with _ | ⟨a, r⟩
      · exact (h2 rfl).elim
      · simp
    rw [cons, bitsOf_byte (by simp; omega)]
    simp [bitsOfBytes]; omega

/-! ### Codes of one byte (R163) -/

theorem byte_of_toNat_le_one {b : Byte} (h : b.toNat ≤ 1) : b = 0 ∨ b = 1 := by
  rcases Nat.lt_or_ge b.toNat 1 with h1 | h1
  · exact .inl (BitVec.eq_of_toNat_eq (by simp; omega))
  · exact .inr (BitVec.eq_of_toNat_eq (by simp; omega))

theorem flag?_zero : flag? 0 = some false := rfl

theorem flag?_one : flag? 1 = some true := rfl

theorem flag?_eq_none {b : Byte} (h : 1 < b.toNat) : flag? b = none := by
  simp only [flag?]; split <;> first | omega | rfl

theorem link?_eq_none {b : Byte} (h : 3 < b.toNat) : link? b = none := by
  simp only [link?, linkOfNumber?]; split <;> first | omega | rfl

theorem link?_eq_some {b : Byte} {l : LinkId} (h : b.toNat = linkNumber l) : link? b = some l := by
  simp only [link?, h]; cases l <;> rfl

theorem feed?_eq_none {b : Byte} (h : b.toNat = 0 ∨ 2 < b.toNat) : feed? b = none := by
  simp only [feed?]; split <;> first | omega | rfl

theorem feed?_eq_some {b : Byte} {f : Feed} : feed? b = some f ↔ b.toNat = feedCode f := by
  constructor
  · intro h
    simp only [feed?] at h
    split at h <;> cases h <;> simp_all [feedCode]
  · intro h; simp only [feed?, h]; cases f <;> rfl

theorem reference?_eq_some {b : Byte} {r : Reference} (h : b.toNat = referenceCode r) : reference? b = some r := by
  simp only [reference?, h]
  rcases r with _ | _ | l
  · rfl
  · rfl
  · cases l <;> rfl

theorem reference?_eq_none {b : Byte} (h : 5 < b.toNat) : reference? b = none := by
  simp only [reference?]
  split
  · omega
  · omega
  · next n hn =>
    have : 4 ≤ n := by omega
    simp only [linkOfNumber?]
    split <;> first | omega | rfl

theorem sessionRate?_eq_some {b : Byte} {r : SessionRate} (h : b.toNat = rateCode r) : sessionRate? b = some r := by
  simp only [sessionRate?, h]; cases r <;> rfl

theorem sessionRate?_eq_none {b : Byte} (h : 1 < b.toNat) : sessionRate? b = none := by
  simp only [sessionRate?]; split <;> first | omega | rfl

theorem source?_eq_none {b : Byte} (h : 67 < b.toNat) : source? b = none := by
  simp only [source?, dif_neg (show ¬ b.toNat < 64 by omega), dif_neg (show ¬ b.toNat - 64 < 4 by omega)]

theorem source?_sourceId {b : Byte} {c : Source} (h : b.toNat = sourceId c) : source? b = some c := by
  cases c with
  | track t =>
    have ht : b.toNat < 64 := by rw [h]; exact t.isLt
    simp only [source?, dif_pos ht]
    simp only [sourceId] at h
    congr
  | bus i =>
    have hb : b.toNat = 64 + i.val := h
    have h1 : ¬ b.toNat < 64 := by omega
    have h2 : b.toNat - 64 < 4 := by omega
    simp only [source?, dif_neg h1, dif_pos h2]
    have : (⟨b.toNat - 64, h2⟩ : Fin 4) = i := Fin.ext (by simp only; omega)
    rw [this]

theorem sourceId_injective : Function.Injective sourceId := by
  intro a b h
  cases a with
  | track t =>
    cases b with
    | track u => simp only [sourceId] at h; rw [Fin.ext h]
    | bus i => simp only [sourceId] at h; have := t.isLt; omega
  | bus i =>
    cases b with
    | track u => simp only [sourceId] at h; have := u.isLt; omega
    | bus j => simp only [sourceId] at h; rw [Fin.ext (show i.val = j.val by omega)]

end Sys2Proof.Machine
end

