-- ==== Sys2Proof/Laws/State.lean ====
section
/-! SUPPORT. The small lemmas of the state: reading what was written, and what each shared update leaves as it was. -/

namespace Sys2Proof.Machine

/-! ### One value of each port and link -/

@[simp] theorem PerPort.get_of {α : Type} (f : Port → α) (p : Port) : (PerPort.of f).get p = f p := by cases p <;> rfl

@[simp] theorem PerPort.of_get {α : Type} (v : PerPort α) : (PerPort.of fun p => v.get p) = v := rfl

theorem PerPort.get_set {α : Type} (v : PerPort α) (p q : Port) (a : α) :
    (v.set p a).get q = if q = p then a else v.get q := by cases p <;> cases q <;> rfl

@[simp] theorem PerPort.get_set_self {α : Type} (v : PerPort α) (p : Port) (a : α) : (v.set p a).get p = a := by
  cases p <;> rfl

theorem PerPort.get_set_ne {α : Type} (v : PerPort α) {p q : Port} (a : α) (h : q ≠ p) : (v.set p a).get q = v.get q := by
  rw [PerPort.get_set, if_neg h]

@[simp] theorem PerPort.set_set {α : Type} (v : PerPort α) (p : Port) (a b : α) : (v.set p a).set p b = v.set p b := by
  cases p <;> rfl

@[simp] theorem PerPort.set_get {α : Type} (v : PerPort α) (p : Port) : v.set p (v.get p) = v := by cases p <;> rfl

/-- Two tables with the same entry at every port are the same. -/
theorem PerPort.ext_get {α : Type} {v w : PerPort α} (h : ∀ p, v.get p = w.get p) : v = w := by
  cases v; cases w
  exact (PerPort.mk.injEq ..).mpr ⟨h .p0, h .p1, h .p2⟩

theorem PerLink.get_set {α : Type} (v : PerLink α) (l m : LinkId) (a : α) :
    (v.set l a).get m = if m = l then a else v.get m := by cases l <;> cases m <;> rfl

@[simp] theorem PerLink.get_set_self {α : Type} (v : PerLink α) (l : LinkId) (a : α) : (v.set l a).get l = a := by
  cases l <;> rfl

theorem PerLink.get_set_ne {α : Type} (v : PerLink α) {l m : LinkId} (a : α) (h : m ≠ l) :
    (v.set l a).get m = v.get m := by
  rw [PerLink.get_set, if_neg h]

@[simp] theorem PerLink.set_set {α : Type} (v : PerLink α) (l : LinkId) (a b : α) : (v.set l a).set l b = v.set l b := by
  cases l <;> rfl

@[simp] theorem PerLink.set_get {α : Type} (v : PerLink α) (l : LinkId) : v.set l (v.get l) = v := by cases l <;> rfl

/-- Two tables with the same entry at every link are the same. -/
theorem PerLink.ext_get {α : Type} {v w : PerLink α} (h : ∀ l, v.get l = w.get l) : v = w := by
  cases v; cases w
  exact (PerLink.mk.injEq ..).mpr ⟨h .l0, h .l1, h .l2, h .l3⟩

/-! ### Reading from a state written out field by field -/

@[simp] theorem State.ports_get (s : State) (p : Port) : s.ports.get p = s.port p := rfl

@[simp] theorem State.feeds_get (s : State) (p : Port) : s.feeds.get p = s.feed p := rfl

@[simp] theorem State.links_get (s : State) (l : LinkId) : s.links.get l = s.link l := rfl

@[simp] theorem State.store_region (s : State) (f : Feed) : s.store.region f = s.region f := rfl

@[simp] theorem State.port_mk (a : PerLink LinkRx) (b : Timebase) (c : Take) (d : Framer) (e : Mix) (f : Engine) (g : RateControl) (h : Store)
    (i : PerPort FeedState) (j : Cues) (k : PerPort PortState) (l : Nat) (m : Bool) (n : List Instr)
    (p : Port) : (State.mk a b c d e f g h i j k l m n).port p = k.get p := rfl

@[simp] theorem State.feed_mk (a : PerLink LinkRx) (b : Timebase) (c : Take) (d : Framer) (e : Mix) (f : Engine) (g : RateControl) (h : Store)
    (i : PerPort FeedState) (j : Cues) (k : PerPort PortState) (l : Nat) (m : Bool) (n : List Instr)
    (p : Port) : (State.mk a b c d e f g h i j k l m n).feed p = i.get p := rfl

@[simp] theorem State.link_mk (a : PerLink LinkRx) (b : Timebase) (c : Take) (d : Framer) (e : Mix) (f : Engine) (g : RateControl) (h : Store)
    (i : PerPort FeedState) (j : Cues) (k : PerPort PortState) (l : Nat) (m : Bool) (n : List Instr)
    (x : LinkId) : (State.mk a b c d e f g h i j k l m n).link x = a.get x := rfl

@[simp] theorem State.region_mk (a : PerLink LinkRx) (b : Timebase) (c : Take) (d : Framer) (e : Mix) (f : Engine) (g : RateControl) (h : Store)
    (i : PerPort FeedState) (j : Cues) (k : PerPort PortState) (l : Nat) (m : Bool) (n : List Instr)
    (x : Feed) : (State.mk a b c d e f g h i j k l m n).region x = h.region x := rfl

/-! ### Reading what was written -/

theorem State.port_setPort (s : State) (p q : Port) (x : PortState) :
    (s.setPort p x).port q = if q = p then x else s.port q := PerPort.get_set ..

@[simp] theorem State.port_setPort_self (s : State) (p : Port) (x : PortState) : (s.setPort p x).port p = x :=
  PerPort.get_set_self ..

theorem State.port_setPort_ne (s : State) {p q : Port} (x : PortState) (h : q ≠ p) :
    (s.setPort p x).port q = s.port q := PerPort.get_set_ne _ _ h

theorem State.feed_setFeed (s : State) (p q : Port) (x : FeedState) :
    (s.setFeed p x).feed q = if q = p then x else s.feed q := PerPort.get_set ..

@[simp] theorem State.feed_setFeed_self (s : State) (p : Port) (x : FeedState) : (s.setFeed p x).feed p = x :=
  PerPort.get_set_self ..

theorem State.feed_setFeed_ne (s : State) {p q : Port} (x : FeedState) (h : q ≠ p) :
    (s.setFeed p x).feed q = s.feed q := PerPort.get_set_ne _ _ h

theorem State.link_setLink (s : State) (l m : LinkId) (x : LinkRx) :
    (s.setLink l x).link m = if m = l then x else s.link m := PerLink.get_set ..

@[simp] theorem State.link_setLink_self (s : State) (l : LinkId) (x : LinkRx) : (s.setLink l x).link l = x :=
  PerLink.get_set_self ..

theorem State.link_setLink_ne (s : State) {l m : LinkId} (x : LinkRx) (h : m ≠ l) :
    (s.setLink l x).link m = s.link m := PerLink.get_set_ne _ _ h

@[simp] theorem State.region_setRegion_self (s : State) (f : Feed) (r : Region) : (s.setRegion f r).region f = r := by
  cases f <;> rfl

theorem State.region_setRegion_ne (s : State) {f g : Feed} (r : Region) (h : g ≠ f) :
    (s.setRegion f r).region g = s.region g := by cases f <;> cases g <;> first | rfl | exact absurd rfl h

@[simp] theorem Framer.buffer_setBuffer_self (fr : Framer) (i : BufferId) (g : GatherBuffer) :
    (fr.setBuffer i g).buffer i = g := by cases i <;> rfl

theorem Framer.buffer_setBuffer_ne (fr : Framer) {i j : BufferId} (g : GatherBuffer) (h : j ≠ i) :
    (fr.setBuffer i g).buffer j = fr.buffer j := by cases i <;> cases j <;> first | rfl | exact absurd rfl h

@[simp] theorem State.setPort_setPort (s : State) (p : Port) (x y : PortState) :
    (s.setPort p x).setPort p y = s.setPort p y := by simp [State.setPort]

@[simp] theorem State.setPort_port (s : State) (p : Port) : s.setPort p (s.port p) = s := by
  cases s; simp [State.setPort, State.port]

@[simp] theorem State.setFeed_setFeed (s : State) (p : Port) (x y : FeedState) :
    (s.setFeed p x).setFeed p y = s.setFeed p y := by simp [State.setFeed]

@[simp] theorem State.setLink_setLink (s : State) (l : LinkId) (x y : LinkRx) :
    (s.setLink l x).setLink l y = s.setLink l y := by simp [State.setLink]

@[simp] theorem State.setLink_link (s : State) (l : LinkId) : s.setLink l (s.link l) = s := by
  cases s; simp [State.setLink, State.link]

@[simp] theorem State.advance_now_eq (s : State) (t : Nat) : (s.advance t).now = max s.now t := rfl

/-! A read through an update of another part of the state. -/

@[simp] theorem State.setFeed_port (s : State) (p q : Port) (f : FeedState) : (s.setFeed p f).port q = s.port q := rfl
@[simp] theorem State.setPort_feed (s : State) (p q : Port) (x : PortState) : (s.setPort p x).feed q = s.feed q := rfl
@[simp] theorem State.setLink_port (s : State) (l : LinkId) (p : Port) (x : LinkRx) : (s.setLink l x).port p = s.port p := rfl
@[simp] theorem State.setLink_feed (s : State) (l : LinkId) (p : Port) (x : LinkRx) : (s.setLink l x).feed p = s.feed p := rfl
@[simp] theorem State.setPort_link (s : State) (l : LinkId) (p : Port) (x : PortState) : (s.setPort p x).link l = s.link l := rfl
@[simp] theorem State.setFeed_link (s : State) (l : LinkId) (p : Port) (x : FeedState) : (s.setFeed p x).link l = s.link l := rfl
@[simp] theorem State.setRegion_port (s : State) (f : Feed) (p : Port) (r : Region) : (s.setRegion f r).port p = s.port p := rfl
@[simp] theorem State.setRegion_feed (s : State) (f : Feed) (p : Port) (r : Region) : (s.setRegion f r).feed p = s.feed p := rfl
@[simp] theorem State.setPort_region (s : State) (f : Feed) (p : Port) (x : PortState) : (s.setPort p x).region f = s.region f := rfl
@[simp] theorem State.setFeed_region (s : State) (f : Feed) (p : Port) (x : FeedState) : (s.setFeed p x).region f = s.region f := rfl
@[simp] theorem State.setBuffer_port (s : State) (i : BufferId) (p : Port) (g : GatherBuffer) : (s.setBuffer i g).port p = s.port p := rfl
@[simp] theorem State.setBuffer_feed (s : State) (i : BufferId) (p : Port) (g : GatherBuffer) : (s.setBuffer i g).feed p = s.feed p := rfl
@[simp] theorem State.setBuffer_link (s : State) (i : BufferId) (l : LinkId) (g : GatherBuffer) : (s.setBuffer i g).link l = s.link l := rfl
@[simp] theorem State.advance_port (s : State) (t : Nat) (p : Port) : (s.advance t).port p = s.port p := rfl
@[simp] theorem State.advance_feed (s : State) (t : Nat) (p : Port) : (s.advance t).feed p = s.feed p := rfl
@[simp] theorem State.advance_link (s : State) (t : Nat) (l : LinkId) : (s.advance t).link l = s.link l := rfl
@[simp] theorem State.raiseAll_feed (s : State) (k : EventKind) (p : Port) : (s.raiseAll k).feed p = s.feed p := rfl
@[simp] theorem State.raiseAll_link (s : State) (k : EventKind) (l : LinkId) : (s.raiseAll k).link l = s.link l := rfl
@[simp] theorem State.raiseAll_region (s : State) (k : EventKind) (f : Feed) : (s.raiseAll k).region f = s.region f := rfl
@[simp] theorem State.raiseOthers_feed (s : State) (k : EventKind) (p q : Port) : (s.raiseOthers k p).feed q = s.feed q := rfl
@[simp] theorem State.raiseAt_feed (s : State) (k : EventKind) (p q : Port) : (s.raiseAt k p).feed q = s.feed q := rfl
@[simp] theorem State.raiseAt_link (s : State) (k : EventKind) (p : Port) (l : LinkId) : (s.raiseAt k p).link l = s.link l := rfl
@[simp] theorem State.raiseAt_region (s : State) (k : EventKind) (p : Port) (f : Feed) : (s.raiseAt k p).region f = s.region f := rfl

/-! ### Events at the ports -/

@[simp] theorem State.raiseAll_port (s : State) (k : EventKind) (p : Port) : (s.raiseAll k).port p = (s.port p).raise k := by
  cases p <;> rfl

theorem State.raiseAt_port (s : State) (k : EventKind) (p q : Port) :
    (s.raiseAt k p).port q = if q = p then (s.port q).raise k else s.port q := by
  unfold State.raiseAt
  rw [State.port_setPort]
  split
  · subst q; rfl
  · rfl

theorem State.raiseOthers_port (s : State) (k : EventKind) (p q : Port) :
    (s.raiseOthers k p).port q = if q = p then s.port q else (s.port q).raise k := by
  unfold State.raiseOthers
  cases q <;> rfl
@[simp] theorem PortState.raise_laneMode (q : PortState) (k : EventKind) : (q.raise k).laneMode = q.laneMode := rfl
@[simp] theorem PortState.raise_modeDue (q : PortState) (k : EventKind) : (q.raise k).modeDue = q.modeDue := rfl
@[simp] theorem PortState.raise_phase (q : PortState) (k : EventKind) : (q.raise k).phase = q.phase := rfl
@[simp] theorem PortState.raise_rx (q : PortState) (k : EventKind) : (q.raise k).rx = q.rx := rfl
@[simp] theorem PortState.raise_response (q : PortState) (k : EventKind) : (q.raise k).response = q.response := rfl
@[simp] theorem PortState.raise_sent (q : PortState) (k : EventKind) : (q.raise k).sent = q.sent := rfl
@[simp] theorem PortState.raise_inputDropped (q : PortState) (k : EventKind) : (q.raise k).inputDropped = q.inputDropped := rfl
@[simp] theorem PortState.raise_responseDiscarded (q : PortState) (k : EventKind) : (q.raise k).responseDiscarded = q.responseDiscarded := rfl
@[simp] theorem PortState.raise_restIgnored (q : PortState) (k : EventKind) : (q.raise k).restIgnored = q.restIgnored := rfl
@[simp] theorem PortState.raise_mask (q : PortState) (k : EventKind) : (q.raise k).mask = q.mask := rfl
@[simp] theorem PortState.raise_readyHigh (q : PortState) (k : EventKind) : (q.raise k).readyHigh = q.readyHigh := rfl
@[simp] theorem PortState.raise_clocks (q : PortState) (k : EventKind) : (q.raise k).clocks = q.clocks := rfl
@[simp] theorem PortState.raise_driven (q : PortState) (k : EventKind) : (q.raise k).driven = q.driven := rfl
@[simp] theorem PortState.raise_events (q : PortState) (k : EventKind) : (q.raise k).events = q.events ||| eventOf k := rfl
@[simp] theorem PortState.raise_attnAsserted (q : PortState) (k : EventKind) :
    (q.raise k).attnAsserted = attnOf (q.events ||| eventOf k) q.mask := rfl
@[simp] theorem PortState.toPhase_laneMode (q : PortState) (ph : PortPhase) : (q.toPhase ph).laneMode = q.laneMode := rfl
@[simp] theorem PortState.toPhase_modeDue (q : PortState) (ph : PortPhase) : (q.toPhase ph).modeDue = q.modeDue := rfl
@[simp] theorem PortState.toPhase_rx (q : PortState) (ph : PortPhase) : (q.toPhase ph).rx = q.rx := rfl
@[simp] theorem PortState.toPhase_response (q : PortState) (ph : PortPhase) : (q.toPhase ph).response = q.response := rfl
@[simp] theorem PortState.toPhase_sent (q : PortState) (ph : PortPhase) : (q.toPhase ph).sent = q.sent := rfl
@[simp] theorem PortState.toPhase_inputDropped (q : PortState) (ph : PortPhase) : (q.toPhase ph).inputDropped = q.inputDropped := rfl
@[simp] theorem PortState.toPhase_responseDiscarded (q : PortState) (ph : PortPhase) : (q.toPhase ph).responseDiscarded = q.responseDiscarded := rfl
@[simp] theorem PortState.toPhase_restIgnored (q : PortState) (ph : PortPhase) : (q.toPhase ph).restIgnored = q.restIgnored := rfl
@[simp] theorem PortState.toPhase_events (q : PortState) (ph : PortPhase) : (q.toPhase ph).events = q.events := rfl
@[simp] theorem PortState.toPhase_mask (q : PortState) (ph : PortPhase) : (q.toPhase ph).mask = q.mask := rfl
@[simp] theorem PortState.toPhase_attnAsserted (q : PortState) (ph : PortPhase) : (q.toPhase ph).attnAsserted = q.attnAsserted := rfl
@[simp] theorem PortState.toPhase_clocks (q : PortState) (ph : PortPhase) : (q.toPhase ph).clocks = q.clocks := rfl
@[simp] theorem PortState.toPhase_driven (q : PortState) (ph : PortPhase) : (q.toPhase ph).driven = q.driven := rfl
@[simp] theorem PortState.toPhase_phase (q : PortState) (ph : PortPhase) : (q.toPhase ph).phase = ph := rfl
@[simp] theorem PortState.toPhase_readyHigh (q : PortState) (ph : PortPhase) : (q.toPhase ph).readyHigh = readyIn ph := rfl

/-! `State.setLink` touches `links` alone. -/

@[simp] theorem State.setLink_timebase (s : State) (l : LinkId) (r : LinkRx) : (s.setLink l r).timebase = s.timebase := rfl
@[simp] theorem State.setLink_take (s : State) (l : LinkId) (r : LinkRx) : (s.setLink l r).take = s.take := rfl
@[simp] theorem State.setLink_framer (s : State) (l : LinkId) (r : LinkRx) : (s.setLink l r).framer = s.framer := rfl
@[simp] theorem State.setLink_mix (s : State) (l : LinkId) (r : LinkRx) : (s.setLink l r).mix = s.mix := rfl
@[simp] theorem State.setLink_engine (s : State) (l : LinkId) (r : LinkRx) : (s.setLink l r).engine = s.engine := rfl
@[simp] theorem State.setLink_rate (s : State) (l : LinkId) (r : LinkRx) : (s.setLink l r).rate = s.rate := rfl
@[simp] theorem State.setLink_store (s : State) (l : LinkId) (r : LinkRx) : (s.setLink l r).store = s.store := rfl
@[simp] theorem State.setLink_feeds (s : State) (l : LinkId) (r : LinkRx) : (s.setLink l r).feeds = s.feeds := rfl
@[simp] theorem State.setLink_cues (s : State) (l : LinkId) (r : LinkRx) : (s.setLink l r).cues = s.cues := rfl
@[simp] theorem State.setLink_ports (s : State) (l : LinkId) (r : LinkRx) : (s.setLink l r).ports = s.ports := rfl
@[simp] theorem State.setLink_now (s : State) (l : LinkId) (r : LinkRx) : (s.setLink l r).now = s.now := rfl
@[simp] theorem State.setLink_resetHeld (s : State) (l : LinkId) (r : LinkRx) : (s.setLink l r).resetHeld = s.resetHeld := rfl
@[simp] theorem State.setLink_pending (s : State) (l : LinkId) (r : LinkRx) : (s.setLink l r).pending = s.pending := rfl

/-! `State.setPort` touches `ports` alone. -/

@[simp] theorem State.setPort_links (s : State) (p : Port) (q : PortState) : (s.setPort p q).links = s.links := rfl
@[simp] theorem State.setPort_timebase (s : State) (p : Port) (q : PortState) : (s.setPort p q).timebase = s.timebase := rfl
@[simp] theorem State.setPort_take (s : State) (p : Port) (q : PortState) : (s.setPort p q).take = s.take := rfl
@[simp] theorem State.setPort_framer (s : State) (p : Port) (q : PortState) : (s.setPort p q).framer = s.framer := rfl
@[simp] theorem State.setPort_mix (s : State) (p : Port) (q : PortState) : (s.setPort p q).mix = s.mix := rfl
@[simp] theorem State.setPort_engine (s : State) (p : Port) (q : PortState) : (s.setPort p q).engine = s.engine := rfl
@[simp] theorem State.setPort_rate (s : State) (p : Port) (q : PortState) : (s.setPort p q).rate = s.rate := rfl
@[simp] theorem State.setPort_store (s : State) (p : Port) (q : PortState) : (s.setPort p q).store = s.store := rfl
@[simp] theorem State.setPort_feeds (s : State) (p : Port) (q : PortState) : (s.setPort p q).feeds = s.feeds := rfl
@[simp] theorem State.setPort_cues (s : State) (p : Port) (q : PortState) : (s.setPort p q).cues = s.cues := rfl
@[simp] theorem State.setPort_now (s : State) (p : Port) (q : PortState) : (s.setPort p q).now = s.now := rfl
@[simp] theorem State.setPort_resetHeld (s : State) (p : Port) (q : PortState) : (s.setPort p q).resetHeld = s.resetHeld := rfl
@[simp] theorem State.setPort_pending (s : State) (p : Port) (q : PortState) : (s.setPort p q).pending = s.pending := rfl

/-! `State.setFeed` touches `feeds` alone. -/

@[simp] theorem State.setFeed_links (s : State) (p : Port) (f : FeedState) : (s.setFeed p f).links = s.links := rfl
@[simp] theorem State.setFeed_timebase (s : State) (p : Port) (f : FeedState) : (s.setFeed p f).timebase = s.timebase := rfl
@[simp] theorem State.setFeed_take (s : State) (p : Port) (f : FeedState) : (s.setFeed p f).take = s.take := rfl
@[simp] theorem State.setFeed_framer (s : State) (p : Port) (f : FeedState) : (s.setFeed p f).framer = s.framer := rfl
@[simp] theorem State.setFeed_mix (s : State) (p : Port) (f : FeedState) : (s.setFeed p f).mix = s.mix := rfl
@[simp] theorem State.setFeed_engine (s : State) (p : Port) (f : FeedState) : (s.setFeed p f).engine = s.engine := rfl
@[simp] theorem State.setFeed_rate (s : State) (p : Port) (f : FeedState) : (s.setFeed p f).rate = s.rate := rfl
@[simp] theorem State.setFeed_store (s : State) (p : Port) (f : FeedState) : (s.setFeed p f).store = s.store := rfl
@[simp] theorem State.setFeed_cues (s : State) (p : Port) (f : FeedState) : (s.setFeed p f).cues = s.cues := rfl
@[simp] theorem State.setFeed_ports (s : State) (p : Port) (f : FeedState) : (s.setFeed p f).ports = s.ports := rfl
@[simp] theorem State.setFeed_now (s : State) (p : Port) (f : FeedState) : (s.setFeed p f).now = s.now := rfl
@[simp] theorem State.setFeed_resetHeld (s : State) (p : Port) (f : FeedState) : (s.setFeed p f).resetHeld = s.resetHeld := rfl
@[simp] theorem State.setFeed_pending (s : State) (p : Port) (f : FeedState) : (s.setFeed p f).pending = s.pending := rfl

/-! `State.setRegion` touches `store` alone. -/

@[simp] theorem State.setRegion_links (s : State) (f : Feed) (r : Region) : (s.setRegion f r).links = s.links := rfl
@[simp] theorem State.setRegion_timebase (s : State) (f : Feed) (r : Region) : (s.setRegion f r).timebase = s.timebase := rfl
@[simp] theorem State.setRegion_take (s : State) (f : Feed) (r : Region) : (s.setRegion f r).take = s.take := rfl
@[simp] theorem State.setRegion_framer (s : State) (f : Feed) (r : Region) : (s.setRegion f r).framer = s.framer := rfl
@[simp] theorem State.setRegion_mix (s : State) (f : Feed) (r : Region) : (s.setRegion f r).mix = s.mix := rfl
@[simp] theorem State.setRegion_engine (s : State) (f : Feed) (r : Region) : (s.setRegion f r).engine = s.engine := rfl
@[simp] theorem State.setRegion_rate (s : State) (f : Feed) (r : Region) : (s.setRegion f r).rate = s.rate := rfl
@[simp] theorem State.setRegion_feeds (s : State) (f : Feed) (r : Region) : (s.setRegion f r).feeds = s.feeds := rfl
@[simp] theorem State.setRegion_cues (s : State) (f : Feed) (r : Region) : (s.setRegion f r).cues = s.cues := rfl
@[simp] theorem State.setRegion_ports (s : State) (f : Feed) (r : Region) : (s.setRegion f r).ports = s.ports := rfl
@[simp] theorem State.setRegion_now (s : State) (f : Feed) (r : Region) : (s.setRegion f r).now = s.now := rfl
@[simp] theorem State.setRegion_resetHeld (s : State) (f : Feed) (r : Region) : (s.setRegion f r).resetHeld = s.resetHeld := rfl
@[simp] theorem State.setRegion_pending (s : State) (f : Feed) (r : Region) : (s.setRegion f r).pending = s.pending := rfl

/-! `State.setBuffer` touches `framer` alone. -/

@[simp] theorem State.setBuffer_links (s : State) (i : BufferId) (g : GatherBuffer) : (s.setBuffer i g).links = s.links := rfl
@[simp] theorem State.setBuffer_timebase (s : State) (i : BufferId) (g : GatherBuffer) : (s.setBuffer i g).timebase = s.timebase := rfl
@[simp] theorem State.setBuffer_take (s : State) (i : BufferId) (g : GatherBuffer) : (s.setBuffer i g).take = s.take := rfl
@[simp] theorem State.setBuffer_mix (s : State) (i : BufferId) (g : GatherBuffer) : (s.setBuffer i g).mix = s.mix := rfl
@[simp] theorem State.setBuffer_engine (s : State) (i : BufferId) (g : GatherBuffer) : (s.setBuffer i g).engine = s.engine := rfl
@[simp] theorem State.setBuffer_rate (s : State) (i : BufferId) (g : GatherBuffer) : (s.setBuffer i g).rate = s.rate := rfl
@[simp] theorem State.setBuffer_store (s : State) (i : BufferId) (g : GatherBuffer) : (s.setBuffer i g).store = s.store := rfl
@[simp] theorem State.setBuffer_feeds (s : State) (i : BufferId) (g : GatherBuffer) : (s.setBuffer i g).feeds = s.feeds := rfl
@[simp] theorem State.setBuffer_cues (s : State) (i : BufferId) (g : GatherBuffer) : (s.setBuffer i g).cues = s.cues := rfl
@[simp] theorem State.setBuffer_ports (s : State) (i : BufferId) (g : GatherBuffer) : (s.setBuffer i g).ports = s.ports := rfl
@[simp] theorem State.setBuffer_now (s : State) (i : BufferId) (g : GatherBuffer) : (s.setBuffer i g).now = s.now := rfl
@[simp] theorem State.setBuffer_resetHeld (s : State) (i : BufferId) (g : GatherBuffer) : (s.setBuffer i g).resetHeld = s.resetHeld := rfl
@[simp] theorem State.setBuffer_pending (s : State) (i : BufferId) (g : GatherBuffer) : (s.setBuffer i g).pending = s.pending := rfl

/-! `State.advance` touches `now` alone. -/

@[simp] theorem State.advance_links (s : State) (t : Nat) : (s.advance t).links = s.links := rfl
@[simp] theorem State.advance_timebase (s : State) (t : Nat) : (s.advance t).timebase = s.timebase := rfl
@[simp] theorem State.advance_take (s : State) (t : Nat) : (s.advance t).take = s.take := rfl
@[simp] theorem State.advance_framer (s : State) (t : Nat) : (s.advance t).framer = s.framer := rfl
@[simp] theorem State.advance_mix (s : State) (t : Nat) : (s.advance t).mix = s.mix := rfl
@[simp] theorem State.advance_engine (s : State) (t : Nat) : (s.advance t).engine = s.engine := rfl
@[simp] theorem State.advance_rate (s : State) (t : Nat) : (s.advance t).rate = s.rate := rfl
@[simp] theorem State.advance_store (s : State) (t : Nat) : (s.advance t).store = s.store := rfl
@[simp] theorem State.advance_feeds (s : State) (t : Nat) : (s.advance t).feeds = s.feeds := rfl
@[simp] theorem State.advance_cues (s : State) (t : Nat) : (s.advance t).cues = s.cues := rfl
@[simp] theorem State.advance_ports (s : State) (t : Nat) : (s.advance t).ports = s.ports := rfl
@[simp] theorem State.advance_resetHeld (s : State) (t : Nat) : (s.advance t).resetHeld = s.resetHeld := rfl
@[simp] theorem State.advance_pending (s : State) (t : Nat) : (s.advance t).pending = s.pending := rfl

/-! `State.raiseAt` touches `ports` alone. -/

@[simp] theorem State.raiseAt_links (s : State) (k : EventKind) (p : Port) : (s.raiseAt k p).links = s.links := rfl
@[simp] theorem State.raiseAt_timebase (s : State) (k : EventKind) (p : Port) : (s.raiseAt k p).timebase = s.timebase := rfl
@[simp] theorem State.raiseAt_take (s : State) (k : EventKind) (p : Port) : (s.raiseAt k p).take = s.take := rfl
@[simp] theorem State.raiseAt_framer (s : State) (k : EventKind) (p : Port) : (s.raiseAt k p).framer = s.framer := rfl
@[simp] theorem State.raiseAt_mix (s : State) (k : EventKind) (p : Port) : (s.raiseAt k p).mix = s.mix := rfl
@[simp] theorem State.raiseAt_engine (s : State) (k : EventKind) (p : Port) : (s.raiseAt k p).engine = s.engine := rfl
@[simp] theorem State.raiseAt_rate (s : State) (k : EventKind) (p : Port) : (s.raiseAt k p).rate = s.rate := rfl
@[simp] theorem State.raiseAt_store (s : State) (k : EventKind) (p : Port) : (s.raiseAt k p).store = s.store := rfl
@[simp] theorem State.raiseAt_feeds (s : State) (k : EventKind) (p : Port) : (s.raiseAt k p).feeds = s.feeds := rfl
@[simp] theorem State.raiseAt_cues (s : State) (k : EventKind) (p : Port) : (s.raiseAt k p).cues = s.cues := rfl
@[simp] theorem State.raiseAt_now (s : State) (k : EventKind) (p : Port) : (s.raiseAt k p).now = s.now := rfl
@[simp] theorem State.raiseAt_resetHeld (s : State) (k : EventKind) (p : Port) : (s.raiseAt k p).resetHeld = s.resetHeld := rfl
@[simp] theorem State.raiseAt_pending (s : State) (k : EventKind) (p : Port) : (s.raiseAt k p).pending = s.pending := rfl

/-! `State.raiseAll` touches `ports` alone. -/

@[simp] theorem State.raiseAll_links (s : State) (k : EventKind) : (s.raiseAll k).links = s.links := rfl
@[simp] theorem State.raiseAll_timebase (s : State) (k : EventKind) : (s.raiseAll k).timebase = s.timebase := rfl
@[simp] theorem State.raiseAll_take (s : State) (k : EventKind) : (s.raiseAll k).take = s.take := rfl
@[simp] theorem State.raiseAll_framer (s : State) (k : EventKind) : (s.raiseAll k).framer = s.framer := rfl
@[simp] theorem State.raiseAll_mix (s : State) (k : EventKind) : (s.raiseAll k).mix = s.mix := rfl
@[simp] theorem State.raiseAll_engine (s : State) (k : EventKind) : (s.raiseAll k).engine = s.engine := rfl
@[simp] theorem State.raiseAll_rate (s : State) (k : EventKind) : (s.raiseAll k).rate = s.rate := rfl
@[simp] theorem State.raiseAll_store (s : State) (k : EventKind) : (s.raiseAll k).store = s.store := rfl
@[simp] theorem State.raiseAll_feeds (s : State) (k : EventKind) : (s.raiseAll k).feeds = s.feeds := rfl
@[simp] theorem State.raiseAll_cues (s : State) (k : EventKind) : (s.raiseAll k).cues = s.cues := rfl
@[simp] theorem State.raiseAll_now (s : State) (k : EventKind) : (s.raiseAll k).now = s.now := rfl
@[simp] theorem State.raiseAll_resetHeld (s : State) (k : EventKind) : (s.raiseAll k).resetHeld = s.resetHeld := rfl
@[simp] theorem State.raiseAll_pending (s : State) (k : EventKind) : (s.raiseAll k).pending = s.pending := rfl

/-! `State.raiseOthers` touches `ports` alone. -/

@[simp] theorem State.raiseOthers_links (s : State) (k : EventKind) (p : Port) : (s.raiseOthers k p).links = s.links := rfl
@[simp] theorem State.raiseOthers_timebase (s : State) (k : EventKind) (p : Port) : (s.raiseOthers k p).timebase = s.timebase := rfl
@[simp] theorem State.raiseOthers_take (s : State) (k : EventKind) (p : Port) : (s.raiseOthers k p).take = s.take := rfl
@[simp] theorem State.raiseOthers_framer (s : State) (k : EventKind) (p : Port) : (s.raiseOthers k p).framer = s.framer := rfl
@[simp] theorem State.raiseOthers_mix (s : State) (k : EventKind) (p : Port) : (s.raiseOthers k p).mix = s.mix := rfl
@[simp] theorem State.raiseOthers_engine (s : State) (k : EventKind) (p : Port) : (s.raiseOthers k p).engine = s.engine := rfl
@[simp] theorem State.raiseOthers_rate (s : State) (k : EventKind) (p : Port) : (s.raiseOthers k p).rate = s.rate := rfl
@[simp] theorem State.raiseOthers_store (s : State) (k : EventKind) (p : Port) : (s.raiseOthers k p).store = s.store := rfl
@[simp] theorem State.raiseOthers_feeds (s : State) (k : EventKind) (p : Port) : (s.raiseOthers k p).feeds = s.feeds := rfl
@[simp] theorem State.raiseOthers_cues (s : State) (k : EventKind) (p : Port) : (s.raiseOthers k p).cues = s.cues := rfl
@[simp] theorem State.raiseOthers_now (s : State) (k : EventKind) (p : Port) : (s.raiseOthers k p).now = s.now := rfl
@[simp] theorem State.raiseOthers_resetHeld (s : State) (k : EventKind) (p : Port) : (s.raiseOthers k p).resetHeld = s.resetHeld := rfl
@[simp] theorem State.raiseOthers_pending (s : State) (k : EventKind) (p : Port) : (s.raiseOthers k p).pending = s.pending := rfl

/-! ### Changes of timebase state and of take state -/

theorem State.toClock_eq (s : State) (c : ClockState) :
    s.toClock c = { s with
      timebase := { s.timebase with clock := c }
      ports := if s.timebase.clock = c then s.ports else (s.raiseAll .clockChange).ports } := by
  unfold State.toClock
  split
  · next h => subst h; rfl
  · simp [State.raiseAll]

theorem State.toTake_eq (s : State) (st : TakeState) :
    s.toTake st = { s with
      take := { s.take with state := st }
      ports := if s.take.state = st then s.ports else (s.raiseAll .takeChange).ports } := by
  unfold State.toTake
  split
  · next h => subst h; rfl
  · simp [State.raiseAll]

end Sys2Proof.Machine
end

