-- ==== Sys2Proof/Laws/Frames.lean ====
section
/-! SUPPORT. The frames of the shared operations: for each, the blocks of the part it leaves as they were. Each lemma gives
`simp` one rule for every such block. -/

namespace Sys2Proof.Machine

/-! ### The timebase and the links -/

@[simp] theorem State.requestFault_frame (s : State) (label : List Byte) :
    (s.requestFault label).links = s.links ∧ (s.requestFault label).timebase = s.timebase ∧ (s.requestFault
    label).take = s.take ∧ (s.requestFault label).framer = s.framer ∧ (s.requestFault label).mix = s.mix ∧
    (s.requestFault label).engine = s.engine ∧ (s.requestFault label).rate = s.rate ∧ (s.requestFault label).store =
    s.store ∧ (s.requestFault label).feeds = s.feeds ∧ (s.requestFault label).ports = s.ports ∧ (s.requestFault
    label).now = s.now ∧ (s.requestFault label).resetHeld = s.resetHeld ∧ (s.requestFault label).pending = s.pending := by
  unfold State.requestFault
  split <;> simp

@[simp] theorem State.toClock_frame (s : State) (c : ClockState) :
    (s.toClock c).links = s.links ∧ (s.toClock c).take = s.take ∧ (s.toClock c).framer = s.framer ∧ (s.toClock
    c).mix = s.mix ∧ (s.toClock c).engine = s.engine ∧ (s.toClock c).rate = s.rate ∧ (s.toClock c).store = s.store ∧
    (s.toClock c).feeds = s.feeds ∧ (s.toClock c).cues = s.cues ∧ (s.toClock c).now = s.now ∧ (s.toClock
    c).resetHeld = s.resetHeld ∧ (s.toClock c).pending = s.pending := by
  unfold State.toClock
  split <;> simp

@[simp] theorem State.enterHoldover_frame (s : State) (t : Nat) :
    (s.enterHoldover t).links = s.links ∧ (s.enterHoldover t).take = s.take ∧ (s.enterHoldover t).framer = s.framer
    ∧ (s.enterHoldover t).mix = s.mix ∧ (s.enterHoldover t).engine = s.engine ∧ (s.enterHoldover t).rate = s.rate ∧
    (s.enterHoldover t).store = s.store ∧ (s.enterHoldover t).feeds = s.feeds ∧ (s.enterHoldover t).now = s.now ∧
    (s.enterHoldover t).resetHeld = s.resetHeld ∧ (s.enterHoldover t).pending = s.pending := by
  unfold State.enterHoldover
  simp

@[simp] theorem State.badPeriod_frame (s : State) (t : Nat) :
    (s.badPeriod t).links = s.links ∧ (s.badPeriod t).take = s.take ∧ (s.badPeriod t).framer = s.framer ∧
    (s.badPeriod t).mix = s.mix ∧ (s.badPeriod t).engine = s.engine ∧ (s.badPeriod t).rate = s.rate ∧ (s.badPeriod
    t).store = s.store ∧ (s.badPeriod t).feeds = s.feeds ∧ (s.badPeriod t).now = s.now ∧ (s.badPeriod t).resetHeld =
    s.resetHeld ∧ (s.badPeriod t).pending = s.pending := by
  unfold State.badPeriod
  split <;> simp

@[simp] theorem State.edgeIsSample_frame (s : State) (e : Nat) :
    (s.edgeIsSample e).links = s.links ∧ (s.edgeIsSample e).take = s.take ∧ (s.edgeIsSample e).framer = s.framer ∧
    (s.edgeIsSample e).mix = s.mix ∧ (s.edgeIsSample e).engine = s.engine ∧ (s.edgeIsSample e).rate = s.rate ∧
    (s.edgeIsSample e).store = s.store ∧ (s.edgeIsSample e).feeds = s.feeds ∧ (s.edgeIsSample e).cues = s.cues ∧
    (s.edgeIsSample e).ports = s.ports ∧ (s.edgeIsSample e).now = s.now ∧ (s.edgeIsSample e).resetHeld = s.resetHeld
    ∧ (s.edgeIsSample e).pending = s.pending := by
  unfold State.edgeIsSample
  simp

@[simp] theorem State.enterLocked_frame (s : State) (e : Nat) :
    (s.enterLocked e).links = s.links ∧ (s.enterLocked e).take = s.take ∧ (s.enterLocked e).framer = s.framer ∧
    (s.enterLocked e).mix = s.mix ∧ (s.enterLocked e).engine = s.engine ∧ (s.enterLocked e).rate = s.rate ∧
    (s.enterLocked e).store = s.store ∧ (s.enterLocked e).feeds = s.feeds ∧ (s.enterLocked e).cues = s.cues ∧
    (s.enterLocked e).now = s.now ∧ (s.enterLocked e).resetHeld = s.resetHeld ∧ (s.enterLocked e).pending =
    s.pending := by
  unfold State.enterLocked
  split <;> simp

@[simp] theorem State.goodPeriod_frame (s : State) (e : Nat) :
    (s.goodPeriod e).links = s.links ∧ (s.goodPeriod e).take = s.take ∧ (s.goodPeriod e).framer = s.framer ∧
    (s.goodPeriod e).mix = s.mix ∧ (s.goodPeriod e).engine = s.engine ∧ (s.goodPeriod e).rate = s.rate ∧
    (s.goodPeriod e).store = s.store ∧ (s.goodPeriod e).feeds = s.feeds ∧ (s.goodPeriod e).cues = s.cues ∧
    (s.goodPeriod e).now = s.now ∧ (s.goodPeriod e).resetHeld = s.resetHeld ∧ (s.goodPeriod e).pending = s.pending := by
  unfold State.goodPeriod
  repeat' split
  all_goals simp

@[simp] theorem State.takeLate_frame (s : State) (t : Nat) :
    (s.takeLate t).links = s.links ∧ (s.takeLate t).take = s.take ∧ (s.takeLate t).framer = s.framer ∧ (s.takeLate
    t).mix = s.mix ∧ (s.takeLate t).engine = s.engine ∧ (s.takeLate t).rate = s.rate ∧ (s.takeLate t).store =
    s.store ∧ (s.takeLate t).feeds = s.feeds ∧ (s.takeLate t).now = s.now ∧ (s.takeLate t).resetHeld = s.resetHeld ∧
    (s.takeLate t).pending = s.pending := by
  unfold State.takeLate
  simp

@[simp] theorem State.takeAbsence_frame (s : State) (t : Nat) :
    (s.takeAbsence t).links = s.links ∧ (s.takeAbsence t).take = s.take ∧ (s.takeAbsence t).framer = s.framer ∧
    (s.takeAbsence t).mix = s.mix ∧ (s.takeAbsence t).engine = s.engine ∧ (s.takeAbsence t).rate = s.rate ∧
    (s.takeAbsence t).store = s.store ∧ (s.takeAbsence t).feeds = s.feeds ∧ (s.takeAbsence t).now = s.now ∧
    (s.takeAbsence t).resetHeld = s.resetHeld ∧ (s.takeAbsence t).pending = s.pending := by
  unfold State.takeAbsence
  simp

@[simp] theorem State.judgeEdge_frame (s : State) (e : Nat) :
    (s.judgeEdge e).links = s.links ∧ (s.judgeEdge e).take = s.take ∧ (s.judgeEdge e).framer = s.framer ∧
    (s.judgeEdge e).mix = s.mix ∧ (s.judgeEdge e).engine = s.engine ∧ (s.judgeEdge e).rate = s.rate ∧ (s.judgeEdge
    e).store = s.store ∧ (s.judgeEdge e).feeds = s.feeds ∧ (s.judgeEdge e).now = s.now ∧ (s.judgeEdge e).resetHeld =
    s.resetHeld ∧ (s.judgeEdge e).pending = s.pending := by
  unfold State.judgeEdge
  repeat' split
  all_goals simp

@[simp] theorem State.referenceEdge_frame (s : State) (e : Nat) :
    (s.referenceEdge e).links = s.links ∧ (s.referenceEdge e).take = s.take ∧ (s.referenceEdge e).framer = s.framer
    ∧ (s.referenceEdge e).mix = s.mix ∧ (s.referenceEdge e).engine = s.engine ∧ (s.referenceEdge e).rate = s.rate ∧
    (s.referenceEdge e).store = s.store ∧ (s.referenceEdge e).feeds = s.feeds ∧ (s.referenceEdge e).now = s.now ∧
    (s.referenceEdge e).resetHeld = s.resetHeld ∧ (s.referenceEdge e).pending = s.pending := by
  unfold State.referenceEdge
  split <;> simp

@[simp] theorem State.markTime_frame (s : State) (l : LinkId) (e : Nat) :
    (s.markTime l e).links = s.links ∧ (s.markTime l e).take = s.take ∧ (s.markTime l e).framer = s.framer ∧
    (s.markTime l e).mix = s.mix ∧ (s.markTime l e).engine = s.engine ∧ (s.markTime l e).rate = s.rate ∧ (s.markTime
    l e).store = s.store ∧ (s.markTime l e).feeds = s.feeds ∧ (s.markTime l e).now = s.now ∧ (s.markTime l
    e).resetHeld = s.resetHeld ∧ (s.markTime l e).pending = s.pending := by
  unfold State.markTime
  split <;> simp

@[simp] theorem State.referenceLinkLost_frame (s : State) (l : LinkId) (t : Nat) :
    (s.referenceLinkLost l t).links = s.links ∧ (s.referenceLinkLost l t).take = s.take ∧ (s.referenceLinkLost l
    t).framer = s.framer ∧ (s.referenceLinkLost l t).mix = s.mix ∧ (s.referenceLinkLost l t).engine = s.engine ∧
    (s.referenceLinkLost l t).rate = s.rate ∧ (s.referenceLinkLost l t).store = s.store ∧ (s.referenceLinkLost l
    t).feeds = s.feeds ∧ (s.referenceLinkLost l t).now = s.now ∧ (s.referenceLinkLost l t).resetHeld = s.resetHeld ∧
    (s.referenceLinkLost l t).pending = s.pending := by
  unfold State.referenceLinkLost
  split <;> simp

@[simp] theorem State.setClock_frame (s : State) (ref : Reference) (rate : SessionRate) (t : Nat) :
    (s.setClock ref rate t).links = s.links ∧ (s.setClock ref rate t).take = s.take ∧ (s.setClock ref rate t).framer
    = s.framer ∧ (s.setClock ref rate t).engine = s.engine ∧ (s.setClock ref rate t).rate = s.rate ∧ (s.setClock ref
    rate t).store = s.store ∧ (s.setClock ref rate t).feeds = s.feeds ∧ (s.setClock ref rate t).now = s.now ∧
    (s.setClock ref rate t).resetHeld = s.resetHeld ∧ (s.setClock ref rate t).pending = s.pending := by
  unfold State.setClock
  repeat' first | (simp [*]; done) | split | (simp; split)

@[simp] theorem State.announceDeparture_frame (s : State) (l : LinkId) (t : Nat) :
    (s.announceDeparture l t).links = s.links ∧ (s.announceDeparture l t).take = s.take ∧ (s.announceDeparture l
    t).framer = s.framer ∧ (s.announceDeparture l t).mix = s.mix ∧ (s.announceDeparture l t).engine = s.engine ∧
    (s.announceDeparture l t).rate = s.rate ∧ (s.announceDeparture l t).store = s.store ∧ (s.announceDeparture l
    t).feeds = s.feeds ∧ (s.announceDeparture l t).now = s.now ∧ (s.announceDeparture l t).resetHeld = s.resetHeld ∧
    (s.announceDeparture l t).pending = s.pending := by
  unfold State.announceDeparture
  simp

@[simp] theorem State.departLink_frame (s : State) (l : LinkId) (target : LockState) (t : Nat) :
    (s.departLink l target t).take = s.take ∧ (s.departLink l target t).framer = s.framer ∧ (s.departLink l target
    t).mix = s.mix ∧ (s.departLink l target t).engine = s.engine ∧ (s.departLink l target t).rate = s.rate ∧
    (s.departLink l target t).store = s.store ∧ (s.departLink l target t).feeds = s.feeds ∧ (s.departLink l target
    t).now = s.now ∧ (s.departLink l target t).resetHeld = s.resetHeld ∧ (s.departLink l target t).pending =
    s.pending := by
  unfold State.departLink
  simp

@[simp] theorem State.reportSlip_frame (s : State) (l : LinkId) :
    (s.reportSlip l).links = s.links ∧ (s.reportSlip l).timebase = s.timebase ∧ (s.reportSlip l).take = s.take ∧
    (s.reportSlip l).mix = s.mix ∧ (s.reportSlip l).engine = s.engine ∧ (s.reportSlip l).rate = s.rate ∧
    (s.reportSlip l).store = s.store ∧ (s.reportSlip l).feeds = s.feeds ∧ (s.reportSlip l).cues = s.cues ∧
    (s.reportSlip l).ports = s.ports ∧ (s.reportSlip l).now = s.now ∧ (s.reportSlip l).resetHeld = s.resetHeld ∧
    (s.reportSlip l).pending = s.pending := by
  unfold State.reportSlip
  repeat' split
  all_goals simp

@[simp] theorem State.goodFrame_frame (s : State) (l : LinkId) (f : LinkFrame) :
    (s.goodFrame l f).timebase = s.timebase ∧ (s.goodFrame l f).take = s.take ∧ (s.goodFrame l f).mix = s.mix ∧
    (s.goodFrame l f).engine = s.engine ∧ (s.goodFrame l f).rate = s.rate ∧ (s.goodFrame l f).store = s.store ∧
    (s.goodFrame l f).feeds = s.feeds ∧ (s.goodFrame l f).cues = s.cues ∧ (s.goodFrame l f).now = s.now ∧
    (s.goodFrame l f).resetHeld = s.resetHeld ∧ (s.goodFrame l f).pending = s.pending := by
  unfold State.goodFrame
  repeat' first | (simp [*]; done) | split | (simp; split)

@[simp] theorem State.badFrame_frame (s : State) (l : LinkId) (t : Nat) :
    (s.badFrame l t).take = s.take ∧ (s.badFrame l t).framer = s.framer ∧ (s.badFrame l t).mix = s.mix ∧ (s.badFrame
    l t).engine = s.engine ∧ (s.badFrame l t).rate = s.rate ∧ (s.badFrame l t).store = s.store ∧ (s.badFrame l
    t).feeds = s.feeds ∧ (s.badFrame l t).now = s.now ∧ (s.badFrame l t).resetHeld = s.resetHeld ∧ (s.badFrame l
    t).pending = s.pending := by
  unfold State.badFrame
  repeat' first | (simp [*]; done) | split | (simp; split)

@[simp] theorem State.beginFrame_frame (s : State) (l : LinkId) (start : Nat) :
    (s.beginFrame l start).take = s.take ∧ (s.beginFrame l start).framer = s.framer ∧ (s.beginFrame l start).mix =
    s.mix ∧ (s.beginFrame l start).engine = s.engine ∧ (s.beginFrame l start).rate = s.rate ∧ (s.beginFrame l
    start).store = s.store ∧ (s.beginFrame l start).feeds = s.feeds ∧ (s.beginFrame l start).now = s.now ∧
    (s.beginFrame l start).resetHeld = s.resetHeld ∧ (s.beginFrame l start).pending = s.pending := by
  unfold State.beginFrame
  simp only []
  split <;> simp

@[simp] theorem State.unexpectedMark_frame (s : State) (l : LinkId) (start t : Nat) :
    (s.unexpectedMark l start t).take = s.take ∧ (s.unexpectedMark l start t).framer = s.framer ∧ (s.unexpectedMark
    l start t).mix = s.mix ∧ (s.unexpectedMark l start t).engine = s.engine ∧ (s.unexpectedMark l start t).rate =
    s.rate ∧ (s.unexpectedMark l start t).store = s.store ∧ (s.unexpectedMark l start t).feeds = s.feeds ∧
    (s.unexpectedMark l start t).now = s.now ∧ (s.unexpectedMark l start t).resetHeld = s.resetHeld ∧
    (s.unexpectedMark l start t).pending = s.pending := by
  unfold State.unexpectedMark
  simp only []
  split <;> simp

@[simp] theorem State.completeSlot_frame (s : State) (l : LinkId) (f : PartialFrame) (cells : List Bool) (t : Nat) :
    (s.completeSlot l f cells t).take = s.take ∧ (s.completeSlot l f cells t).mix = s.mix ∧ (s.completeSlot l f
    cells t).engine = s.engine ∧ (s.completeSlot l f cells t).rate = s.rate ∧ (s.completeSlot l f cells t).store =
    s.store ∧ (s.completeSlot l f cells t).feeds = s.feeds ∧ (s.completeSlot l f cells t).now = s.now ∧
    (s.completeSlot l f cells t).resetHeld = s.resetHeld ∧ (s.completeSlot l f cells t).pending = s.pending := by
  unfold State.completeSlot
  repeat' first | (simp [*]; done) | split | (simp; split)

@[simp] theorem State.completeCell_frame (s : State) (l : LinkId) (f : PartialFrame) (cell : Bool) (t : Nat) :
    (s.completeCell l f cell t).take = s.take ∧ (s.completeCell l f cell t).mix = s.mix ∧ (s.completeCell l f cell
    t).engine = s.engine ∧ (s.completeCell l f cell t).rate = s.rate ∧ (s.completeCell l f cell t).store = s.store ∧
    (s.completeCell l f cell t).feeds = s.feeds ∧ (s.completeCell l f cell t).now = s.now ∧ (s.completeCell l f cell
    t).resetHeld = s.resetHeld ∧ (s.completeCell l f cell t).pending = s.pending := by
  unfold State.completeCell
  simp only []
  split <;> simp

@[simp] theorem State.countViolation_frame (s : State) (l : LinkId) (c : PulseClass) :
    (s.countViolation l c).timebase = s.timebase ∧ (s.countViolation l c).take = s.take ∧ (s.countViolation l
    c).framer = s.framer ∧ (s.countViolation l c).mix = s.mix ∧ (s.countViolation l c).engine = s.engine ∧
    (s.countViolation l c).rate = s.rate ∧ (s.countViolation l c).store = s.store ∧ (s.countViolation l c).feeds =
    s.feeds ∧ (s.countViolation l c).cues = s.cues ∧ (s.countViolation l c).ports = s.ports ∧ (s.countViolation l
    c).now = s.now ∧ (s.countViolation l c).resetHeld = s.resetHeld ∧ (s.countViolation l c).pending = s.pending := by
  unfold State.countViolation
  split <;> simp

@[simp] theorem State.assemble_frame (s : State) (l : LinkId) (c : PulseClass) (start t : Nat) :
    (s.assemble l c start t).take = s.take ∧ (s.assemble l c start t).mix = s.mix ∧ (s.assemble l c start t).engine
    = s.engine ∧ (s.assemble l c start t).rate = s.rate ∧ (s.assemble l c start t).store = s.store ∧ (s.assemble l c
    start t).feeds = s.feeds ∧ (s.assemble l c start t).now = s.now ∧ (s.assemble l c start t).resetHeld =
    s.resetHeld ∧ (s.assemble l c start t).pending = s.pending := by
  unfold State.assemble
  repeat' first | (simp [*]; done) | split | (simp; split)

@[simp] theorem State.takePulse_frame (s : State) (l : LinkId) (c : PulseClass) (start t : Nat) :
    (s.takePulse l c start t).take = s.take ∧ (s.takePulse l c start t).mix = s.mix ∧ (s.takePulse l c start
    t).engine = s.engine ∧ (s.takePulse l c start t).rate = s.rate ∧ (s.takePulse l c start t).store = s.store ∧
    (s.takePulse l c start t).feeds = s.feeds ∧ (s.takePulse l c start t).now = s.now ∧ (s.takePulse l c start
    t).resetHeld = s.resetHeld ∧ (s.takePulse l c start t).pending = s.pending := by
  unfold State.takePulse
  repeat' first | (simp [*]; done) | split | (simp; split)

@[simp] theorem State.takeTimeout_frame (s : State) (l : LinkId) (t : Nat) :
    (s.takeTimeout l t).take = s.take ∧ (s.takeTimeout l t).framer = s.framer ∧ (s.takeTimeout l t).mix = s.mix ∧
    (s.takeTimeout l t).engine = s.engine ∧ (s.takeTimeout l t).rate = s.rate ∧ (s.takeTimeout l t).store = s.store
    ∧ (s.takeTimeout l t).feeds = s.feeds ∧ (s.takeTimeout l t).now = s.now ∧ (s.takeTimeout l t).resetHeld =
    s.resetHeld ∧ (s.takeTimeout l t).pending = s.pending := by
  unfold State.takeTimeout
  simp only []
  split <;> simp

@[simp] theorem State.measure_frame (s : State) (l : LinkId) (t : Nat) :
    (s.measure l t).take = s.take ∧ (s.measure l t).mix = s.mix ∧ (s.measure l t).engine = s.engine ∧ (s.measure l
    t).rate = s.rate ∧ (s.measure l t).store = s.store ∧ (s.measure l t).feeds = s.feeds ∧ (s.measure l t).now =
    s.now ∧ (s.measure l t).resetHeld = s.resetHeld ∧ (s.measure l t).pending = s.pending := by
  unfold State.measure
  repeat' first | (simp [*]; done) | split | (simp; split)

@[simp] theorem State.transition_frame (s : State) (l : LinkId) (t : Nat) :
    (s.transition l t).take = s.take ∧ (s.transition l t).mix = s.mix ∧ (s.transition l t).engine = s.engine ∧
    (s.transition l t).rate = s.rate ∧ (s.transition l t).store = s.store ∧ (s.transition l t).feeds = s.feeds ∧
    (s.transition l t).now = s.now ∧ (s.transition l t).resetHeld = s.resetHeld ∧ (s.transition l t).pending =
    s.pending := by
  unfold State.transition
  repeat' split
  all_goals simp

@[simp] theorem State.askLink_frame (s : State) (l : LinkId) :
    (s.askLink l).timebase = s.timebase ∧ (s.askLink l).take = s.take ∧ (s.askLink l).mix = s.mix ∧ (s.askLink
    l).engine = s.engine ∧ (s.askLink l).rate = s.rate ∧ (s.askLink l).store = s.store ∧ (s.askLink l).feeds =
    s.feeds ∧ (s.askLink l).cues = s.cues ∧ (s.askLink l).ports = s.ports ∧ (s.askLink l).now = s.now ∧ (s.askLink
    l).resetHeld = s.resetHeld ∧ (s.askLink l).pending = s.pending := by
  unfold State.askLink
  simp only []
  split <;> simp

@[simp] theorem State.askLinks_frame (s : State) :
    s.askLinks.timebase = s.timebase ∧ s.askLinks.take = s.take ∧ s.askLinks.mix = s.mix ∧ s.askLinks.engine =
    s.engine ∧ s.askLinks.rate = s.rate ∧ s.askLinks.store = s.store ∧ s.askLinks.feeds = s.feeds ∧ s.askLinks.cues
    = s.cues ∧ s.askLinks.ports = s.ports ∧ s.askLinks.now = s.now ∧ s.askLinks.resetHeld = s.resetHeld ∧
    s.askLinks.pending = s.pending := by
  unfold State.askLinks
  simp

@[simp] theorem State.restartLink_frame (s : State) (l : LinkId) (t : Nat) :
    (s.restartLink l t).take = s.take ∧ (s.restartLink l t).framer = s.framer ∧ (s.restartLink l t).mix = s.mix ∧
    (s.restartLink l t).engine = s.engine ∧ (s.restartLink l t).rate = s.rate ∧ (s.restartLink l t).store = s.store
    ∧ (s.restartLink l t).feeds = s.feeds ∧ (s.restartLink l t).now = s.now ∧ (s.restartLink l t).resetHeld =
    s.resetHeld ∧ (s.restartLink l t).pending = s.pending := by
  unfold State.restartLink
  simp only []
  split <;> simp

@[simp] theorem State.disableLink_frame (s : State) (l : LinkId) (t : Nat) :
    (s.disableLink l t).take = s.take ∧ (s.disableLink l t).framer = s.framer ∧ (s.disableLink l t).mix = s.mix ∧
    (s.disableLink l t).engine = s.engine ∧ (s.disableLink l t).rate = s.rate ∧ (s.disableLink l t).store = s.store
    ∧ (s.disableLink l t).feeds = s.feeds ∧ (s.disableLink l t).now = s.now ∧ (s.disableLink l t).resetHeld =
    s.resetHeld ∧ (s.disableLink l t).pending = s.pending := by
  unfold State.disableLink
  simp only []
  split <;> simp

@[simp] theorem State.setupLink_frame (s : State) (l : LinkId) (enable : Bool) (k : LinkSettings) (t : Nat) :
    (s.setupLink l enable k t).take = s.take ∧ (s.setupLink l enable k t).framer = s.framer ∧ (s.setupLink l enable
    k t).mix = s.mix ∧ (s.setupLink l enable k t).engine = s.engine ∧ (s.setupLink l enable k t).rate = s.rate ∧
    (s.setupLink l enable k t).store = s.store ∧ (s.setupLink l enable k t).feeds = s.feeds ∧ (s.setupLink l enable
    k t).now = s.now ∧ (s.setupLink l enable k t).resetHeld = s.resetHeld ∧ (s.setupLink l enable k t).pending =
    s.pending := by
  unfold State.setupLink
  repeat' first | (simp [*]; done) | split | (simp; split)

/-! ### The capture framer -/

@[simp] theorem State.gatherInto_frame (s : State) (i : BufferId) (answers : PerLink (Option LinkFrame)) (refTimed : Bool) :
    (s.gatherInto i answers refTimed).links = s.links ∧ (s.gatherInto i answers refTimed).timebase = s.timebase ∧
    (s.gatherInto i answers refTimed).take = s.take ∧ (s.gatherInto i answers refTimed).engine = s.engine ∧
    (s.gatherInto i answers refTimed).rate = s.rate ∧ (s.gatherInto i answers refTimed).store = s.store ∧
    (s.gatherInto i answers refTimed).feeds = s.feeds ∧ (s.gatherInto i answers refTimed).cues = s.cues ∧
    (s.gatherInto i answers refTimed).now = s.now ∧ (s.gatherInto i answers refTimed).resetHeld = s.resetHeld ∧
    (s.gatherInto i answers refTimed).pending = s.pending := by
  unfold State.gatherInto
  simp only []
  split <;> simp

@[simp] theorem State.gather_frame (s : State) (answers : PerLink (Option LinkFrame)) (refTimed : Bool) :
    (s.gather answers refTimed).links = s.links ∧ (s.gather answers refTimed).timebase = s.timebase ∧ (s.gather
    answers refTimed).take = s.take ∧ (s.gather answers refTimed).engine = s.engine ∧ (s.gather answers
    refTimed).rate = s.rate ∧ (s.gather answers refTimed).store = s.store ∧ (s.gather answers refTimed).feeds =
    s.feeds ∧ (s.gather answers refTimed).cues = s.cues ∧ (s.gather answers refTimed).now = s.now ∧ (s.gather
    answers refTimed).resetHeld = s.resetHeld ∧ (s.gather answers refTimed).pending = s.pending := by
  unfold State.gather
  repeat' split
  all_goals simp

@[simp] theorem State.startBuffer_frame (s : State) (p : Nat) :
    (s.startBuffer p).links = s.links ∧ (s.startBuffer p).timebase = s.timebase ∧ (s.startBuffer p).take = s.take ∧
    (s.startBuffer p).mix = s.mix ∧ (s.startBuffer p).engine = s.engine ∧ (s.startBuffer p).rate = s.rate ∧
    (s.startBuffer p).store = s.store ∧ (s.startBuffer p).feeds = s.feeds ∧ (s.startBuffer p).cues = s.cues ∧
    (s.startBuffer p).ports = s.ports ∧ (s.startBuffer p).now = s.now ∧ (s.startBuffer p).resetHeld = s.resetHeld ∧
    (s.startBuffer p).pending = s.pending := by
  unfold State.startBuffer
  simp

@[simp] theorem State.closeBuffer_frame (s : State) (i : BufferId) (take sequence : Nat) :
    (s.closeBuffer i take sequence).links = s.links ∧ (s.closeBuffer i take sequence).timebase = s.timebase ∧
    (s.closeBuffer i take sequence).take = s.take ∧ (s.closeBuffer i take sequence).mix = s.mix ∧ (s.closeBuffer i
    take sequence).engine = s.engine ∧ (s.closeBuffer i take sequence).rate = s.rate ∧ (s.closeBuffer i take
    sequence).store = s.store ∧ (s.closeBuffer i take sequence).feeds = s.feeds ∧ (s.closeBuffer i take
    sequence).cues = s.cues ∧ (s.closeBuffer i take sequence).ports = s.ports ∧ (s.closeBuffer i take sequence).now
    = s.now ∧ (s.closeBuffer i take sequence).resetHeld = s.resetHeld ∧ (s.closeBuffer i take sequence).pending =
    s.pending := by
  unfold State.closeBuffer
  simp

@[simp] theorem State.freeBuffer_frame (s : State) (i : BufferId) :
    (s.freeBuffer i).links = s.links ∧ (s.freeBuffer i).timebase = s.timebase ∧ (s.freeBuffer i).take = s.take ∧
    (s.freeBuffer i).mix = s.mix ∧ (s.freeBuffer i).engine = s.engine ∧ (s.freeBuffer i).rate = s.rate ∧
    (s.freeBuffer i).store = s.store ∧ (s.freeBuffer i).feeds = s.feeds ∧ (s.freeBuffer i).cues = s.cues ∧
    (s.freeBuffer i).ports = s.ports ∧ (s.freeBuffer i).now = s.now ∧ (s.freeBuffer i).resetHeld = s.resetHeld ∧
    (s.freeBuffer i).pending = s.pending := by
  unfold State.freeBuffer
  simp

/-! ### The block store and the feeds -/

@[simp] theorem State.answerRecord_frame (s : State) (p : Port) (id : RecordId) (size : Nat) :
    (s.answerRecord p id size).links = s.links ∧ (s.answerRecord p id size).timebase = s.timebase ∧ (s.answerRecord
    p id size).take = s.take ∧ (s.answerRecord p id size).framer = s.framer ∧ (s.answerRecord p id size).mix = s.mix
    ∧ (s.answerRecord p id size).engine = s.engine ∧ (s.answerRecord p id size).rate = s.rate ∧ (s.answerRecord p id
    size).store = s.store ∧ (s.answerRecord p id size).cues = s.cues ∧ (s.answerRecord p id size).now = s.now ∧
    (s.answerRecord p id size).resetHeld = s.resetHeld ∧ (s.answerRecord p id size).pending = s.pending := by
  unfold State.answerRecord
  simp

@[simp] theorem State.answerNone_frame (s : State) (p : Port) :
    (s.answerNone p).links = s.links ∧ (s.answerNone p).timebase = s.timebase ∧ (s.answerNone p).take = s.take ∧
    (s.answerNone p).framer = s.framer ∧ (s.answerNone p).mix = s.mix ∧ (s.answerNone p).engine = s.engine ∧
    (s.answerNone p).rate = s.rate ∧ (s.answerNone p).store = s.store ∧ (s.answerNone p).cues = s.cues ∧
    (s.answerNone p).now = s.now ∧ (s.answerNone p).resetHeld = s.resetHeld ∧ (s.answerNone p).pending = s.pending := by
  unfold State.answerNone
  simp

@[simp] theorem State.loseAt_frame (s : State) (p : Port) (r : Record) (next : Option RecordId) :
    (s.loseAt p r next).links = s.links ∧ (s.loseAt p r next).timebase = s.timebase ∧ (s.loseAt p r next).take =
    s.take ∧ (s.loseAt p r next).framer = s.framer ∧ (s.loseAt p r next).mix = s.mix ∧ (s.loseAt p r next).engine =
    s.engine ∧ (s.loseAt p r next).rate = s.rate ∧ (s.loseAt p r next).store = s.store ∧ (s.loseAt p r next).cues =
    s.cues ∧ (s.loseAt p r next).now = s.now ∧ (s.loseAt p r next).resetHeld = s.resetHeld ∧ (s.loseAt p r
    next).pending = s.pending := by
  unfold State.loseAt
  split <;> simp

@[simp] theorem State.removeHead_frame (s : State) (f : Feed) :
    (s.removeHead f).links = s.links ∧ (s.removeHead f).timebase = s.timebase ∧ (s.removeHead f).take = s.take ∧
    (s.removeHead f).framer = s.framer ∧ (s.removeHead f).mix = s.mix ∧ (s.removeHead f).engine = s.engine ∧
    (s.removeHead f).rate = s.rate ∧ (s.removeHead f).cues = s.cues ∧ (s.removeHead f).now = s.now ∧ (s.removeHead
    f).resetHeld = s.resetHeld ∧ (s.removeHead f).pending = s.pending := by
  unfold State.removeHead
  split <;> simp

@[simp] theorem State.makeRoom_frame (s : State) (f : Feed) (pages steps : Nat) :
    (s.makeRoom f pages steps).links = s.links ∧ (s.makeRoom f pages steps).timebase = s.timebase ∧ (s.makeRoom f
    pages steps).take = s.take ∧ (s.makeRoom f pages steps).framer = s.framer ∧ (s.makeRoom f pages steps).mix =
    s.mix ∧ (s.makeRoom f pages steps).engine = s.engine ∧ (s.makeRoom f pages steps).rate = s.rate ∧ (s.makeRoom f
    pages steps).cues = s.cues ∧ (s.makeRoom f pages steps).now = s.now ∧ (s.makeRoom f pages steps).resetHeld =
    s.resetHeld ∧ (s.makeRoom f pages steps).pending = s.pending := by
  induction steps generalizing s with
  | zero => simp [State.makeRoom]
  | succ k ih => simp only [State.makeRoom]; split <;> simp [ih]

@[simp] theorem State.place_frame (s : State) (kind : RecordKind) (id : RecordId) (bytes : List Byte) :
    (s.place kind id bytes).links = s.links ∧ (s.place kind id bytes).timebase = s.timebase ∧ (s.place kind id
    bytes).take = s.take ∧ (s.place kind id bytes).framer = s.framer ∧ (s.place kind id bytes).mix = s.mix ∧
    (s.place kind id bytes).engine = s.engine ∧ (s.place kind id bytes).rate = s.rate ∧ (s.place kind id bytes).cues
    = s.cues ∧ (s.place kind id bytes).now = s.now ∧ (s.place kind id bytes).resetHeld = s.resetHeld ∧ (s.place kind
    id bytes).pending = s.pending := by
  unfold State.place
  simp

@[simp] theorem State.publishTo_frame (s : State) (p : Port) (id : RecordId) (size : Nat) :
    (s.publishTo p id size).links = s.links ∧ (s.publishTo p id size).timebase = s.timebase ∧ (s.publishTo p id
    size).take = s.take ∧ (s.publishTo p id size).framer = s.framer ∧ (s.publishTo p id size).mix = s.mix ∧
    (s.publishTo p id size).engine = s.engine ∧ (s.publishTo p id size).rate = s.rate ∧ (s.publishTo p id
    size).store = s.store ∧ (s.publishTo p id size).cues = s.cues ∧ (s.publishTo p id size).now = s.now ∧
    (s.publishTo p id size).resetHeld = s.resetHeld ∧ (s.publishTo p id size).pending = s.pending := by
  unfold State.publishTo
  repeat' first | (simp [*]; done) | split | (simp; split)

@[simp] theorem State.publish_frame (s : State) (f : Feed) :
    (s.publish f).links = s.links ∧ (s.publish f).timebase = s.timebase ∧ (s.publish f).take = s.take ∧ (s.publish
    f).framer = s.framer ∧ (s.publish f).mix = s.mix ∧ (s.publish f).engine = s.engine ∧ (s.publish f).rate = s.rate
    ∧ (s.publish f).cues = s.cues ∧ (s.publish f).now = s.now ∧ (s.publish f).resetHeld = s.resetHeld ∧ (s.publish
    f).pending = s.pending := by
  unfold State.publish
  repeat' first | (simp [*]; done) | split | (simp; split)

@[simp] theorem State.releaseCursor_frame (s : State) (p : Port) (id : RecordId) :
    (s.releaseCursor p id).links = s.links ∧ (s.releaseCursor p id).timebase = s.timebase ∧ (s.releaseCursor p
    id).take = s.take ∧ (s.releaseCursor p id).framer = s.framer ∧ (s.releaseCursor p id).mix = s.mix ∧
    (s.releaseCursor p id).engine = s.engine ∧ (s.releaseCursor p id).rate = s.rate ∧ (s.releaseCursor p id).cues =
    s.cues ∧ (s.releaseCursor p id).ports = s.ports ∧ (s.releaseCursor p id).now = s.now ∧ (s.releaseCursor p
    id).resetHeld = s.resetHeld ∧ (s.releaseCursor p id).pending = s.pending := by
  unfold State.releaseCursor
  simp

@[simp] theorem State.loseAllAt_frame (s : State) (p : Port) (held : List Record) :
    (s.loseAllAt p held).links = s.links ∧ (s.loseAllAt p held).timebase = s.timebase ∧ (s.loseAllAt p held).take =
    s.take ∧ (s.loseAllAt p held).framer = s.framer ∧ (s.loseAllAt p held).mix = s.mix ∧ (s.loseAllAt p held).engine
    = s.engine ∧ (s.loseAllAt p held).rate = s.rate ∧ (s.loseAllAt p held).store = s.store ∧ (s.loseAllAt p
    held).cues = s.cues ∧ (s.loseAllAt p held).now = s.now ∧ (s.loseAllAt p held).resetHeld = s.resetHeld ∧
    (s.loseAllAt p held).pending = s.pending := by
  unfold State.loseAllAt
  split <;> simp

@[simp] theorem State.reformRegions_frame (s : State) (ra rs : Nat) :
    (s.reformRegions ra rs).links = s.links ∧ (s.reformRegions ra rs).timebase = s.timebase ∧ (s.reformRegions ra
    rs).take = s.take ∧ (s.reformRegions ra rs).framer = s.framer ∧ (s.reformRegions ra rs).mix = s.mix ∧
    (s.reformRegions ra rs).engine = s.engine ∧ (s.reformRegions ra rs).rate = s.rate ∧ (s.reformRegions ra rs).cues
    = s.cues ∧ (s.reformRegions ra rs).now = s.now ∧ (s.reformRegions ra rs).resetHeld = s.resetHeld ∧
    (s.reformRegions ra rs).pending = s.pending := by
  unfold State.reformRegions
  simp

/-! ### The coding engine and the end of a take -/

@[simp] theorem State.toTake_frame (s : State) (st : TakeState) :
    (s.toTake st).links = s.links ∧ (s.toTake st).timebase = s.timebase ∧ (s.toTake st).framer = s.framer ∧
    (s.toTake st).mix = s.mix ∧ (s.toTake st).engine = s.engine ∧ (s.toTake st).rate = s.rate ∧ (s.toTake st).store
    = s.store ∧ (s.toTake st).feeds = s.feeds ∧ (s.toTake st).cues = s.cues ∧ (s.toTake st).now = s.now ∧ (s.toTake
    st).resetHeld = s.resetHeld ∧ (s.toTake st).pending = s.pending := by
  unfold State.toTake
  split <;> simp

@[simp] theorem State.endTake_frame (s : State) :
    s.endTake.links = s.links ∧ s.endTake.timebase = s.timebase ∧ s.endTake.framer = s.framer ∧ s.endTake.mix =
    s.mix ∧ s.endTake.rate = s.rate ∧ s.endTake.store = s.store ∧ s.endTake.feeds = s.feeds ∧ s.endTake.cues =
    s.cues ∧ s.endTake.now = s.now ∧ s.endTake.resetHeld = s.resetHeld ∧ s.endTake.pending = s.pending := by
  unfold State.endTake
  simp

@[simp] theorem State.requestEnd_frame (s : State) :
    s.requestEnd.links = s.links ∧ s.requestEnd.timebase = s.timebase ∧ s.requestEnd.take = s.take ∧
    s.requestEnd.framer = s.framer ∧ s.requestEnd.mix = s.mix ∧ s.requestEnd.rate = s.rate ∧ s.requestEnd.store =
    s.store ∧ s.requestEnd.feeds = s.feeds ∧ s.requestEnd.cues = s.cues ∧ s.requestEnd.ports = s.ports ∧
    s.requestEnd.now = s.now ∧ s.requestEnd.resetHeld = s.resetHeld ∧ s.requestEnd.pending = s.pending := by
  unfold State.requestEnd
  split <;> simp

@[simp] theorem State.decideStream_frame (s : State) (i : BufferId) :
    (s.decideStream i).links = s.links ∧ (s.decideStream i).timebase = s.timebase ∧ (s.decideStream i).take = s.take
    ∧ (s.decideStream i).framer = s.framer ∧ (s.decideStream i).mix = s.mix ∧ (s.decideStream i).store = s.store ∧
    (s.decideStream i).feeds = s.feeds ∧ (s.decideStream i).cues = s.cues ∧ (s.decideStream i).now = s.now ∧
    (s.decideStream i).resetHeld = s.resetHeld ∧ (s.decideStream i).pending = s.pending := by
  unfold State.decideStream
  simp only []
  split <;> simp

@[simp] theorem State.handOver_frame (s : State) (i : BufferId) :
    (s.handOver i).links = s.links ∧ (s.handOver i).timebase = s.timebase ∧ (s.handOver i).take = s.take ∧
    (s.handOver i).framer = s.framer ∧ (s.handOver i).mix = s.mix ∧ (s.handOver i).store = s.store ∧ (s.handOver
    i).feeds = s.feeds ∧ (s.handOver i).cues = s.cues ∧ (s.handOver i).now = s.now ∧ (s.handOver i).resetHeld =
    s.resetHeld ∧ (s.handOver i).pending = s.pending := by
  unfold State.handOver
  simp

@[simp] theorem State.placeNext_frame (s : State) :
    s.placeNext.links = s.links ∧ s.placeNext.timebase = s.timebase ∧ s.placeNext.take = s.take ∧ s.placeNext.framer
    = s.framer ∧ s.placeNext.mix = s.mix ∧ s.placeNext.engine = s.engine ∧ s.placeNext.rate = s.rate ∧
    s.placeNext.cues = s.cues ∧ s.placeNext.now = s.now ∧ s.placeNext.resetHeld = s.resetHeld ∧ s.placeNext.pending
    = s.pending := by
  unfold State.placeNext
  repeat' split
  all_goals simp

@[simp] theorem State.completeArchive_frame (s : State) :
    s.completeArchive.links = s.links ∧ s.completeArchive.timebase = s.timebase ∧ s.completeArchive.take = s.take ∧
    s.completeArchive.mix = s.mix ∧ s.completeArchive.rate = s.rate ∧ s.completeArchive.store = s.store ∧
    s.completeArchive.feeds = s.feeds ∧ s.completeArchive.cues = s.cues ∧ s.completeArchive.ports = s.ports ∧
    s.completeArchive.now = s.now ∧ s.completeArchive.resetHeld = s.resetHeld ∧ s.completeArchive.pending =
    s.pending := by
  unfold State.completeArchive
  split <;> simp

@[simp] theorem State.jobPublished_frame (s : State) (f : Feed) :
    (s.jobPublished f).links = s.links ∧ (s.jobPublished f).timebase = s.timebase ∧ (s.jobPublished f).mix = s.mix ∧
    (s.jobPublished f).rate = s.rate ∧ (s.jobPublished f).store = s.store ∧ (s.jobPublished f).feeds = s.feeds ∧
    (s.jobPublished f).cues = s.cues ∧ (s.jobPublished f).now = s.now ∧ (s.jobPublished f).resetHeld = s.resetHeld ∧
    (s.jobPublished f).pending = s.pending := by
  unfold State.jobPublished
  repeat' split
  all_goals simp

@[simp] theorem State.publishNext_frame (s : State) :
    s.publishNext.links = s.links ∧ s.publishNext.timebase = s.timebase ∧ s.publishNext.mix = s.mix ∧
    s.publishNext.rate = s.rate ∧ s.publishNext.cues = s.cues ∧ s.publishNext.now = s.now ∧ s.publishNext.resetHeld
    = s.resetHeld ∧ s.publishNext.pending = s.pending := by
  unfold State.publishNext
  repeat' split
  all_goals simp

@[simp] theorem State.finishJob_frame (s : State) :
    s.finishJob.links = s.links ∧ s.finishJob.timebase = s.timebase ∧ s.finishJob.mix = s.mix ∧ s.finishJob.rate =
    s.rate ∧ s.finishJob.cues = s.cues ∧ s.finishJob.now = s.now ∧ s.finishJob.resetHeld = s.resetHeld ∧
    s.finishJob.pending = s.pending := by
  unfold State.finishJob
  split <;> simp

@[simp] theorem State.finishJobs_frame (s : State) :
    s.finishJobs.links = s.links ∧ s.finishJobs.timebase = s.timebase ∧ s.finishJobs.mix = s.mix ∧ s.finishJobs.rate
    = s.rate ∧ s.finishJobs.cues = s.cues ∧ s.finishJobs.now = s.now ∧ s.finishJobs.resetHeld = s.resetHeld ∧
    s.finishJobs.pending = s.pending := by
  unfold State.finishJobs
  simp

@[simp] theorem State.endAtOnce_frame (s : State) :
    s.endAtOnce.links = s.links ∧ s.endAtOnce.timebase = s.timebase ∧ s.endAtOnce.mix = s.mix ∧ s.endAtOnce.rate =
    s.rate ∧ s.endAtOnce.cues = s.cues ∧ s.endAtOnce.now = s.now ∧ s.endAtOnce.resetHeld = s.resetHeld ∧
    s.endAtOnce.pending = s.pending := by
  unfold State.endAtOnce
  repeat' first | (simp [*]; done) | split | (simp; split)

@[simp] theorem State.discardGathering_frame (s : State) :
    s.discardGathering.links = s.links ∧ s.discardGathering.timebase = s.timebase ∧ s.discardGathering.mix = s.mix ∧
    s.discardGathering.engine = s.engine ∧ s.discardGathering.rate = s.rate ∧ s.discardGathering.store = s.store ∧
    s.discardGathering.feeds = s.feeds ∧ s.discardGathering.cues = s.cues ∧ s.discardGathering.ports = s.ports ∧
    s.discardGathering.now = s.now ∧ s.discardGathering.resetHeld = s.resetHeld ∧ s.discardGathering.pending =
    s.pending := by
  unfold State.discardGathering
  repeat' split
  all_goals simp

@[simp] theorem State.abortTake_frame (s : State) :
    s.abortTake.links = s.links ∧ s.abortTake.timebase = s.timebase ∧ s.abortTake.mix = s.mix ∧ s.abortTake.rate =
    s.rate ∧ s.abortTake.cues = s.cues ∧ s.abortTake.now = s.now ∧ s.abortTake.resetHeld = s.resetHeld ∧
    s.abortTake.pending = s.pending := by
  unfold State.abortTake
  split <;> simp

/-! ### The sample-period event -/

@[simp] theorem State.adoptRate_frame (s : State) :
    s.adoptRate.links = s.links ∧ s.adoptRate.take = s.take ∧ s.adoptRate.framer =
    s.framer ∧ s.adoptRate.mix = s.mix ∧ s.adoptRate.engine = s.engine ∧ s.adoptRate.rate = s.rate ∧ s.adoptRate.store = s.store ∧ s.adoptRate.feeds = s.feeds ∧
    s.adoptRate.cues = s.cues ∧ s.adoptRate.ports = s.ports ∧ s.adoptRate.now =
    s.now ∧ s.adoptRate.resetHeld = s.resetHeld ∧ s.adoptRate.pending = s.pending := by
  unfold State.adoptRate
  simp

@[simp] theorem State.closeTakeBlock_frame (s : State) (p : Nat) :
    (s.closeTakeBlock p).links = s.links ∧ (s.closeTakeBlock p).timebase = s.timebase ∧ (s.closeTakeBlock p).framer
    = s.framer ∧ (s.closeTakeBlock p).mix = s.mix ∧ (s.closeTakeBlock p).engine = s.engine ∧ (s.closeTakeBlock
    p).rate = s.rate ∧ (s.closeTakeBlock p).store = s.store ∧ (s.closeTakeBlock p).feeds = s.feeds ∧
    (s.closeTakeBlock p).cues = s.cues ∧ (s.closeTakeBlock p).now = s.now ∧ (s.closeTakeBlock p).resetHeld =
    s.resetHeld ∧ (s.closeTakeBlock p).pending = s.pending := by
  unfold State.closeTakeBlock
  repeat' first | (simp [*]; done) | split | (simp; split)

@[simp] theorem State.closeBlock_frame (s : State) (p : Nat) :
    (s.closeBlock p).links = s.links ∧ (s.closeBlock p).timebase = s.timebase ∧ (s.closeBlock p).mix = s.mix ∧
    (s.closeBlock p).store = s.store ∧ (s.closeBlock p).feeds = s.feeds ∧ (s.closeBlock p).cues = s.cues ∧
    (s.closeBlock p).now = s.now ∧ (s.closeBlock p).resetHeld = s.resetHeld ∧ (s.closeBlock p).pending = s.pending := by
  unfold State.closeBlock
  repeat' split
  all_goals simp

@[simp] theorem State.startTake_frame (s : State) (p : Nat) :
    (s.startTake p).links = s.links ∧ (s.startTake p).timebase = s.timebase ∧ (s.startTake p).framer = s.framer ∧
    (s.startTake p).mix = s.mix ∧ (s.startTake p).engine = s.engine ∧ (s.startTake p).store = s.store ∧ (s.startTake
    p).feeds = s.feeds ∧ (s.startTake p).cues = s.cues ∧ (s.startTake p).now = s.now ∧ (s.startTake p).resetHeld =
    s.resetHeld ∧ (s.startTake p).pending = s.pending := by
  unfold State.startTake
  split <;> simp

@[simp] theorem State.openBlock_frame (s : State) (p : Nat) :
    (s.openBlock p).links = s.links ∧ (s.openBlock p).timebase = s.timebase ∧ (s.openBlock p).take = s.take ∧
    (s.openBlock p).mix = s.mix ∧ (s.openBlock p).engine = s.engine ∧ (s.openBlock p).rate = s.rate ∧ (s.openBlock
    p).store = s.store ∧ (s.openBlock p).feeds = s.feeds ∧ (s.openBlock p).cues = s.cues ∧ (s.openBlock p).ports =
    s.ports ∧ (s.openBlock p).now = s.now ∧ (s.openBlock p).resetHeld = s.resetHeld ∧ (s.openBlock p).pending =
    s.pending := by
  unfold State.openBlock
  split <;> simp

@[simp] theorem State.countWait_frame (s : State) (p : Port) :
    (s.countWait p).links = s.links ∧ (s.countWait p).timebase = s.timebase ∧ (s.countWait p).take = s.take ∧
    (s.countWait p).framer = s.framer ∧ (s.countWait p).mix = s.mix ∧ (s.countWait p).engine = s.engine ∧
    (s.countWait p).rate = s.rate ∧ (s.countWait p).store = s.store ∧ (s.countWait p).cues = s.cues ∧ (s.countWait
    p).now = s.now ∧ (s.countWait p).resetHeld = s.resetHeld ∧ (s.countWait p).pending = s.pending := by
  unfold State.countWait
  repeat' split
  all_goals simp

@[simp] theorem State.endWait_frame (s : State) (p : Port) :
    (s.endWait p).links = s.links ∧ (s.endWait p).timebase = s.timebase ∧ (s.endWait p).take = s.take ∧ (s.endWait
    p).framer = s.framer ∧ (s.endWait p).mix = s.mix ∧ (s.endWait p).engine = s.engine ∧ (s.endWait p).rate = s.rate
    ∧ (s.endWait p).store = s.store ∧ (s.endWait p).cues = s.cues ∧ (s.endWait p).now = s.now ∧ (s.endWait
    p).resetHeld = s.resetHeld ∧ (s.endWait p).pending = s.pending := by
  unfold State.endWait
  split <;> simp

@[simp] theorem State.boundary_frame (s : State) (p : Nat) :
    (s.boundary p).links = s.links ∧ (s.boundary p).timebase = s.timebase ∧ (s.boundary p).cues = s.cues ∧
    (s.boundary p).now = s.now ∧ (s.boundary p).resetHeld = s.resetHeld ∧ (s.boundary p).pending = s.pending := by
  unfold State.boundary
  simp

@[simp] theorem State.atLastPosition_frame (s : State) :
    s.atLastPosition.links = s.links ∧ s.atLastPosition.timebase = s.timebase ∧ s.atLastPosition.mix = s.mix ∧
    s.atLastPosition.rate = s.rate ∧ s.atLastPosition.cues = s.cues ∧ s.atLastPosition.now = s.now ∧
    s.atLastPosition.resetHeld = s.resetHeld ∧ s.atLastPosition.pending = s.pending := by
  unfold State.atLastPosition
  simp

@[simp] theorem State.advancePosition_frame (s : State) :
    s.advancePosition.links = s.links ∧ s.advancePosition.cues = s.cues ∧ s.advancePosition.now = s.now ∧
    s.advancePosition.resetHeld = s.resetHeld ∧ s.advancePosition.pending = s.pending := by
  unfold State.advancePosition
  repeat' split
  all_goals simp

@[simp] theorem State.samplePeriod_frame (s : State) (refTimed : Bool) :
    (s.samplePeriod refTimed id).cues = s.cues ∧ (s.samplePeriod refTimed id).now = s.now ∧
    (s.samplePeriod refTimed id).resetHeld = s.resetHeld ∧ (s.samplePeriod refTimed id).pending = s.pending := by
  unfold State.samplePeriod
  simp

/-! ### The ports and the cue list -/

@[simp] theorem State.answer_frame (s : State) (p : Port) (a : Answer) :
    (s.answer p a).links = s.links ∧ (s.answer p a).timebase = s.timebase ∧ (s.answer p a).take = s.take ∧ (s.answer
    p a).framer = s.framer ∧ (s.answer p a).mix = s.mix ∧ (s.answer p a).engine = s.engine ∧ (s.answer p a).rate =
    s.rate ∧ (s.answer p a).store = s.store ∧ (s.answer p a).feeds = s.feeds ∧ (s.answer p a).cues = s.cues ∧
    (s.answer p a).now = s.now ∧ (s.answer p a).resetHeld = s.resetHeld ∧ (s.answer p a).pending = s.pending := by
  unfold State.answer
  split <;> simp

@[simp] theorem State.frameFails_frame (s : State) (p : Port) (clocks : List Lanes) :
    (s.frameFails p clocks).links = s.links ∧ (s.frameFails p clocks).timebase = s.timebase ∧ (s.frameFails p
    clocks).take = s.take ∧ (s.frameFails p clocks).framer = s.framer ∧ (s.frameFails p clocks).mix = s.mix ∧
    (s.frameFails p clocks).engine = s.engine ∧ (s.frameFails p clocks).rate = s.rate ∧ (s.frameFails p
    clocks).store = s.store ∧ (s.frameFails p clocks).feeds = s.feeds ∧ (s.frameFails p clocks).cues = s.cues ∧
    (s.frameFails p clocks).now = s.now ∧ (s.frameFails p clocks).resetHeld = s.resetHeld ∧ (s.frameFails p
    clocks).pending = s.pending := by
  unfold State.frameFails
  split <;> simp

@[simp] theorem State.send_frame (s : State) (p : Port) (n : List Lanes) :
    (s.send p n).links = s.links ∧ (s.send p n).timebase = s.timebase ∧ (s.send p n).take = s.take ∧ (s.send p
    n).framer = s.framer ∧ (s.send p n).mix = s.mix ∧ (s.send p n).engine = s.engine ∧ (s.send p n).rate = s.rate ∧
    (s.send p n).store = s.store ∧ (s.send p n).cues = s.cues ∧ (s.send p n).now = s.now ∧ (s.send p n).resetHeld =
    s.resetHeld ∧ (s.send p n).pending = s.pending := by
  unfold State.send
  simp only []
  split <;> simp

@[simp] theorem State.dropResponse_frame (s : State) (p : Port) :
    (s.dropResponse p).links = s.links ∧ (s.dropResponse p).timebase = s.timebase ∧ (s.dropResponse p).take = s.take
    ∧ (s.dropResponse p).framer = s.framer ∧ (s.dropResponse p).mix = s.mix ∧ (s.dropResponse p).engine = s.engine ∧
    (s.dropResponse p).rate = s.rate ∧ (s.dropResponse p).store = s.store ∧ (s.dropResponse p).cues = s.cues ∧
    (s.dropResponse p).now = s.now ∧ (s.dropResponse p).resetHeld = s.resetHeld ∧ (s.dropResponse p).pending =
    s.pending := by
  unfold State.dropResponse
  simp

@[simp] theorem State.codelessTransfer_frame (s : State) (p : Port) (n : Nat) :
    (s.codelessTransfer p n).links = s.links ∧ (s.codelessTransfer p n).timebase = s.timebase ∧ (s.codelessTransfer p
    n).take = s.take ∧ (s.codelessTransfer p n).framer = s.framer ∧ (s.codelessTransfer p n).mix = s.mix ∧
    (s.codelessTransfer p n).engine = s.engine ∧ (s.codelessTransfer p n).rate = s.rate ∧ (s.codelessTransfer p
    n).store = s.store ∧ (s.codelessTransfer p n).feeds = s.feeds ∧ (s.codelessTransfer p n).cues = s.cues ∧
    (s.codelessTransfer p n).now = s.now ∧ (s.codelessTransfer p n).resetHeld = s.resetHeld ∧
    (s.codelessTransfer p n).pending = s.pending := by
  unfold State.codelessTransfer
  split <;> simp

@[simp] theorem State.frameStart_frame (s : State) (p : Port) (clocks : List Lanes) (ended : Bool) :
    (s.frameStart p clocks ended).links = s.links ∧ (s.frameStart p clocks ended).timebase = s.timebase ∧
    (s.frameStart p clocks ended).take = s.take ∧ (s.frameStart p clocks ended).framer = s.framer ∧ (s.frameStart p
    clocks ended).mix = s.mix ∧ (s.frameStart p clocks ended).engine = s.engine ∧ (s.frameStart p clocks ended).rate
    = s.rate ∧ (s.frameStart p clocks ended).store = s.store ∧ (s.frameStart p clocks ended).cues = s.cues ∧
    (s.frameStart p clocks ended).now = s.now ∧ (s.frameStart p clocks ended).resetHeld = s.resetHeld ∧
    (s.frameStart p clocks ended).pending = s.pending := by
  unfold State.frameStart
  repeat' first | (simp [*]; done) | split | (simp; split)

@[simp] theorem State.readTransfer_frame (s : State) (p : Port) (clocks : List Lanes) :
    (s.readTransfer p clocks).links = s.links ∧ (s.readTransfer p clocks).timebase = s.timebase ∧ (s.readTransfer p
    clocks).take = s.take ∧ (s.readTransfer p clocks).framer = s.framer ∧ (s.readTransfer p clocks).mix = s.mix ∧
    (s.readTransfer p clocks).engine = s.engine ∧ (s.readTransfer p clocks).rate = s.rate ∧ (s.readTransfer p
    clocks).store = s.store ∧ (s.readTransfer p clocks).cues = s.cues ∧ (s.readTransfer p clocks).now = s.now ∧
    (s.readTransfer p clocks).resetHeld = s.resetHeld ∧ (s.readTransfer p clocks).pending = s.pending := by
  unfold State.readTransfer
  repeat' first | (simp [*]; done) | split | (simp; split)

@[simp] theorem State.endResponse_frame (s : State) (p : Port) (clocks : List Lanes) :
    (s.endResponse p clocks).links = s.links ∧ (s.endResponse p clocks).timebase = s.timebase ∧ (s.endResponse p
    clocks).take = s.take ∧ (s.endResponse p clocks).framer = s.framer ∧ (s.endResponse p clocks).mix = s.mix ∧
    (s.endResponse p clocks).engine = s.engine ∧ (s.endResponse p clocks).rate = s.rate ∧ (s.endResponse p
    clocks).store = s.store ∧ (s.endResponse p clocks).cues = s.cues ∧ (s.endResponse p clocks).now = s.now ∧
    (s.endResponse p clocks).resetHeld = s.resetHeld ∧ (s.endResponse p clocks).pending = s.pending := by
  unfold State.endResponse
  simp only []
  split <;> simp

@[simp] theorem State.takeFaultRequest_frame (s : State) :
    s.takeFaultRequest.links = s.links ∧ s.takeFaultRequest.timebase = s.timebase ∧ s.takeFaultRequest.take = s.take
    ∧ s.takeFaultRequest.framer = s.framer ∧ s.takeFaultRequest.mix = s.mix ∧ s.takeFaultRequest.engine = s.engine ∧
    s.takeFaultRequest.rate = s.rate ∧ s.takeFaultRequest.store = s.store ∧ s.takeFaultRequest.feeds = s.feeds ∧
    s.takeFaultRequest.now = s.now ∧ s.takeFaultRequest.resetHeld = s.resetHeld ∧ s.takeFaultRequest.pending =
    s.pending := by
  unfold State.takeFaultRequest
  repeat' first | (simp [*]; done) | split | (simp; split)

end Sys2Proof.Machine
end

