-- ==== Sys2Proof/Laws/Clock.lean ====
section
/-! SUPPORT. What the operations of the timebase do: FAULT requests, changes of timebase state, bad periods, and the moments
of late periods and absences. -/

namespace Sys2Proof.Machine

/-- R137: everything a FAULT request does: in ROLLING and CLOSING it joins the queue, unless that holds 8. -/
theorem State.requestFault_eq (s : State) (label : List Byte) :
    s.requestFault label = { s with
      cues := if takeRunning s.take = true ∧ s.cues.requests.length < 8 then
        { s.cues with requests := s.cues.requests ++ [⟨label, s.timebase.position⟩] } else s.cues } := by
  by_cases h1 : takeRunning s.take = true <;> by_cases h2 : s.cues.requests.length < 8 <;>
    simp [State.requestFault, Cues.request, h1, h2]

/-- R13, R28, R137: a FAULT request changes the request queue alone. -/
theorem State.requestFault_cuesAsked (s : State) (label : List Byte) :
    s.requestFault label = { s with cues := s.cuesAsked s.cues label } := by
  rw [State.requestFault_eq]
  cases h : s.take.state <;> simp [State.cuesAsked, takeRunning, h]

/-- R30: no change of timebase state raises nothing. -/
theorem State.toClock_same {s : State} {c : ClockState} (h : s.timebase.clock = c) : s.toClock c = s := by
  simp [State.toClock, h]

/-- R30: a change of timebase state raises CLOCK_CHANGE at every port. -/
theorem State.toClock_change {s : State} {c : ClockState} (h : s.timebase.clock ≠ c) :
    s.toClock c =
      { s with timebase := { s.timebase with clock := c }, ports := s.portsRaised .clockChange } := by
  simp only [State.toClock, if_neg h]
  rfl

/-- R28, R165: everything an entry to HOLDOVER does. -/
theorem State.enterHoldover_eq {s : State} (h : s.timebase.clock ≠ .holdover) (t : Nat) :
    s.enterHoldover t = { s with
      timebase := { s.timebase with
        clock := .holdover, goodCount := 0, edgesDue := []
        nextOscillator := max (s.timebase.lastSample + s.timebase.nominal) t }
      cues := if takeRunning s.take = true ∧ s.cues.requests.length < 8 then
        { s.cues with requests := s.cues.requests ++ [⟨clockHoldLabel, s.timebase.position⟩] } else s.cues
      ports := s.portsRaised .clockChange } := by
  simp only [State.enterHoldover, State.toClock_change h, State.requestFault_eq]

/-- R24: a bad period in FREE and HOLDOVER does nothing. -/
theorem State.badPeriod_idle {s : State} (h : s.timebase.clock = .free ∨ s.timebase.clock = .holdover) (t : Nat) :
    s.badPeriod t = s := by
  rcases h with h | h <;> simp [State.badPeriod, h]

/-- R26: a bad period in ACQUIRE takes the count back to 0. -/
theorem State.badPeriod_acquire {s : State} (h : s.timebase.clock = .acquire) (t : Nat) :
    s.badPeriod t = { s with timebase := { s.timebase with goodCount := 0 } } := by
  simp only [State.badPeriod, h]

/-- R27: a bad period in LOCKED enters HOLDOVER. -/
theorem State.badPeriod_locked {s : State} (h : s.timebase.clock = .locked) (t : Nat) :
    s.badPeriod t = s.enterHoldover t := by
  simp only [State.badPeriod, h]

/-- R24: the late period comes nominal + 17 ticks after the last edge. -/
theorem Timebase.lateBy?_eq_some {tb : Timebase} {t m : Nat} :
    tb.lateBy? t = some m ↔
      ∃ e, tb.lastEdge = some e ∧ tb.reference ≠ .none ∧ m = e + tb.nominal + 17 ∧ m ≤ t := by
  unfold Timebase.lateBy?
  cases tb.lastEdge with
  | none => simp
  | some e =>
    simp only [Option.some.injEq, exists_eq_left']
    split
    · next h =>
      constructor
      · intro hm; cases hm; exact ⟨h.1, rfl, h.2⟩
      · rintro ⟨-, rfl, -⟩; rfl
    · next h =>
      simp only [false_iff, reduceCtorEq]
      rintro ⟨h1, rfl, h2⟩
      exact h ⟨h1, h2⟩

/-- R24: no late period has come before nominal + 17 ticks. -/
theorem Timebase.lateBy?_none_of_lt {tb : Timebase} {t e : Nat} (he : tb.lastEdge = some e)
    (ht : t < e + tb.nominal + 17) : tb.lateBy? t = none := by
  simp only [Timebase.lateBy?, he]
  exact if_neg fun h => by omega

/-- R24: without a last edge there is no late period. -/
theorem Timebase.lateBy?_none_of_noEdge {tb : Timebase} (he : tb.lastEdge = none) (t : Nat) : tb.lateBy? t = none := by
  simp only [Timebase.lateBy?, he]

/-- R24: the absence comes 2 × nominal ticks after the absence start. -/
theorem Timebase.absentBy?_eq_some {tb : Timebase} {t m : Nat} :
    tb.absentBy? t = some m ↔ tb.reference ≠ .none ∧ m = tb.absenceStart + 2 * tb.nominal ∧ m ≤ t := by
  unfold Timebase.absentBy?
  split
  · next h =>
    simp only [Option.some.injEq]
    constructor
    · intro hm; cases hm; exact ⟨h.1, rfl, h.2⟩
    · rintro ⟨-, rfl, -⟩; rfl
  · next h =>
    simp only [false_iff, reduceCtorEq]
    rintro ⟨h1, rfl, h2⟩
    exact h ⟨h1, h2⟩

/-- R23: a reference edge with no late period come: the period is judged, and measurement starts anew. -/
theorem State.referenceEdge_eq {s : State} {e : Nat} (h : s.timebase.lateBy? e = none) :
    s.referenceEdge e =
      { s.judgeEdge e with
        timebase := { (s.judgeEdge e).timebase with lastEdge := some e, absenceStart := e } } := by
  simp only [State.referenceEdge, h]

/-- R159, log 15: outside RESET an event of a block has its effect at the moment reached. -/
theorem State.eventAt_running {s : State} (h : s.resetHeld = false) (t : Nat) (effect : State → State) :
    s.eventAt t effect = effect (s.advance t) := by
  simp [State.eventAt, h]

/-- R159: while RESET is held only the time moves. -/
theorem State.eventAt_held {s : State} (h : s.resetHeld = true) (t : Nat) (effect : State → State) :
    s.eventAt t effect = s.advance t := by
  simp [State.eventAt, h]

end Sys2Proof.Machine
end

