-- ==== Sys2Proof/Laws/Coder.lean ====
section
/-! SUPPORT. What the block coder writes: the lengths of codes, sections, headers and cue entries, and the parts of a Rice
code. -/

namespace Sys2Proof.Machine

/-! ### Requantization (R86) -/

theorem requantize_zero (x : Int) : requantize 0 x = x := by simp [requantize]

theorem requantize_pos {s : Nat} (h : s ≠ 0) (x : Int) :
    requantize s x = min ((x + 2 ^ (s - 1)) / 2 ^ s) (2 ^ (23 - s) - 1) := by simp [requantize, h]

/-! ### Residuals (R87) -/

theorem length_residualsAfter (k : Nat) (ys : List Int) :
    ∀ y1 y2 y3, (residualsAfter k y1 y2 y3 ys).length = ys.length := by
  induction ys with
  | nil => intros; rfl
  | cons y ys ih => intro y1 y2 y3; simp [residualsAfter, ih]

@[simp] theorem length_residuals (k : Nat) (ys : List Int) : (residuals k ys).length = ys.length :=
  length_residualsAfter k ys 0 0 0

theorem chosenOrder_le (ys : List Int) : chosenOrder ys ≤ 3 := by
  unfold chosenOrder
  simp only [List.foldl]
  split <;> split <;> split <;> decide

/-- R89: the Rice parameter is at most 26. -/
theorem riceParameter_le (part : List Int) : riceParameter part ≤ 26 := by
  simp only [riceParameter]
  split
  · omega
  · exact Nat.min_le_right _ _

/-! ### Codes (R90) -/

/-- R90: the index of a residual is twice its size, less one below zero. -/
theorem riceIndex_eq (e : Int) : (0 ≤ e ∧ riceIndex e = 2 * e.natAbs) ∨ (e < 0 ∧ riceIndex e + 1 = 2 * e.natAbs) := by
  unfold riceIndex
  split
  · left; omega
  · right; omega

/-- R90: an index of a residual of at most 2^26 fits the 28 bits of an escape. -/
theorem riceIndex_lt {e : Int} (h : e.natAbs ≤ 2 ^ 26) : riceIndex e < 2 ^ 28 := by
  rcases riceIndex_eq e with h1 | h1 <;> omega

/-- R90: the length of a code. -/
@[simp] theorem length_riceCode (r : Nat) (e : Int) : (riceCode r e).length = riceLength r e := by
  simp only [riceCode, riceLength]
  split
  · simp; omega
  · simp

/-- R90: the lengths of the codes of a partition. -/
theorem length_flatMap_riceCode (r : Nat) (es : List Int) :
    (es.flatMap (riceCode r)).length = (es.map (riceLength r)).sum := by
  simp [List.length_flatMap]

/-! ### Sections (R85, R92, R162) -/

@[simp] theorem length_channelFlags (g : GatherBuffer) (c : Source) : (channelFlags g c).length = 5 := by
  cases c <;> rfl

theorem length_sectionHeader (c : Source) (s : Nat) (flags : List Bool) (ys : List Int) :
    (sectionHeader c s flags ys).length = 27 + flags.length := by
  simp [sectionHeader]; omega

/-- R85: a channel gives a sample for each sample period of the block. -/
@[simp] theorem length_channel (g : GatherBuffer) (c : Source) (n : Nat) : (g.channel c n).length = n := by
  simp [GatherBuffer.channel]; omega

@[simp] theorem length_quantized (g : GatherBuffer) (n s : Nat) (c : Source) : (quantized g n s c).length = n := by
  simp [quantized]

/-- R90, R92: the codes of a channel take as many bits as its Rice cost. -/
theorem length_riceBody (k : Nat) (ys : List Int) : (riceBody k ys).length = riceCost k ys := by
  simp only [riceBody, riceCost, List.length_flatMap]
  simp

/-! ### Records (R93, R161) -/

@[simp] theorem length_headerBytes (h : Header) : h.bytes.length = 32 := by simp [Header.bytes]

@[simp] theorem length_labelBytes (label : List Byte) : (labelBytes label).length = 10 := by
  simp [labelBytes]; omega

@[simp] theorem length_cueEntryBytes (start : Nat) (c : Cue) : (cueEntryBytes start c).length = 16 := by
  simp [cueEntryBytes]

@[simp] theorem length_cueListBytes (c : Cue) : (cueListBytes c).length = 20 := by simp [cueListBytes]

end Sys2Proof.Machine
end

