-- ==== Sys2Proof/Laws/Cues.lean ====
section
/-! SUPPORT. What the operations of the cue list do: the order of the list, the insertion of an entry in its place, and the
search for a free id (R130, R131). -/

namespace Sys2Proof.Machine

/-! ### The order (R130) -/

theorem cueBefore_iff {a b : Cue} :
    cueBefore a b = true ↔ a.position < b.position ∨ (a.position = b.position ∧ a.id < b.id) := by
  simp [cueBefore]

theorem cueBefore_trans {a b c : Cue} (h1 : cueBefore a b = true) (h2 : cueBefore b c = true) :
    cueBefore a c = true := by
  rw [cueBefore_iff] at *
  omega

/-- Two cues of different ids are in one order or the other. -/
theorem cueBefore_total {a b : Cue} (hid : a.id ≠ b.id) (h : cueBefore a b ≠ true) : cueBefore b a = true := by
  rw [ne_eq, cueBefore_iff] at h
  rw [cueBefore_iff]
  omega

/-! ### Insertion (R130) -/

/-- Everything an insertion does: the new entry stands where the list is split into the entries before it and the rest, of
which it precedes the first. -/
theorem insertCue_split (c : Cue) (l : List Cue) :
    ∃ before after, l = before ++ after ∧ insertCue c l = before ++ c :: after ∧
      (∀ x ∈ before, cueBefore c x ≠ true) ∧ (∀ x, after.head? = some x → cueBefore c x = true) := by
  induction l with
  | nil => exact ⟨[], [], rfl, rfl, by simp, by simp⟩
  | cons d rest ih =>
    by_cases h : cueBefore c d = true
    · exact ⟨[], d :: rest, rfl, by simp [insertCue, h], by simp, by simpa using h⟩
    · obtain ⟨before, after, h1, h2, h3, h4⟩ := ih
      exact ⟨d :: before, after, by simp [h1], by simp [insertCue, h, h2], by
        rintro x hx
        rcases List.mem_cons.1 hx with rfl | hx
        · exact h
        · exact h3 x hx, h4⟩

/-- In an ordered list of entries with other ids, an insertion splits the list into the entries before the new one and those
after it. -/
theorem insertCue_ordered {c : Cue} {l : List Cue} (hl : l.Pairwise fun a b => cueBefore a b = true)
    (hid : ∀ x ∈ l, x.id ≠ c.id) :
    ∃ before after, l = before ++ after ∧ insertCue c l = before ++ c :: after ∧
      (∀ x ∈ before, cueBefore x c = true) ∧ (∀ x ∈ after, cueBefore c x = true) := by
  obtain ⟨before, after, h1, h2, h3, h4⟩ := insertCue_split c l
  subst h1
  refine ⟨before, after, rfl, h2, fun x hx => cueBefore_total (hid x (by simp [hx])).symm (h3 x hx), ?_⟩
  cases after with
  | nil => simp
  | cons d rest =>
    intro x hx
    have hd : cueBefore c d = true := h4 d rfl
    rcases List.mem_cons.1 hx with rfl | hx
    · exact hd
    · have hp := (List.pairwise_append.1 hl).2.1
      exact cueBefore_trans hd (List.rel_of_pairwise_cons hp hx)

@[simp] theorem length_insertCue (c : Cue) (l : List Cue) : (insertCue c l).length = l.length + 1 := by
  obtain ⟨before, after, h1, h2, -⟩ := insertCue_split c l
  rw [h2, h1]
  simp
  omega

theorem mem_insertCue {c x : Cue} {l : List Cue} : x ∈ insertCue c l ↔ x = c ∨ x ∈ l := by
  obtain ⟨before, after, h1, h2, -⟩ := insertCue_split c l
  rw [h2, h1]
  simp
  tauto

/-! ### Ids (R131) -/

/-- R131: the id `k` steps on from `n`. -/
theorem iterate_idAfter {n : Nat} (hn : 1 ≤ n) (hn' : n ≤ 65535) (k : Nat) :
    idAfter^[k] n = (n - 1 + k) % 65535 + 1 := by
  induction k with
  | zero => simp; omega
  | succ k ih =>
    rw [Function.iterate_succ_apply', ih]
    unfold idAfter
    split <;> omega

/-- R131: the search answers the first id of its steps that no entry holds, if one of them is free. -/
theorem freeIdFrom_spec (entries : List Cue) :
    ∀ steps n, (∃ k, k < steps ∧ ∀ x ∈ entries, x.id ≠ idAfter^[k] n) →
      (∀ x ∈ entries, x.id ≠ freeIdFrom entries steps n) ∧ ∃ k, k < steps ∧ freeIdFrom entries steps n = idAfter^[k] n ∧
        ∀ m, m < k → ∃ x ∈ entries, x.id = idAfter^[m] n := by
  intro steps
  induction steps with
  | zero => rintro n ⟨k, hk, -⟩; omega
  | succ steps ih =>
    rintro n ⟨k, hk, hfree⟩
    unfold freeIdFrom
    split
    · next h =>
      simp only [List.any_eq_true, beq_iff_eq] at h
      have hk0 : k ≠ 0 := by
        rintro rfl
        obtain ⟨x, hx, hxn⟩ := h
        exact hfree x hx hxn
      obtain ⟨j, rfl⟩ := Nat.exists_eq_succ_of_ne_zero hk0
      obtain ⟨h1, i, hi, h2, h3⟩ := ih (idAfter n) ⟨j, by omega, by simpa using hfree⟩
      refine ⟨h1, i + 1, by omega, by simpa using h2, fun m hm => ?_⟩
      cases m with
      | zero => exact h
      | succ m => simpa using h3 m (by omega)
    · next h =>
      simp only [List.any_eq_true, beq_iff_eq, not_exists, not_and] at h
      exact ⟨h, 0, by omega, rfl, by simp⟩

/-- R131: with fewer than 129 entries, one of 129 ids in turn is free. -/
theorem exists_free_id {entries : List Cue} (hlen : entries.length < 129) {n : Nat} (hn : 1 ≤ n) (hn' : n ≤ 65535) :
    ∃ k, k < 129 ∧ ∀ x ∈ entries, x.id ≠ idAfter^[k] n := by
  by_contra hc
  push Not at hc
  have hsub : (Finset.range 129).image (fun k => idAfter^[k] n) ⊆ (entries.map Cue.id).toFinset := by
    intro y hy
    simp only [Finset.mem_image, Finset.mem_range] at hy
    obtain ⟨k, hk, rfl⟩ := hy
    obtain ⟨x, hx, he⟩ := hc k hk
    simp only [List.mem_toFinset, List.mem_map]
    exact ⟨x, hx, he⟩
  have hcard := Finset.card_le_card hsub
  rw [Finset.card_image_of_injOn, Finset.card_range] at hcard
  · have h := List.toFinset_card_le (entries.map Cue.id)
    rw [List.length_map] at h
    omega
  · intro a ha b hb hab
    simp only [Finset.coe_range, Set.mem_Iio] at ha hb
    simp only [iterate_idAfter hn hn'] at hab
    omega

/-- R131: the id a new entry takes is held by no entry, and is an id. -/
theorem Cues.newId_spec {c : Cues} (hlen : c.entries.length < 129) (hn : 1 ≤ c.nextId) (hn' : c.nextId ≤ 65535) :
    (∀ x ∈ c.entries, x.id ≠ c.newId) ∧ 1 ≤ c.newId ∧ c.newId ≤ 65535 := by
  obtain ⟨h1, k, -, h2, -⟩ := freeIdFrom_spec c.entries 129 c.nextId (exists_free_id hlen hn hn')
  refine ⟨h1, ?_⟩
  unfold Cues.newId
  rw [h2, iterate_idAfter hn hn']
  omega

/-- R131: a free counter's id is taken. -/
theorem Cues.newId_of_free {c : Cues} (h : ∀ x ∈ c.entries, x.id ≠ c.nextId) : c.newId = c.nextId := by
  unfold Cues.newId freeIdFrom
  rw [if_neg]
  simpa using h

end Sys2Proof.Machine
end

