-- ==== Sys2Proof/Laws/Links.lean ====
section
/-! SUPPORT. What the operations of a stage link receiver do: the moment of the edge timeout, the end of a bad frame and of
a good one in each lock state, departures, and the fields of a slot. -/

namespace Sys2Proof.Machine

/-! ### Edge timeout (R3) -/

/-- R3: the edge timeout comes `timeout` + 1 ticks after the most recent transition, once per silence, on an enabled
link. -/
theorem LinkRx.timeoutBy?_eq_some {r : LinkRx} {t m : Nat} :
    r.timeoutBy? t = some m ↔
      r.enabled = true ∧ r.timedOut = false ∧ m = r.quietSince + r.settings.timeout + 1 ∧ m ≤ t := by
  unfold LinkRx.timeoutBy?
  split
  · next h =>
    simp only [Bool.and_eq_true, decide_eq_true_eq, Bool.not_eq_true'] at h
    simp only [Option.some.injEq]
    constructor
    · intro hm; cases hm; exact ⟨h.1.1, h.1.2, rfl, h.2⟩
    · rintro ⟨-, -, rfl, -⟩; rfl
  · next h =>
    simp only [Bool.and_eq_true, decide_eq_true_eq, Bool.not_eq_true'] at h
    simp only [false_iff, reduceCtorEq]
    rintro ⟨h1, h2, rfl, h3⟩
    exact h ⟨⟨h1, h2⟩, h3⟩

/-- R3: before that moment no timeout has come. -/
theorem LinkRx.timeoutBy?_none_of_lt {r : LinkRx} {t : Nat} (h : t < r.quietSince + r.settings.timeout + 1) :
    r.timeoutBy? t = none := by
  unfold LinkRx.timeoutBy?
  rw [if_neg]
  simp only [Bool.and_eq_true, decide_eq_true_eq, not_and]
  intro; omega

/-- R3: a link whose timeout has not come is left as it is. -/
theorem State.silence_none {s : State} {l : LinkId} (h : (s.link l).timeoutBy? s.now = none) : s.silence l = s := by
  simp [State.silence, h]

/-- R3: a link whose timeout has come takes it at its moment. -/
theorem State.silence_some {s : State} {l : LinkId} {m : Nat} (h : (s.link l).timeoutBy? s.now = some m) :
    s.silence l = s.takeTimeout l m := by simp [State.silence, h]

/-! ### Lock states (R7, R8, R11 to R13) -/

/-- R11: a bad frame in SYNC: back to HUNT. -/
theorem State.badFrame_sync {s : State} {l : LinkId} (h : (s.link l).lock = .sync) (t : Nat) :
    s.badFrame l t = s.setLink l { s.link l with
      lock := .hunt, goodRun := 0, phase := .waitMark, markDue := false, frame := none
      counters := (s.link l).counters.addBadFrame } := by
  simp [State.badFrame, LinkRx.resetAssembler, h]

/-- R12: a first or second bad frame in a row in LOCKED. -/
theorem State.badFrame_locked {s : State} {l : LinkId} (h : (s.link l).lock = .locked) (hr : (s.link l).badRun < 2)
    (t : Nat) :
    s.badFrame l t = s.setLink l { s.link l with
      badRun := (s.link l).badRun + 1, phase := .waitMark, markDue := false, frame := none
      counters := (s.link l).counters.addBadFrame } := by
  have h3 : (s.link l).badRun + 1 < 3 := by omega
  simp [State.badFrame, LinkRx.resetAssembler, h, h3]

/-- R12, R13: the third bad frame in a row in LOCKED: the link departs to HUNT. -/
theorem State.badFrame_departs {s : State} {l : LinkId} (h : (s.link l).lock = .locked) (hr : 2 ≤ (s.link l).badRun)
    (t : Nat) :
    s.badFrame l t = (s.setLink l { s.link l with
      lock := .hunt, fifo := [], ready := false, lastFrame := none, badRun := 0
      phase := .waitMark, markDue := false, frame := none
      counters := (s.link l).counters.addBadFrame.addLockLoss }).announceDeparture l t := by
  have h3 : ¬ (s.link l).badRun + 1 < 3 := by omega
  simp [State.badFrame, LinkRx.resetAssembler, h, h3, State.departLink, LinkRx.depart]

/-- R12, R15: a good frame in LOCKED joins the FIFO; a slip drop is reported. -/
theorem State.goodFrame_locked {s : State} {l : LinkId} (h : (s.link l).lock = .locked) (f : LinkFrame) :
    s.goodFrame l f =
      let s1 := s.setLink l { (s.link l).afterGoodFrame.arrive f with badRun := 0 }
      if 8 ≤ (s.link l).fifo.length then s1.reportSlip l else s1 := by
  simp [State.goodFrame, LinkRx.afterGoodFrame, h, LinkRx.arrivalDrops]

/-- R11: a good frame in SYNC counts toward lock. -/
theorem State.goodFrame_sync {s : State} {l : LinkId} (h : (s.link l).lock = .sync) (f : LinkFrame) :
    s.goodFrame l f =
      if (s.link l).goodRun + 1 < 4 then
        s.setLink l { (s.link l).afterGoodFrame with goodRun := (s.link l).goodRun + 1 }
      else (s.setLink l (s.link l).afterGoodFrame.enterLocked).raiseAll .linkChange := by
  simp [State.goodFrame, LinkRx.afterGoodFrame, h]

/-- R7: a MARK where none is due, in SYNC: the bad frame alone. -/
theorem State.unexpectedMark_sync {s : State} {l : LinkId} (h : (s.link l).lock = .sync) (start t : Nat) :
    s.unexpectedMark l start t = s.badFrame l t := by
  simp [State.unexpectedMark, State.badFrame_sync h]

/-- R7, R12: a MARK where none is due, in LOCKED, with fewer than two bad frames before: the bad frame, and a new frame. -/
theorem State.unexpectedMark_locked {s : State} {l : LinkId} (h : (s.link l).lock = .locked) (hr : (s.link l).badRun < 2)
    (start t : Nat) : s.unexpectedMark l start t = (s.badFrame l t).beginFrame l start := by
  simp [State.unexpectedMark, State.badFrame_locked h hr, h]

/-- R13: a departure from LOCKED touches the receiver, and what `announceDeparture` touches. -/
theorem State.departLink_eq (s : State) (l : LinkId) (target : LockState) (t : Nat) :
    s.departLink l target t = (s.setLink l ((s.link l).depart target)).announceDeparture l t := rfl

/-! ### Slots (R160) -/

/-- R160: a sample read from 24 cells is the sample they were made from. -/
theorem sample_of_cells (x : Sample) : BitVec.ofNat 24 (numberOfBits (bitsOf 24 x.toNat)) = x := by
  rw [numberOfBits_bitsOf_of_lt (by have := x.isLt; omega)]
  simp

/-- The first 24 cells of a slot are the sample's. -/
theorem take_slotCells (e : SlotEntry) (tag : Nat) : (slotCells e tag).take 24 = bitsOf 24 e.sample.toNat := by
  unfold slotCells
  rw [List.append_assoc, List.take_append_of_le_length (by simp)]
  exact List.take_of_length_le (by simp)

/-- The last four cells of a slot are the tag's. -/
theorem drop_slotCells (e : SlotEntry) (tag : Nat) : (slotCells e tag).drop 26 = bitsOf 4 tag := by
  unfold slotCells
  rw [List.drop_append]
  simp

/-- Cells 24 and 25 of a slot are valid and overload. -/
theorem getD_slotCells (e : SlotEntry) (tag : Nat) :
    (slotCells e tag).getD 24 false = e.valid ∧ (slotCells e tag).getD 25 false = e.overload := by
  have h : ∀ j, (slotCells e tag).getD (24 + j) false = ([e.valid, e.overload] ++ bitsOf 4 tag).getD j false := by
    intro j
    unfold slotCells
    rw [List.append_assoc, List.getD_append_right _ _ _ _ (by simp)]
    simp
  exact ⟨h 0, h 1⟩

/-- The number of 1 cells is a filter's length. -/
theorem count_true_eq (cells : List Bool) : cells.count true = (cells.filter id).length := by
  induction cells with
  | nil => rfl
  | cons a c ih => cases a <;> simp_all

end Sys2Proof.Machine
end

