-- ==== Sys2Proof/WellFormed.lean ====
section
/-! DEFINITION. Which steps are well formed: a transfer that has a transfer code has clocked at least one whole byte,
which takes two SCLK periods in the quicker lane mode (R142, R143). Every other step is well formed as it stands. The
meanings are total: an ill-formed step is a transfer without a transfer code, which moves no data and sets no flag (R143). -/

namespace Sys2Proof

/-- Enough SCLK periods for a transfer code in QUAD mode (R142: 2 periods a byte). -/
def holdsTransferCode (clocks : List Lanes) : Bool := 2 ≤ clocks.length

/-- A step is well formed unless it is a FRAME_START or READ too short to hold a transfer code. -/
def Instr.wellFormed : Instr → Bool
  | .frameStart _ clocks _ => holdsTransferCode clocks
  | .read _ clocks => holdsTransferCode clocks
  | .lineTransition .. | .edgeTimeout .. | .linkSetup .. | .linkRestart .. | .linkStatus .. | .linkCounters ..
  | .wclkEdge .. | .latePeriod .. | .referenceAbsent .. | .clockSetup .. | .samplePeriodEvent .. | .takeLengthLimit ..
  | .positionLimit .. | .nextWaitExpiry .. | .recordPlacement | .recordPublication | .arm .. | .disarm .. | .roll ..
  | .close .. | .abort .. | .trackMapSet .. | .trackMapGet .. | .gainSet .. | .gainApply .. | .gainDiscard ..
  | .gainGet .. | .archiveSetup .. | .archiveGet .. | .streamSetup .. | .streamGet .. | .storeSetup .. | .subscribe ..
  | .unsubscribe .. | .next .. | .release .. | .feedStatus .. | .cueAdd .. | .cueDelete .. | .cueList ..
  | .faultRequestTaken | .frameAbandoned .. | .receiveTimeout .. | .badCommand .. | .responseEnd .. | .portMode ..
  | .events .. | .eventMask .. | .status .. | .reset .. | .resetEnd .. => true

end Sys2Proof
end

