-- ==== Sys2Proof/Laws/PerInstr.lean ====
section
/-! SUPPORT. What holds of every row of the table as syntax: a step is ill formed only where its SCLK periods hold no transfer
code in either lane mode (R142, R143), and a command's row stands for the one command that one code names (10 §10.5). -/

namespace Sys2Proof.Laws

open Sys2Proof.Machine

/-- 10 §10.5: the code of a command. -/
def codeOf : Command → Byte
  | .linkSetup => 0x01
  | .linkStatus => 0x02
  | .linkCounters => 0x03
  | .linkRestart => 0x04
  | .clockSetup => 0x08
  | .arm => 0x10
  | .disarm => 0x11
  | .roll => 0x12
  | .close => 0x13
  | .abort => 0x14
  | .trackMapSet => 0x18
  | .trackMapGet => 0x19
  | .gainSet => 0x20
  | .gainApply => 0x21
  | .gainDiscard => 0x22
  | .gainGet => 0x23
  | .archiveSetup => 0x28
  | .archiveGet => 0x29
  | .streamSetup => 0x30
  | .streamGet => 0x31
  | .storeSetup => 0x38
  | .subscribe => 0x39
  | .unsubscribe => 0x3A
  | .next => 0x3B
  | .release => 0x3C
  | .feedStatus => 0x3D
  | .cueAdd => 0x40
  | .cueDelete => 0x41
  | .cueList => 0x42
  | .portMode => 0x48
  | .events => 0x49
  | .eventMask => 0x4A
  | .status => 0x4B

/-- 10 §10.5: one code, and no other, names a command. -/
theorem commandOf?_eq_iff (x : Byte) (c : Command) : commandOf? x = some c ↔ x = codeOf c := by
  constructor
  · intro h
    unfold commandOf? at h
    split at h <;> cases h <;> exact BitVec.eq_of_toNat_eq (by assumption)
  · rintro rfl
    cases c <;> rfl

/-- R142: fewer than two SCLK periods carry no whole byte. -/
theorem no_code_of_short {clocks : List Lanes} (h : holdsTransferCode clocks = false) (m : LaneMode) :
    (bytesIn m clocks).1 = [] := by
  match clocks, h with
  | [], _ => cases m <;> rfl
  | [_], _ => cases m <;> rfl
  | _ :: _ :: _, h => simp [holdsTransferCode] at h

/-- An ill-formed row is a transfer with no transfer code in either lane mode; a command's row is well formed, and exactly
one code names its command. -/
def Rows.Statement (i : Instr) : Prop :=
  (i.wellFormed = false → ∀ m, ∃ p clocks, (i = .read p clocks ∨ ∃ ended, i = .frameStart p clocks ended) ∧
    (bytesIn m clocks).1 = []) ∧
  ∀ p clocks c, commandRow? i = some (p, clocks, c) → i.wellFormed = true ∧ ∀ x, commandOf? x = some c ↔ x = codeOf c

theorem of_command {i : Instr} (hw : i.wellFormed = true) :
    Rows.Statement i :=
  ⟨fun h => absurd (hw.symm.trans h) (by decide), fun _ _ c _ => ⟨hw, fun x => commandOf?_eq_iff x c⟩⟩

theorem of_event {i : Instr} (hw : i.wellFormed = true) (hc : commandRow? i = none) : Rows.Statement i :=
  ⟨fun h => absurd (hw.symm.trans h) (by decide), fun _ _ _ h => absurd (hc.symm.trans h) (by simp)⟩

theorem of_short {i : Instr} (hc : commandRow? i = none)
    (h : i.wellFormed = false → ∀ m, ∃ p clocks, (i = .read p clocks ∨ ∃ ended, i = .frameStart p clocks ended) ∧
      (bytesIn m clocks).1 = []) : Rows.Statement i :=
  ⟨h, fun _ _ _ h => absurd (hc.symm.trans h) (by simp)⟩

theorem Rows.lineTransition (l : LinkId) (t : Nat) : Rows.Statement (.lineTransition l t) := of_event rfl rfl

theorem Rows.edgeTimeout (l : LinkId) (t : Nat) : Rows.Statement (.edgeTimeout l t) := of_event rfl rfl

theorem Rows.linkSetup (p : Port) (clocks : List Lanes) (t : Nat) : Rows.Statement (.linkSetup p clocks t) :=
  of_command rfl

theorem Rows.linkRestart (p : Port) (clocks : List Lanes) (t : Nat) : Rows.Statement (.linkRestart p clocks t) :=
  of_command rfl

theorem Rows.linkStatus (p : Port) (clocks : List Lanes) : Rows.Statement (.linkStatus p clocks) := of_command rfl

theorem Rows.linkCounters (p : Port) (clocks : List Lanes) : Rows.Statement (.linkCounters p clocks) := of_command rfl

theorem Rows.wclkEdge (t : Nat) : Rows.Statement (.wclkEdge t) := of_event rfl rfl

theorem Rows.latePeriod (t : Nat) : Rows.Statement (.latePeriod t) := of_event rfl rfl

theorem Rows.referenceAbsent (t : Nat) : Rows.Statement (.referenceAbsent t) := of_event rfl rfl

theorem Rows.clockSetup (p : Port) (clocks : List Lanes) (t : Nat) : Rows.Statement (.clockSetup p clocks t) :=
  of_command rfl

theorem Rows.samplePeriodEvent (t : SampleEvent) : Rows.Statement (.samplePeriodEvent t) :=
  of_event rfl rfl

theorem Rows.takeLengthLimit (t : Nat) : Rows.Statement (.takeLengthLimit t) := of_event rfl rfl

theorem Rows.positionLimit (t : Nat) : Rows.Statement (.positionLimit t) := of_event rfl rfl

theorem Rows.nextWaitExpiry (p : Port) (t : Nat) : Rows.Statement (.nextWaitExpiry p t) := of_event rfl rfl

theorem Rows.recordPlacement : Rows.Statement .recordPlacement := of_event rfl rfl

theorem Rows.recordPublication : Rows.Statement .recordPublication := of_event rfl rfl

theorem Rows.arm (p : Port) (clocks : List Lanes) : Rows.Statement (.arm p clocks) := of_command rfl

theorem Rows.disarm (p : Port) (clocks : List Lanes) : Rows.Statement (.disarm p clocks) := of_command rfl

theorem Rows.roll (p : Port) (clocks : List Lanes) : Rows.Statement (.roll p clocks) := of_command rfl

theorem Rows.close (p : Port) (clocks : List Lanes) : Rows.Statement (.close p clocks) := of_command rfl

theorem Rows.abort (p : Port) (clocks : List Lanes) : Rows.Statement (.abort p clocks) := of_command rfl

theorem Rows.trackMapSet (p : Port) (clocks : List Lanes) : Rows.Statement (.trackMapSet p clocks) := of_command rfl

theorem Rows.trackMapGet (p : Port) (clocks : List Lanes) : Rows.Statement (.trackMapGet p clocks) := of_command rfl

theorem Rows.gainSet (p : Port) (clocks : List Lanes) : Rows.Statement (.gainSet p clocks) := of_command rfl

theorem Rows.gainApply (p : Port) (clocks : List Lanes) : Rows.Statement (.gainApply p clocks) := of_command rfl

theorem Rows.gainDiscard (p : Port) (clocks : List Lanes) : Rows.Statement (.gainDiscard p clocks) := of_command rfl

theorem Rows.gainGet (p : Port) (clocks : List Lanes) : Rows.Statement (.gainGet p clocks) := of_command rfl

theorem Rows.archiveSetup (p : Port) (clocks : List Lanes) : Rows.Statement (.archiveSetup p clocks) := of_command rfl

theorem Rows.archiveGet (p : Port) (clocks : List Lanes) : Rows.Statement (.archiveGet p clocks) := of_command rfl

theorem Rows.streamSetup (p : Port) (clocks : List Lanes) : Rows.Statement (.streamSetup p clocks) := of_command rfl

theorem Rows.streamGet (p : Port) (clocks : List Lanes) : Rows.Statement (.streamGet p clocks) := of_command rfl

theorem Rows.storeSetup (p : Port) (clocks : List Lanes) : Rows.Statement (.storeSetup p clocks) := of_command rfl

theorem Rows.subscribe (p : Port) (clocks : List Lanes) : Rows.Statement (.subscribe p clocks) := of_command rfl

theorem Rows.unsubscribe (p : Port) (clocks : List Lanes) : Rows.Statement (.unsubscribe p clocks) := of_command rfl

theorem Rows.next (p : Port) (clocks : List Lanes) : Rows.Statement (.next p clocks) := of_command rfl

theorem Rows.release (p : Port) (clocks : List Lanes) : Rows.Statement (.release p clocks) := of_command rfl

theorem Rows.feedStatus (p : Port) (clocks : List Lanes) : Rows.Statement (.feedStatus p clocks) := of_command rfl

theorem Rows.cueAdd (p : Port) (clocks : List Lanes) : Rows.Statement (.cueAdd p clocks) := of_command rfl

theorem Rows.cueDelete (p : Port) (clocks : List Lanes) : Rows.Statement (.cueDelete p clocks) := of_command rfl

theorem Rows.cueList (p : Port) (clocks : List Lanes) : Rows.Statement (.cueList p clocks) := of_command rfl

theorem Rows.faultRequestTaken : Rows.Statement .faultRequestTaken := of_event rfl rfl

theorem Rows.frameStart (p : Port) (clocks : List Lanes) (ended : Bool) : Rows.Statement (.frameStart p clocks ended) :=
  of_short rfl fun h m => ⟨p, clocks, .inr ⟨ended, rfl⟩, no_code_of_short (by simpa [Instr.wellFormed] using h) m⟩

theorem Rows.frameAbandoned (p : Port) : Rows.Statement (.frameAbandoned p) := of_event rfl rfl

theorem Rows.receiveTimeout (t : TimedOutFrame) : Rows.Statement (.receiveTimeout t) := of_event rfl rfl

theorem Rows.badCommand (p : Port) (clocks : List Lanes) : Rows.Statement (.badCommand p clocks) := of_event rfl rfl

theorem Rows.read (p : Port) (clocks : List Lanes) : Rows.Statement (.read p clocks) :=
  of_short rfl fun h m => ⟨p, clocks, .inl rfl, no_code_of_short (by simpa [Instr.wellFormed] using h) m⟩

theorem Rows.responseEnd (p : Port) (clocks : List Lanes) : Rows.Statement (.responseEnd p clocks) := of_event rfl rfl

theorem Rows.portMode (p : Port) (clocks : List Lanes) : Rows.Statement (.portMode p clocks) := of_command rfl

theorem Rows.events (p : Port) (clocks : List Lanes) : Rows.Statement (.events p clocks) := of_command rfl

theorem Rows.eventMask (p : Port) (clocks : List Lanes) : Rows.Statement (.eventMask p clocks) := of_command rfl

theorem Rows.status (p : Port) (clocks : List Lanes) : Rows.Statement (.status p clocks) := of_command rfl

theorem Rows.reset (t : Nat) : Rows.Statement (.reset t) := of_event rfl rfl

theorem Rows.resetEnd (t : Nat) : Rows.Statement (.resetEnd t) := of_event rfl rfl

end Sys2Proof.Laws
end

