-- ==== Sys2Proof/Laws/Ports.lean ====
section
/-! SUPPORT. What the shared operations of a command port do: the end of a frame, the taking of a command, its answer. -/

namespace Sys2Proof.Machine

/-! ### Moves of one port -/

theorem PortState.respond_eq_holds (q : PortState) (st : Status) (data : List Byte) :
    q.respond (Response.of st data) = q.holds st data := rfl

theorem PortState.raise_respond (q : PortState) (k : EventKind) (r : Response) :
    (q.raise k).respond r = (q.respond r).raise k := rfl

theorem PortState.raise_holds (q : PortState) (k : EventKind) (st : Status) (data : List Byte) :
    (q.raise k).holds st data = (q.holds st data).raise k := rfl

/-- R144, R145: what the deassertion of SEL makes of a port in RECEIVING. -/
theorem PortState.endFrame_cases (q : PortState) :
    (∃ f, q.rx.frame? = some f ∧ q.endFrame = q.deselect.toPhase .executing) ∨
    (q.rx.frame? = none ∧ q.endFrame = q.deselect.abandon) := by
  unfold PortState.endFrame
  split
  · next f h => exact .inl ⟨f, h, rfl⟩
  · next h => exact .inr ⟨h, rfl⟩

theorem PortState.changeLanes_modeDue (q : PortState) : q.changeLanes.modeDue = none := by
  unfold PortState.changeLanes
  split
  · rfl
  · assumption

/-! ### What a port drives on the lanes -/

/-- R142: a byte takes the periods of its lane mode. -/
@[simp] theorem drivenByte_length (m : LaneMode) (b : Byte) : (drivenByte m b).length = bytePeriods m := by
  cases m <;> simp [drivenByte, bytePeriods]

@[simp] theorem fillerIn_length (m : LaneMode) (n : Nat) : (fillerIn m n).length = n := by simp [fillerIn]

@[simp] theorem fillerOut_length (m : LaneMode) (n : Nat) : (fillerOut m n).length = n := by simp [fillerOut]

/-- R142: a port drives something in each SCLK period of SENDING. -/
theorem State.drives_length (s : State) (p : Port) (r : Response) (started periods : Nat) :
    (s.drives p r started periods).length = periods := by
  have hb : 0 < bytePeriods (s.port p).laneMode := by cases (s.port p).laneMode <;> simp [bytePeriods]
  have h := Nat.lt_succ_iff.1 (Nat.lt_succ_of_lt (Nat.lt_mul_div_succ (started + periods) hb))
  rw [Nat.mul_comm] at h
  simp only [State.drives, List.length_take, List.length_drop, List.length_flatMap, drivenByte_length, List.map_const',
    List.length_range, List.sum_replicate, smul_eq_mul]
  omega

/-! ### Transfers without a transfer code -/

/-- R142: SCLK periods that move nothing leave filler on D1, and nothing else. -/
@[simp] theorem PortState.drivesFiller_fields (q : PortState) (n : Nat) :
    (q.drivesFiller n).laneMode = q.laneMode ∧ (q.drivesFiller n).modeDue = q.modeDue ∧
    (q.drivesFiller n).phase = q.phase ∧ (q.drivesFiller n).rx = q.rx ∧ (q.drivesFiller n).response = q.response ∧
    (q.drivesFiller n).sent = q.sent ∧ (q.drivesFiller n).inputDropped = q.inputDropped ∧
    (q.drivesFiller n).responseDiscarded = q.responseDiscarded ∧ (q.drivesFiller n).restIgnored = q.restIgnored ∧
    (q.drivesFiller n).events = q.events ∧ (q.drivesFiller n).mask = q.mask ∧
    (q.drivesFiller n).readyHigh = q.readyHigh ∧ (q.drivesFiller n).attnAsserted = q.attnAsserted ∧
    (q.drivesFiller n).clocks = q.clocks ∧ (q.drivesFiller n).driven = q.driven ++ fillerIn q.laneMode n :=
    ⟨rfl, rfl, rfl, rfl, rfl, rfl, rfl, rfl, rfl, rfl, rfl, rfl, rfl, rfl, rfl⟩

/-- R142, R143: all that a transfer without a transfer code can do: nothing where an assertion is open, and filler on D1 at a
port selected anew. -/
theorem State.codelessTransfer_cases (s : State) (p : Port) (n : Nat) :
    ((s.port p).inTransfer = true ∧ s.codelessTransfer p n = s) ∨
    ((s.port p).inTransfer = false ∧
      s.codelessTransfer p n =
        s.setPort p { (s.port p).select with driven := fillerIn (s.port p).select.laneMode n }) := by
  cases h : (s.port p).inTransfer
  · exact .inr ⟨rfl, by simp only [State.codelessTransfer, h]; rfl⟩
  · exact .inl ⟨rfl, by simp [State.codelessTransfer, h]⟩

/-- R143: a transfer that holds no whole byte is treated the same whichever row brings it. -/
theorem State.codeless_rows (s : State) (p : Port) (clocks : List Lanes) (ended : Bool)
    (h : (bytesIn (s.port p).select.laneMode clocks).1 = []) :
    s.frameStart p clocks ended = s.codelessTransfer p clocks.length ∧
    s.readTransfer p clocks = s.codelessTransfer p clocks.length := by
  simp [State.frameStart, State.readTransfer, h]

/-! ### The end of a frame -/

/-- R144: a frame ends where the port is RECEIVING, or stands in EXECUTING already. -/
theorem State.frameEnds_cases {s s1 : State} {p : Port} {clocks : List Lanes} {f : Frame}
    (h : s.frameEnds p clocks = some (s1, f)) :
    ((s.port p).phase = .receiving ∧ ((s.port p).clockIn clocks).rx.frame? = some f ∧
      s1 = s.setPort p ((s.port p).clockIn clocks).endFrame) ∨
    ((s.port p).phase = .executing ∧ (s.port p).rx.frame? = some f ∧ s1 = s) := by
  unfold State.frameEnds at h
  split at h
  · next hp =>
    simp only [Option.map_eq_some_iff] at h
    obtain ⟨g, hg, he⟩ := h
    cases he
    exact .inl ⟨hp, hg, rfl⟩
  · next hp =>
    simp only [Option.map_eq_some_iff] at h
    obtain ⟨g, hg, he⟩ := h
    cases he
    exact .inr ⟨hp, hg, rfl⟩
  all_goals cases h

/-- R144: the port at the end of its frame is EXECUTING. -/
theorem State.frameEnds_phase {s s1 : State} {p : Port} {clocks : List Lanes} {f : Frame}
    (h : s.frameEnds p clocks = some (s1, f)) : (s1.port p).phase = .executing := by
  obtain ⟨-, hf, rfl⟩ | ⟨hp, -, rfl⟩ := State.frameEnds_cases h
  · simp [PortState.endFrame, hf]
  · exact hp

/-- The end of a frame touches its own port alone. -/
theorem State.frameEnds_frame {s s1 : State} {p : Port} {clocks : List Lanes} {f : Frame}
    (h : s.frameEnds p clocks = some (s1, f)) : s1 = s.setPort p (s1.port p) := by
  obtain ⟨-, -, rfl⟩ | ⟨-, -, rfl⟩ := State.frameEnds_cases h <;> simp

/-- R145: a frame that fails touches its own port alone. -/
theorem State.frameFails_eq_setPort (s : State) (p : Port) (clocks : List Lanes) :
    s.frameFails p clocks = s.setPort p ((s.frameFails p clocks).port p) := by
  unfold State.frameFails
  split <;> simp

/-! ### Taking a command -/

/-- R146: a command in hand, with the length it requires, is taken by its rule on the state with the port in EXECUTING. -/
theorem State.runCommand_of_commandAt {s : State} {p : Port} {clocks : List Lanes} {c : Command} {ps : List Byte}
    {e : PortState} (h : s.commandAt p clocks c ps e) (hl : requiredLength c ps = some ps.length)
    (h250 : ps.length ≤ 250) (m : List Byte → State → State × Answer) :
    s.runCommand c m p clocks = (m ps (s.setPort p e)).1.answer p (m ps (s.setPort p e)).2 := by
  obtain ⟨hr, code, hc, hf⟩ := h
  simp [State.runCommand, hr, hf, hc, State.takeFrame, Frame.lengthFits, hl, h250]

/-- R146: a command in hand of another length is answered BAD_LENGTH. -/
theorem State.runCommand_badLength {s : State} {p : Port} {clocks : List Lanes} {c : Command} {e : PortState} {f : Frame}
    (hr : s.resetHeld = false) (hc : commandOf? f.code = some c) (hf : s.frameEnds p clocks = some (s.setPort p e, f))
    (hl : f.lengthFits c = false) (m : List Byte → State → State × Answer) :
    s.runCommand c m p clocks = s.setPort p (e.holds .badLength []) := by
  simp [State.runCommand, hr, hf, hc, State.takeFrame, hl, State.answer, Answer.refuse, PortState.respond_eq_holds]

/-- Everything a command's row can do: nothing, an abandoned frame, BAD_LENGTH, or its own rule. -/
theorem State.runCommand_cases (s : State) (c : Command) (m : List Byte → State → State × Answer) (p : Port)
    (clocks : List Lanes) :
    s.runCommand c m p clocks = s ∨
    (s.resetHeld = false ∧ s.frameEnds p clocks = none ∧ s.runCommand c m p clocks = s.frameFails p clocks) ∨
    (∃ s1 f, s.resetHeld = false ∧ s.frameEnds p clocks = some (s1, f) ∧ commandOf? f.code = some c ∧
      f.lengthFits c = false ∧ s.runCommand c m p clocks = s1.answer p (.refuse .badLength)) ∨
    (∃ s1 f, s.resetHeld = false ∧ s.frameEnds p clocks = some (s1, f) ∧ commandOf? f.code = some c ∧
      f.lengthFits c = true ∧ s.runCommand c m p clocks = (m f.params s1).1.answer p (m f.params s1).2) := by
  unfold State.runCommand
  by_cases hr : s.resetHeld = true
  · simp [hr]
  · have hr' : s.resetHeld = false := by simpa using hr
    simp only [hr', Bool.false_eq_true, if_false]
    cases hf : s.frameEnds p clocks with
    | none => simp
    | some x =>
      obtain ⟨s1, f⟩ := x
      by_cases hc : commandOf? f.code = some c
      · cases hl : f.lengthFits c with
        | false => exact .inr (.inr (.inl ⟨s1, f, trivial, rfl, hc, hl, by simp [hc, State.takeFrame, hl]⟩))
        | true => exact .inr (.inr (.inr ⟨s1, f, trivial, rfl, hc, hl, by simp [hc, State.takeFrame, hl]⟩))
      · simp [hc]

/-! ### The answer -/

theorem State.answer_response (s : State) (p : Port) (st : Status) (data : List Byte) :
    s.answer p (.response (Response.of st data)) = s.setPort p ((s.port p).holds st data) := rfl

@[simp] theorem State.answer_ok (s : State) (p : Port) (data : List Byte) :
    s.answer p (.ok data) = s.setPort p ((s.port p).holds .ok data) := rfl

@[simp] theorem State.answer_refuse (s : State) (p : Port) (st : Status) :
    s.answer p (.refuse st) = s.setPort p ((s.port p).holds st []) := rfl

/-- An answer touches its own port alone. -/
theorem State.answer_eq_setPort (s : State) (p : Port) (a : Answer) :
    s.answer p a = s.setPort p ((s.answer p a).port p) := by
  cases a <;> simp [State.answer]

/-! ### Commands that carry a tick -/

/-- The end of a frame does not depend on the time. -/
theorem State.frameEnds_advance (s : State) (t : Nat) (p : Port) (clocks : List Lanes) :
    (s.advance t).frameEnds p clocks = (s.frameEnds p clocks).map fun x => (x.1.advance t, x.2) := by
  unfold State.frameEnds
  simp only [State.advance_port]
  cases (s.port p).phase with
  | receiving => simp only [Option.map_map]; rfl
  | executing => simp only [Option.map_map]; rfl
  | _ => rfl

/-- A command in hand is in hand at any moment it is taken. -/
theorem State.commandAt_advance {s : State} {p : Port} {clocks : List Lanes} {c : Command} {ps : List Byte}
    {e : PortState} (h : s.commandAt p clocks c ps e) (t : Nat) : (s.advance t).commandAt p clocks c ps e := by
  obtain ⟨hr, code, hc, hf⟩ := h
  refine ⟨hr, code, hc, ?_⟩
  rw [State.frameEnds_advance, hf]
  rfl

/-! ### The three ports after an answer -/

theorem State.portsAfter_get (s : State) (p q : Port) (mine : PortState) (others : PortState → PortState) :
    (s.portsAfter p mine others).get q = if q = p then mine else others (s.port q) := by simp [State.portsAfter]

theorem State.setPort_eq_portsAfter (s : State) (p : Port) (x : PortState) :
    s.setPort p x = { s with ports := s.portsAfter p x id } := by
  cases p <;> rfl

/-- R154: an event raised at every port, then an answer at port `p` that stood at `e`. -/
theorem State.raiseAll_setPort_answer (s : State) (p : Port) (e x : PortState) (k : EventKind) :
    (({ s with ports := s.ports.set p e }.raiseAll k).setPort p x).ports = s.portsAfter p x fun q => q.raise k := by
  cases p <;> rfl

/-- R154: an event raised at the other two ports, then an answer at port `p` that stood at `e`. -/
theorem State.raiseOthers_setPort_answer (s : State) (p : Port) (e x : PortState) (k : EventKind) :
    (({ s with ports := s.ports.set p e }.raiseOthers k p).setPort p x).ports = s.portsAfter p x fun q => q.raise k := by
  cases p <;> rfl

theorem PortState.sameTransaction_refl (q : PortState) : q.sameTransaction q := ⟨rfl, by simp⟩

theorem PortState.sameTransaction_raise (q : PortState) (k : EventKind) : q.sameTransaction (q.raise k) := by
  refine ⟨rfl, ?_⟩
  simp only [PortState.raise_events]
  ext i hi
  simp
  exact Or.inl

end Sys2Proof.Machine
end

