-- ==== Sys2Proof/Laws/Rate.lean ====
section
/-! SUPPORT. What the two searches of the stream decision find (R103, R104), and what the reservoir holds after it. -/

namespace Sys2Proof.Machine

/-- R103: what the first search finds. -/
theorem shiftSearch_eq_some {cost : Nat → Nat → Nat} {n prev avail s : Nat} :
    shiftSearch cost n prev avail = some s ↔
      prev - 1 ≤ s ∧ s ≤ 8 ∧ cost s n ≤ avail ∧ ∀ x, prev - 1 ≤ x → x < s → avail < cost x n := by
  unfold shiftSearch
  rw [List.find?_range_eq_some]
  simp only [Bool.and_eq_true, decide_eq_true_eq, List.mem_range, Bool.not_eq_true', Bool.and_eq_false_imp,
    decide_eq_false_iff_not, Nat.not_le]
  constructor
  · rintro ⟨⟨h1, h2⟩, h3, h4⟩
    exact ⟨h1, by omega, h2, fun x hx hs => h4 x hs hx⟩
  · rintro ⟨h1, h2, h3, h4⟩
    exact ⟨⟨h1, h3⟩, by omega, fun x hs hx => h4 x hx hs⟩

/-- R103: when the first search finds nothing. -/
theorem shiftSearch_eq_none {cost : Nat → Nat → Nat} {n prev avail : Nat} :
    shiftSearch cost n prev avail = none ↔ ∀ s, prev - 1 ≤ s → s ≤ 8 → avail < cost s n := by
  unfold shiftSearch
  simp only [List.find?_eq_none, List.mem_range, Bool.and_eq_true, decide_eq_true_eq, not_and, Nat.not_le]
  exact ⟨fun h s h1 h2 => h s (by omega) h1, fun h s h1 h2 => h s h2 (by omega)⟩

/-- R104: when the second search finds nothing. -/
theorem shedSearch_eq_none {cost : Nat → Nat → Nat} {n avail : Nat} :
    shedSearch cost n avail = none ↔ ∀ j, 1 ≤ j → j < n → avail < cost 8 j := by
  unfold shedSearch
  simp only [List.find?_eq_none, List.mem_reverse, List.mem_filter, List.mem_range, decide_eq_true_eq, Nat.not_le]
  exact ⟨fun h j h1 h2 => h j ⟨h2, h1⟩, fun h j hj => h j hj.2 hj.1⟩

/-- R104: one more entry is tried first. -/
theorem shedSearch_succ (cost : Nat → Nat → Nat) (n avail : Nat) :
    shedSearch cost (n + 1) avail =
      if 1 ≤ n ∧ cost 8 n ≤ avail then some n else shedSearch cost n avail := by
  unfold shedSearch
  rw [List.range_succ, List.filter_append, List.reverse_append]
  by_cases h1 : 1 ≤ n
  · by_cases h2 : cost 8 n ≤ avail
    · simp [h1, h2]
    · simp [h1, h2]
  · have h0 : n = 0 := by omega
    simp [h0]

/-- R104: what the second search finds. -/
theorem shedSearch_eq_some {cost : Nat → Nat → Nat} {n avail j : Nat} :
    shedSearch cost n avail = some j ↔
      1 ≤ j ∧ j < n ∧ cost 8 j ≤ avail ∧ ∀ x, j < x → x < n → avail < cost 8 x := by
  induction n with
  | zero => simp [shedSearch]
  | succ n ih =>
    rw [shedSearch_succ]
    split
    · next h =>
      simp only [Option.some.injEq]
      constructor
      · rintro rfl; exact ⟨h.1, by omega, h.2, fun x h1 h2 => by omega⟩
      · rintro ⟨h1, h2, h3, h4⟩
        by_contra hne
        have := h4 n (by omega) (by omega)
        omega
    · next h =>
      rw [ih]
      constructor
      · rintro ⟨h1, h2, h3, h4⟩
        refine ⟨h1, by omega, h3, fun x hx hn => ?_⟩
        by_cases hxn : x = n
        · subst hxn; have := h; omega
        · exact h4 x hx (by omega)
      · rintro ⟨h1, h2, h3, h4⟩
        have hne : j ≠ n := by rintro rfl; exact h ⟨h1, h3⟩
        exact ⟨h1, by omega, h3, fun x hx hn => h4 x hx (by omega)⟩

/-- R106: the level after a charge is at most the capacity. -/
theorem RateControl.charge_level_le (rc : RateControl) (cost : Nat → Nat → Nat) (d : StreamDecision) :
    (rc.charge cost d).level ≤ rc.capacity := by
  simp only [RateControl.charge]
  split
  · exact Nat.zero_le _
  · exact Nat.min_le_left _ _

/-- A charge leaves the settings of the controller. -/
theorem RateControl.charge_settings (rc : RateControl) (cost : Nat → Nat → Nat) (d : StreamDecision) :
    (rc.charge cost d).roster = rc.roster ∧ (rc.charge cost d).rate = rc.rate ∧
    (rc.charge cost d).factor = rc.factor ∧ (rc.charge cost d).prevShift = d.shift := ⟨rfl, rfl, rfl, rfl⟩

end Sys2Proof.Machine
end

