-- ==== Sys2Proof/Laws/Sample.lean ====
section
/-! SUPPORT. What a sample-period event and a block-boundary event do: which event has come, the position, the waits. -/

namespace Sys2Proof.Machine

/-- The state in which a sample-period event of tick `last` is taken, `due` being the reference edges still due: the session
rate's N and nominal period are in force, and the oscillator's next event falls a nominal period later (R25, R29). -/
def State.sampleTaken (s : State) (last : Nat) (due : List Nat) : State :=
  { s with timebase := { s.timebase with
      blockLength := blockLengthOf s.timebase.rate, nominal := nominalOf s.timebase.rate
      lastSample := last, nextOscillator := last + nominalOf s.timebase.rate, edgesDue := due } }

/-- R25, R28: in FREE, ACQUIRE and HOLDOVER the oscillator's event is taken once its tick has come. -/
theorem State.sampleIf_oscillator {s : State} (hclock : s.timebase.clock ≠ .locked)
    (hnext : s.timebase.nextOscillator ≤ s.now) (wanted : State → Bool) (between : State → State) :
    s.sampleIf wanted between =
      let u := s.sampleTaken s.timebase.nextOscillator s.timebase.edgesDue
      let v := between u.advancePosition
      if wanted u then v.askLinks.gather v.linkAnswers false else s := by
  have h : s.sampleBy? s.now =
      some (false, { s with timebase := { s.timebase with lastSample := s.timebase.nextOscillator } }) := by
    simp [State.sampleBy?, hclock, hnext]
  simp only [State.sampleIf, h, State.samplePeriod]
  rfl

/-- R27, R29, R30: in LOCKED the oldest reference edge due is taken. -/
theorem State.sampleIf_reference {s : State} {e : Nat} {due : List Nat} (hclock : s.timebase.clock = .locked)
    (hdue : s.timebase.edgesDue = e :: due) (wanted : State → Bool) (between : State → State) :
    s.sampleIf wanted between =
      let u := s.sampleTaken e due
      let v := between u.advancePosition
      if wanted u then v.askLinks.gather v.linkAnswers true else s := by
  have h : s.sampleBy? s.now =
      some (true, { s with timebase := { s.timebase with lastSample := e, edgesDue := due } }) := by
    simp [State.sampleBy?, hclock, hdue]
  simp only [State.sampleIf, h, State.samplePeriod]
  rfl

/-- R27, R28: in LOCKED with no reference edge due no sample-period event has come. -/
theorem State.sampleIf_none {s : State} (hclock : s.timebase.clock = .locked) (hdue : s.timebase.edgesDue = [])
    (wanted : State → Bool) (between : State → State) : s.sampleIf wanted between = s := by
  simp [State.sampleIf, State.sampleBy?, hclock, hdue]

/-- R25, R28: before the oscillator's tick no sample-period event has come in FREE, ACQUIRE and HOLDOVER. -/
theorem State.sampleIf_early {s : State} (hclock : s.timebase.clock ≠ .locked)
    (hnext : s.now < s.timebase.nextOscillator) (wanted : State → Bool) (between : State → State) :
    s.sampleIf wanted between = s := by
  have h : ¬ s.timebase.nextOscillator ≤ s.now := by omega
  simp [State.sampleIf, State.sampleBy?, hclock, h]

/-- R164: no step at a link, and one more of them. -/
@[simp] theorem State.linkSteps_nil (s : State) : s.linkSteps [] = s := rfl

@[simp] theorem State.linkSteps_cons (s : State) (a : LinkStep) (rest : List LinkStep) :
    s.linkSteps (a :: rest) = (s.linkStep a).linkSteps rest := rfl

/-- R31: away from boundaries and from the end of the count the position advances and nothing else. -/
theorem State.advancePosition_inside {s : State} (hlast : s.timebase.position + 1 < lastPosition)
    (hin : (s.timebase.position + 1) % s.timebase.blockLength ≠ 0) :
    s.advancePosition = { s with timebase := { s.timebase with position := s.timebase.position + 1 } } := by
  have h1 : s.timebase.position < lastPosition := by omega
  have h2 : s.timebase.position + 1 ≠ lastPosition := by omega
  simp [State.advancePosition, State.reachesLast, State.isBoundary, positionAfter, h1, h2, hin]

/-- R32: at a boundary the position advances and the block-boundary event is taken. -/
theorem State.advancePosition_boundary {s : State} (hlast : s.timebase.position + 1 < lastPosition)
    (hb : (s.timebase.position + 1) % s.timebase.blockLength = 0) :
    s.advancePosition =
      State.boundary { s with timebase := { s.timebase with position := s.timebase.position + 1 } }
        (s.timebase.position + 1) := by
  have h1 : s.timebase.position < lastPosition := by omega
  have h2 : s.timebase.position + 1 ≠ lastPosition := by omega
  simp [State.advancePosition, State.reachesLast, State.isBoundary, positionAfter, h1, h2, hb]

/-- R31: the event that brings the position to its last value. -/
theorem State.advancePosition_last {s : State} (hlast : s.timebase.position + 1 = lastPosition) :
    s.advancePosition = State.atLastPosition { s with timebase := { s.timebase with position := lastPosition } } := by
  have h1 : s.timebase.position < lastPosition := by omega
  have h2 : s.timebase.position + 1 = lastPosition := by omega
  simp [State.advancePosition, State.reachesLast, positionAfter, h1, h2]

/-- R31: once the position has stopped it stays. -/
theorem State.advancePosition_stopped {s : State} (hlast : s.timebase.position = lastPosition) :
    s.advancePosition = s := by
  have h2 : ¬ lastPosition + 1 = lastPosition := by omega
  cases s
  simp_all [State.advancePosition, State.reachesLast, State.isBoundary, positionAfter]
  rw [← hlast]

/-- R45: outside a take the frames are discarded. -/
theorem State.gather_none {s : State} (h : s.take.gathering = false) (answers : PerLink (Option LinkFrame)) (r : Bool) :
    s.gather answers r = s := by simp [State.gather, h]

/-- R52: a slip outside a take marks nothing. -/
theorem State.reportSlip_none {s : State} (h : s.take.gathering = false) (l : LinkId) : s.reportSlip l = s := by
  simp [State.reportSlip, h]

/-- R17, R45: each link is asked for its frame. -/
theorem State.askLinks_links (s : State) : s.askLinks.links =
    ⟨s.links.l0.request.1, s.links.l1.request.1, s.links.l2.request.1, s.links.l3.request.1⟩ := by
  have ask : ∀ (u : State) (l : LinkId), (u.askLink l).links = u.links.set l (u.link l).request.1 := by
    intro u l; unfold State.askLink; simp only []; split
    · unfold State.reportSlip; split
      · split <;> rfl
      · rfl
    · rfl
  simp only [State.askLinks, ask, State.link]
  rfl

/-- R45, R46: outside a take asking the links changes the receivers alone. -/
theorem State.askLinks_none {s : State} (h : s.take.gathering = false) : s.askLinks = { s with
    links := ⟨s.links.l0.request.1, s.links.l1.request.1, s.links.l2.request.1, s.links.l3.request.1⟩ } := by
  have ask : ∀ (u : State) (l : LinkId), u.take.gathering = false → u.askLink l = u.setLink l (u.link l).request.1 := by
    intro u l hu; unfold State.askLink; simp only []
    split
    · rw [State.reportSlip_none (by simpa using hu)]
    · rfl
  unfold State.askLinks
  rw [ask s .l0 h, ask _ .l1 (by simpa using h), ask _ .l2 (by simpa using h), ask _ .l3 (by simpa using h)]
  rfl

/-- R122: the feed state of each port after a boundary has counted the wait of port `p`. -/
theorem State.countWait_feed (s : State) (p q : Port) : (s.countWait p).feed q =
    if q = p then
      match (s.feed p).wait with
      | none => s.feed p
      | some k =>
        if k ≤ 1 then { s.feed p with lost := 0, wait := none } else { s.feed p with wait := some (k - 1) }
    else s.feed q := by
  unfold State.countWait
  cases h : (s.feed p).wait with
  | none => simp only []; split <;> simp [*]
  | some k =>
    simp only []
    split
    · simp only [State.answerNone, State.feed_setFeed]; split <;> simp [*]
    · rw [State.feed_setFeed]

/-- R122: each port after a boundary has counted the wait of port `p`. -/
theorem State.countWait_port (s : State) (p q : Port) : (s.countWait p).port q =
    if q = p then
      match (s.feed p).wait with
      | none => s.port p
      | some k => if k ≤ 1 then (s.port p).holds .none (bytesOf 2 (s.feed p).lost) else s.port p
    else s.port q := by
  unfold State.countWait
  cases h : (s.feed p).wait with
  | none => simp only []; split <;> simp [*]
  | some k =>
    simp only []
    split
    · simp only [State.answerNone, State.setFeed_port, State.port_setPort]
      split <;> rfl
    · simp only [State.setFeed_port]; split <;> simp [*]

/-- R31, R122: the feed state of each port after the wait of port `p` has been ended. -/
theorem State.endWait_feed (s : State) (p q : Port) : (s.endWait p).feed q =
    if q = p then
      match (s.feed p).wait with
      | none => s.feed p
      | some _ => { s.feed p with lost := 0, wait := none }
    else s.feed q := by
  unfold State.endWait
  cases h : (s.feed p).wait with
  | none => simp only []; split <;> simp [*]
  | some k => simp only [State.answerNone, State.feed_setFeed]; split <;> simp [*]

/-- R31, R122: each port after the wait of port `p` has been ended. -/
theorem State.endWait_port (s : State) (p q : Port) : (s.endWait p).port q =
    if q = p then
      match (s.feed p).wait with
      | none => s.port p
      | some _ => (s.port p).holds .none (bytesOf 2 (s.feed p).lost)
    else s.port q := by
  unfold State.endWait
  cases h : (s.feed p).wait with
  | none => simp only []; split <;> simp [*]
  | some k =>
    simp only [State.answerNone, State.setFeed_port, State.port_setPort]
    split <;> rfl

/-- R36: with no block in coding there is no job to finish. -/
theorem State.finishJobs_idle {s : State} (h : s.engine.state = .idle) : s.finishJobs = s := by
  simp [State.finishJobs, State.finishJob, h]

/-- R32: a boundary at which no take gathers or starts, with no block in coding. -/
theorem State.boundary_outside {s : State} (p : Nat) (he : s.engine.state = .idle) (hg : s.take.gathering = false)
    (ht : s.take.state ≠ .starting ∨ p ≠ s.take.startPosition) :
    s.boundary p = (({ s with mix := s.mix.boundary }.countWait .p0).countWait .p1).countWait .p2 := by
  have hs : s.startTake p = s := by
    unfold State.startTake
    rw [if_neg]
    rintro ⟨h1, h2⟩
    rcases ht with h | h
    · exact h h1
    · exact h h2
  simp [State.boundary, State.finishJobs_idle he, State.closeBlock, hg, hs, State.openBlock]

end Sys2Proof.Machine
end

