-- ==== Sys2Proof/Laws/Store.lean ====
section
/-! SUPPORT. What the operations of the block store do: reclaim, forced removals and the room they make, placement, and what
a publication does to a port. -/

namespace Sys2Proof.Machine

/-! ### Holders and reclaim (R114, R117) -/

/-- R117: the port that leaves is a holder no more; the other holders stay; identity, bytes and pages stay. -/
theorem Record.leave_spec (r : Record) (p : Port) :
    (r.leave p).holders.get p = false ∧ (∀ q, q ≠ p → (r.leave p).holders.get q = r.holders.get q) ∧
    (r.leave p).id = r.id ∧ (r.leave p).bytes = r.bytes ∧ (r.leave p).pages = r.pages ∧
    ((r.leave p).state = if noHolders (r.leave p).holders then .spent else r.state) := by
  refine ⟨by simp [Record.leave], fun q hq => by simp [Record.leave, PerPort.get_set_ne _ _ hq], rfl, rfl, rfl, rfl⟩

/-- R114: a record has no holder exactly when no port holds it. -/
theorem noHolders_iff {h : PerPort Bool} : noHolders h = true ↔ ∀ p, h.get p = false := by
  constructor
  · intro hh p
    simp only [noHolders, Bool.and_eq_true, Bool.not_eq_true'] at hh
    cases p <;> simp [PerPort.get, hh]
  · intro hh
    have h0 := hh .p0
    have h1 := hh .p1
    have h2 := hh .p2
    simp only [PerPort.get] at h0 h1 h2
    simp [noHolders, h0, h1, h2]

/-- R117: a reclaim takes records off the head alone. -/
theorem reclaim_suffix (ring : List Record) : reclaim ring <:+ ring := List.dropWhile_suffix _

/-- R117: after a reclaim no SPENT record stands at the head. -/
theorem reclaim_head {ring : List Record} {x : Record} (h : (reclaim ring).head? = some x) : x.state ≠ .spent := by
  induction ring with
  | nil => simp [reclaim] at h
  | cons r rest ih =>
    by_cases hr : r.state = .spent
    · have : reclaim (r :: rest) = reclaim rest := by simp [reclaim, hr]
      rw [this] at h
      exact ih h
    · have : reclaim (r :: rest) = r :: rest := by simp [reclaim, hr]
      rw [this] at h
      cases h
      exact hr

/-! ### Forced removals (R115, R116) -/

/-- The removal told to a port touches no region. -/
@[simp] theorem State.loseAt_store (s : State) (p : Port) (r : Record) (next : Option RecordId) :
    (s.loseAt p r next).store = s.store := by
  unfold State.loseAt
  split <;> rfl

@[simp] theorem State.loseAt_region (s : State) (p : Port) (r : Record) (next : Option RecordId) (f : Feed) :
    (s.loseAt p r next).region f = s.region f := by
  unfold State.region
  rw [State.loseAt_store]

/-- R116: what a removal does to the feed state of each port. -/
theorem State.loseAt_feed (s : State) (p q : Port) (r : Record) (next : Option RecordId) :
    (s.loseAt p r next).feed q =
      if q = p ∧ r.holders.get p = true then (s.feed p).loseOne r.id next else s.feed q := by
  unfold State.loseAt
  split
  · next h => simp [State.feed_setFeed, h]
  · next h => simp [h]

/-- R116: what a removal does to each port: LAGGED at a holder. -/
theorem State.loseAt_port (s : State) (p q : Port) (r : Record) (next : Option RecordId) :
    (s.loseAt p r next).port q = if q = p ∧ r.holders.get p = true then (s.port p).raise .lagged else s.port q := by
  unfold State.loseAt
  split
  · next h =>
    by_cases hq : q = p
    · subst hq; simp [State.raiseAt_port, h]
    · simp [State.raiseAt_port, hq]
  · next h => simp [h]

/-- R116, R117: a removal takes the head off its ring, and reclaims. -/
theorem State.removeHead_store {s : State} {f : Feed} {h : Record} {rest : List Record} (hr : (s.region f).ring = h :: rest) :
    (s.removeHead f).store = s.store.setRegion f { s.region f with ring := reclaim rest } := by
  simp only [State.removeHead, hr, State.loseAt_store]
  rfl

theorem State.removeHead_region {s : State} {f : Feed} {h : Record} {rest : List Record}
    (hr : (s.region f).ring = h :: rest) :
    (s.removeHead f).region f = { s.region f with ring := reclaim rest } := by
  unfold State.region
  rw [State.removeHead_store hr]
  cases f <;> rfl

/-- R116: what a removal does to the feed state of each port. -/
theorem State.removeHead_feed {s : State} {f : Feed} {h : Record} {rest : List Record}
    (hr : (s.region f).ring = h :: rest) (p : Port) :
    (s.removeHead f).feed p =
      if h.holders.get p = true then (s.feed p).loseOne h.id (rest.head?.map Record.id) else s.feed p := by
  simp only [State.removeHead, hr]
  cases p <;> simp [State.loseAt_feed]

/-- R116: what a removal does to each port. -/
theorem State.removeHead_port {s : State} {f : Feed} {h : Record} {rest : List Record}
    (hr : (s.region f).ring = h :: rest) (p : Port) :
    (s.removeHead f).port p = if h.holders.get p = true then (s.port p).raise .lagged else s.port p := by
  simp only [State.removeHead, hr]
  cases p <;> simp [State.loseAt_port]

/-- R115: nothing is removed where the free pages suffice. -/
theorem State.makeRoom_enough {s : State} {f : Feed} {pages : Nat} (h : pages ≤ (s.region f).free) (steps : Nat) :
    s.makeRoom f pages steps = s := by
  cases steps with
  | zero => rfl
  | succ n => simp only [State.makeRoom]; exact if_neg (by omega)

/-- R115: everything the making of room does to the region: records leave at the head alone, and with as many removals as
records and a region that could hold `pages`, the free pages suffice. -/
theorem State.makeRoom_region (f : Feed) (pages : Nat) :
    ∀ (steps : Nat) (s : State), (s.region f).ring.length ≤ steps →
      ((s.makeRoom f pages steps).region f = { s.region f with ring := ((s.makeRoom f pages steps).region f).ring }) ∧
      ((s.makeRoom f pages steps).region f).ring <:+ (s.region f).ring ∧
      ((s.region f).filling = none → pages ≤ (s.region f).size →
        pages ≤ ((s.makeRoom f pages steps).region f).free) := by
  intro steps
  induction steps with
  | zero =>
    intro s hs
    have h0 : (s.region f).ring = [] := List.length_eq_zero_iff.1 (by omega)
    refine ⟨rfl, List.suffix_refl _, fun hf hp => ?_⟩
    simp [State.makeRoom, Region.free, Region.used, h0, hf, hp]
  | succ n ih =>
    intro s hs
    simp only [State.makeRoom]
    split
    · next hlt =>
      cases hr : (s.region f).ring with
      | nil =>
        have hrm : s.removeHead f = s := by simp [State.removeHead, hr]
        rw [hrm]
        obtain ⟨h1, h2, h3⟩ := ih s (by simp [hr])
        exact ⟨h1, by rwa [hr] at h2, h3⟩
      | cons h rest =>
        have hreg := State.removeHead_region hr
        have hsuf := reclaim_suffix rest
        have hlen : (((s.removeHead f).region f).ring).length ≤ n := by
          rw [hreg]
          have := hsuf.length_le
          simp only [hr, List.length_cons] at hs
          show (reclaim rest).length ≤ n
          omega
        obtain ⟨h1, h2, h3⟩ := ih (s.removeHead f) hlen
        refine ⟨?_, ?_, ?_⟩
        · rw [h1, hreg]
        · rw [hreg] at h2
          exact h2.trans (hsuf.trans (List.suffix_cons _ _))
        · intro hf hp
          exact h3 (by rw [hreg]; exact hf) (by rw [hreg]; exact hp)
    · next hge =>
      exact ⟨rfl, List.suffix_refl _, fun _ _ => by omega⟩

/-- R115: room is made by removing the head, again and again, and no more often than the free pages are too few. -/
theorem State.makeRoom_iterate (f : Feed) (pages : Nat) :
    ∀ (steps : Nat) (s : State), (s.region f).ring.length ≤ steps → (s.region f).filling = none →
      pages ≤ (s.region f).size →
      ∃ n, (∀ m, m < n → (((fun x : State => x.removeHead f)^[m] s).region f).free < pages) ∧
        pages ≤ (((fun x : State => x.removeHead f)^[n] s).region f).free ∧
        s.makeRoom f pages steps = (fun x : State => x.removeHead f)^[n] s := by
  intro steps
  induction steps with
  | zero =>
    intro s hs hf hp
    have h0 : (s.region f).ring = [] := List.length_eq_zero_iff.1 (by omega)
    exact ⟨0, by omega, by simp [Region.free, Region.used, h0, hf, hp], rfl⟩
  | succ k ih =>
    intro s hs hf hp
    simp only [State.makeRoom]
    split
    · next hlt =>
      cases hr : (s.region f).ring with
      | nil => simp [Region.free, Region.used, hr, hf] at hlt; omega
      | cons h rest =>
        have hreg := State.removeHead_region hr
        have hlen : (((s.removeHead f).region f).ring).length ≤ k := by
          rw [hreg]
          have := (reclaim_suffix rest).length_le
          simp only [hr, List.length_cons] at hs
          show (reclaim rest).length ≤ k
          omega
        obtain ⟨n, h1, h2, h3⟩ := ih (s.removeHead f) hlen (by rw [hreg]; exact hf) (by rw [hreg]; exact hp)
        refine ⟨n + 1, fun m hm => ?_, by simpa using h2, by simpa using h3⟩
        cases m with
        | zero => exact hlt
        | succ m => simpa using h1 m (by omega)
    · next hge => exact ⟨0, by omega, by simpa using hge, rfl⟩

/-! ### Placement (R115) -/

/-- R115: everything a placement does to its region. -/
theorem State.place_region (s : State) (kind : RecordKind) (id : RecordId) (bytes : List Byte) :
    let room := (s.makeRoom id.feed (pagesFor bytes.length) (s.region id.feed).ring.length)
    (s.place kind id bytes).region id.feed = { room.region id.feed with
      filling := some ⟨id, kind, bytes, pagesFor bytes.length, (room.region id.feed).writePoint, .filling,
        PerPort.of fun _ => false⟩
      writePoint := wrapPage (room.store.base id.feed) (room.region id.feed).size (room.region id.feed).writePoint
        (pagesFor bytes.length) } := by
  simp [State.place]

/-- R115: the whole of a placement where the free pages suffice. -/
theorem State.place_enough {s : State} {id : RecordId} {bytes : List Byte}
    (h : pagesFor bytes.length ≤ (s.region id.feed).free) (kind : RecordKind) :
    s.place kind id bytes = s.setRegion id.feed { s.region id.feed with
      filling := some ⟨id, kind, bytes, pagesFor bytes.length, (s.region id.feed).writePoint, .filling,
        PerPort.of fun _ => false⟩
      writePoint := wrapPage (s.store.base id.feed) (s.region id.feed).size (s.region id.feed).writePoint
        (pagesFor bytes.length) } := by
  simp only [State.place, State.makeRoom_enough h]

/-! ### Publication (R119, R122, R124) -/

/-- R119: a port that is not subscribed to the feed is not told. -/
theorem State.publishTo_other {s : State} {p : Port} {id : RecordId} (h : (s.feed p).subscription ≠ some id.feed)
    (size : Nat) : s.publishTo p id size = s := by simp [State.publishTo, h]

/-- R119: everything a publication does to the feed state of each port. -/
theorem State.publishTo_feed (s : State) (p q : Port) (id : RecordId) (size : Nat) :
    (s.publishTo p id size).feed q =
      if q = p ∧ (s.feed p).subscription = some id.feed then
        let f1 := { s.feed p with cursor := some ((s.feed p).cursor.getD id), arming := false }
        if (s.feed p).wait.isSome then f1.answered id size else f1
      else s.feed q := by
  unfold State.publishTo
  by_cases hs : (s.feed p).subscription = some id.feed
  · simp only [hs, if_true]
    by_cases hq : q = p
    · subst hq
      cases hw : (s.feed q).wait <;> cases ha : (s.feed q).arming <;> cases hc : (s.feed q).cursor <;>
        simp [State.answerRecord]
    · cases hw : (s.feed p).wait <;> cases ha : (s.feed p).arming <;> simp [State.answerRecord, State.feed_setFeed, hq]
  · simp [hs]

/-- R119, R122, R124: everything a publication does to each port. -/
theorem State.publishTo_port (s : State) (p q : Port) (id : RecordId) (size : Nat) :
    (s.publishTo p id size).port q =
      if q = p ∧ (s.feed p).subscription = some id.feed then
        let q1 := if (s.feed p).wait.isSome then (s.port p).respond ⟨.ok, .record (s.feed p).lost id size⟩ else s.port p
        if (s.feed p).arming then q1.raise .recReady else q1
      else s.port q := by
  unfold State.publishTo
  by_cases hs : (s.feed p).subscription = some id.feed
  · simp only [hs, if_true]
    by_cases hq : q = p
    · subst hq
      cases hw : (s.feed q).wait <;> cases ha : (s.feed q).arming <;>
        simp [State.answerRecord, State.raiseAt_port, recordResponse]
    · cases hw : (s.feed p).wait <;> cases ha : (s.feed p).arming <;>
        simp [State.answerRecord, State.port_setPort, State.raiseAt_port, hq]
  · simp [hs]

/-- R119: the pages of a record that no port takes are given back. -/
theorem State.publish_dropped {s : State} {f : Feed} {r : Record} (hf : (s.region f).filling = some r)
    (h : noHolders (s.holdersOf f) = true) :
    s.publish f =
      s.setRegion f { s.region f with filling := none, writePoint := r.firstPage, lastPublished := some r.id } := by
  simp [State.publish, hf, h]

/-- R119: a record with holders is HELD as the newest of its ring, and each port is told. -/
theorem State.publish_held {s : State} {f : Feed} {r : Record} (hf : (s.region f).filling = some r)
    (h : noHolders (s.holdersOf f) = false) :
    s.publish f = (((s.setRegion f { s.region f with
        filling := none, lastPublished := some r.id
        ring := (s.region f).ring ++ [{ r with state := .held, holders := s.holdersOf f }] }).publishTo .p0 r.id
          r.bytes.length).publishTo .p1 r.id r.bytes.length).publishTo .p2 r.id r.bytes.length := by
  simp [State.publish, hf, h]

/-! ### Records by identity (R121, R123) -/

/-- R113, R121: looking for an identity in a ring finds the first record that has it. -/
theorem find_id {before after : List Record} {r : Record} (h : ∀ x ∈ before, x.id ≠ r.id) :
    (before ++ r :: after).find? (fun x => decide (x.id = r.id)) = some r := by
  rw [List.find?_append, List.find?_eq_none.2 fun x hx => by simpa using h x hx]
  simp

/-- R121: the size of the record of an identity. -/
theorem State.storedSize_of_ring {s : State} {before after : List Record} {r : Record}
    (hr : (s.region r.id.feed).ring = before ++ r :: after) (h : ∀ x ∈ before, x.id ≠ r.id) :
    s.storedSize r.id = r.bytes.length := by simp only [State.storedSize, hr, find_id h]

/-- R123: the bytes of the record of an identity. -/
theorem State.storedByte_of_ring {s : State} {before after : List Record} {r : Record}
    (hr : (s.region r.id.feed).ring = before ++ r :: after) (h : ∀ x ∈ before, x.id ≠ r.id) (i : Nat) :
    s.storedByte r.id i = r.bytes.getD i 0 := by simp only [State.storedByte, hr, find_id h]

/-- R112, R123: a transfer after the removal of several records: cut if it was of one of them. -/
theorem foldl_cutTransfer (held : List Record) (t : Option Transfer) :
    held.foldl (fun t r => cutTransfer r.id t) t = t.map fun x =>
      if x.id ∈ held.map Record.id ∧ x.reached < x.size then { x with cut := true } else x := by
  induction held generalizing t with
  | nil => cases t <;> simp
  | cons a l ih =>
    rw [List.foldl_cons, ih]
    rcases t with _ | x
    · rfl
    · simp only [cutTransfer, Option.map_some, Option.some.injEq, List.map_cons, List.mem_cons]
      by_cases h : x.reached < x.size
      · by_cases ha : x.id = a.id <;> simp [h, ha]
      · simp [h]

end Sys2Proof.Machine
end

