-- ==== Sys2Proof/Tests/Slice0.lean ====
section
/-! SUPPORT. The model's own tests. Their expected values come from the examples and tables of the spec, named in each; then,
for each statement with hypotheses, a witness: states and operands that meet them, clause by clause. -/

namespace Sys2Proof.Tests

open Sys2Proof.Machine

/-! ### Helpers -/

/-- What `look` finds in the state after a step. -/
def after {α : Type} (i : Instr) (s : State) (look : State → α) : Option α :=
  match exec i s with
  | .next t => some (look t)
  | .fault _ => none
  | .refused _ => none

/-- `s` with a complete frame in hand at Port 0, in EXECUTING (R144). -/
def hand (s : State) (code : Byte) (ps : List Byte) : State :=
  s.setPort .p0 { (s.port .p0).toPhase .executing with
    rx := ⟨some code, some (BitVec.ofNat 8 ps.length), ps, ps.length⟩ }

/-- The response at Port 0. -/
def response0 (t : State) : Option Response := (t.port .p0).response

/-! ### Well-formedness and table words -/

theorem test_frameStart_of_one_period_is_ill_formed : (Instr.frameStart .p0 [1] false).wellFormed = false := by decide

theorem test_frameStart_of_two_periods_is_well_formed : (Instr.frameStart .p0 [1, 0] false).wellFormed = true := by decide

theorem test_read_of_one_period_is_ill_formed : (Instr.read .p2 [0]).wellFormed = false := by decide

theorem test_no_word_spells_a_step : decodeTableWord 8 0x10 = none := by decide

/-! ### Stage links: 01 §1.10 -/

/-- L2 of §1.10 in SYNC with two good frames, seven slots of F3 done. -/
def link110 : LinkRx :=
  { LinkRx.reset with
    enabled := true, lock := .sync, goodRun := 2, phase := .cells
    frame := some ⟨List.replicate 7 SlotEntry.blank, [], false⟩ }

/-- §1.10, step 5: F3's slot 7 with tag 15 returns the link to HUNT, one tag mismatch and one bad frame. -/
theorem test_step5_tag_mismatch :
    let t := (State.reset.setLink .l2 link110).completeSlot .l2 ⟨List.replicate 7 SlotEntry.blank, [], false⟩
      (slotCells SlotEntry.blank 15) 0
    (t.link .l2).lock = .hunt ∧ (t.link .l2).goodRun = 0 ∧
      (t.link .l2).counters = ⟨0, 1, 0, 1, 0, 0, 0⟩ := by decide

/-- §1.10, steps 9 and 10: the fourth frame in the FIFO makes the link ready; step 11: a pop of an empty FIFO gives the last
frame again, and counts a slip repeat. -/
theorem test_fourth_frame_makes_ready :
    let f : LinkFrame := List.replicate 16 SlotEntry.blank
    let r := { link110 with lock := .locked }
    ((r.arrive f).arrive f).arrive f = { r with fifo := [f, f, f] } ∧
      (((r.arrive f).arrive f).arrive f |>.arrive f).ready = true ∧
      ({ r with ready := true, lastFrame := some f }.request.2 = some f) ∧
      { r with ready := true, lastFrame := some f }.request.1.counters.slipRepeats = 1 := by decide

/-- §1.10, end: a link of timeout 24 times out after 25 ticks of silence. -/
theorem test_timeout_after_25_ticks :
    after (.edgeTimeout .l2 24) (State.reset.setLink .l2 link110) (fun t => (t.link .l2).lock) = some .sync ∧
    after (.edgeTimeout .l2 25) (State.reset.setLink .l2 link110) (fun t => (t.link .l2).lock) = some .hunt := by decide

/-- R1, R10: with the reset windows a pulse of 12 ticks in HUNT is a MARK, one of 8 ticks is not. -/
theorem test_mark_moves_to_sync :
    let r : LinkRx := { LinkRx.reset with enabled := true, lock := .hunt, measuredFrom := some 100, quietSince := 100 }
    let s := State.reset.setLink .l2 r
    after (.lineTransition .l2 112) s (fun t => ((t.link .l2).lock, (t.link .l2).phase)) = some (.sync, .markTail) ∧
    after (.lineTransition .l2 108) s (fun t => ((t.link .l2).lock, (t.link .l2).phase)) = some (.hunt, .waitMark) := by
  decide

/-! ### Timebase and takes: 02 §2.9, 11 §11.3 -/

/-- §2.9, step 2: the start position is 1 000 320; §11.3: 6 000 960; §4.7, step 2: 3 000 960. A position that is a boundary
itself is followed by the next one. -/
theorem test_next_boundaries :
    boundaryAfter 960 1000050 = 1000320 ∧ boundaryAfter 960 6000100 = 6000960 ∧ boundaryAfter 960 3000200 = 3000960 ∧
      boundaryAfter 960 960 = 1920 := by decide

/-- R113: take 1 follows take 65535, and the half circle divides earlier from later. -/
theorem test_takes_in_order :
    takeEarlier 65535 1 = true ∧ takeEarlier 1 65535 = false ∧ takeEarlier 1 32768 = true ∧
      takeEarlier 1 32769 = false ∧ takeEarlier 5 5 = false := by decide

/-- R24: a period of nominal - 17 ticks is early, one of nominal - 16 good; the late moment is nominal + 17. -/
theorem test_edges_at_the_tolerance :
    let s := { State.reset with
      timebase := { State.reset.timebase with reference := .wclk, clock := .acquire, lastEdge := some 0, goodCount := 5 } }
    after (.wclkEdge 4079) s (fun t => t.timebase.goodCount) = some 0 ∧
    after (.wclkEdge 4080) s (fun t => t.timebase.goodCount) = some 6 ∧
    after (.wclkEdge 4112) s (fun t => t.timebase.goodCount) = some 6 ∧
    after (.latePeriod 4112) s (fun t => t.timebase.lastEdge) = some (some 0) ∧
    after (.latePeriod 4113) s (fun t => (t.timebase.lastEdge, t.timebase.goodCount)) = some (none, 0) := by decide

/-- R24: absence 2 × nominal ticks after the absence start sends a LOCKED timebase to HOLDOVER. -/
theorem test_absence_enters_holdover :
    let s := { State.reset with
      timebase := { State.reset.timebase with reference := .wclk, clock := .locked, absenceStart := 8 } }
    after (.referenceAbsent 8199) s (fun t => t.timebase.clock) = some .locked ∧
    after (.referenceAbsent 8200) s (fun t => t.timebase.clock) = some .holdover := by decide

/-! ### Mix engine: 04 §4.7 -/

/-- §4.7: the ramps of T4 from 32768 to 16384 and of T5 from 0 to 8192 at offsets 0, 479 and 959. -/
theorem test_ramped_gains :
    rampedGain 32768 16384 0 960 = 32751 ∧ rampedGain 0 8192 0 960 = 8 ∧ rampedGain 32768 16384 479 960 = 24576 ∧
      rampedGain 0 8192 479 960 = 4096 ∧ rampedGain 32768 16384 959 960 = 16384 ∧ rampedGain 0 8192 959 960 = 8192 := by
  decide

/-- R62, R63: division rounds half up, and a bus sample saturates at both ends. -/
theorem test_round_and_saturate :
    roundHalfUp 16384 = 1 ∧ roundHalfUp 16383 = 0 ∧ roundHalfUp (-16384) = 0 ∧ roundHalfUp (-16385) = -1 ∧
      (saturate 8388608).toInt = 8388607 ∧ (saturate (-8388609)).toInt = -8388608 ∧ saturates 8388607 = false := by
  decide

/-! ### Coder and rate control: 05 §5.7, 06 §6.7, §6.8, 11 §11.5 -/

/-- §5.7: M0 at its limit requantizes to 2 097 151 at shift 2; R86: the least sample, and rounding half up. -/
theorem test_requantize :
    requantize 2 8388607 = 2097151 ∧ requantize 8 (-8388608) = -32768 ∧ requantize 1 (-3) = -1 ∧ requantize 1 3 = 2 ∧
      requantize 0 (-5) = -5 := by decide

/-- R90: residuals to numbers, and the codes of small residuals. -/
theorem test_rice_codes :
    riceIndex 0 = 0 ∧ riceIndex (-1) = 1 ∧ riceIndex 1 = 2 ∧ riceIndex (-2) = 3 ∧
      riceCode 0 0 = [false] ∧ riceCode 1 (-2) = [true, false, true] ∧ riceLength 0 15 = 31 ∧ riceLength 0 16 = 60 := by
  decide

/-- §5.6, §5.7: a silent channel of 960 samples codes in order 0 in 129 bytes; one at its limit in order 1 in 132 bytes. -/
theorem test_section_sizes :
    chosenOrder (List.replicate 960 0) = 0 ∧ sectionLength 2 (List.replicate 960 0) = 129 ∧
      chosenOrder (List.replicate 960 2097151) = 1 ∧ sectionBits 2 (List.replicate 960 2097151) = 1053 ∧
      sectionLength 0 (List.replicate 960 8388607) = 132 := by decide +kernel

/-- §6.7: blocks 1 and 3 of the loud passage: the first shift that fits, and the shedding of T21. -/
theorem test_loud_passage :
    let rc : RateControl := ⟨[.bus 0, .bus 1, .track 20, .track 21], 1536, 4, 0, 0⟩
    let cost1 := fun s _ => [50400, 43200, 36000, 29600, 23200, 17200].getD s 0
    let cost3 := fun s j => if j = 4 then [0, 0, 0, 0, 0, 30400, 25600, 21600, 19600].getD s 0 else 14000
    streamDecision cost1 4 1 17440 = ⟨5, 4, false, false⟩ ∧
    ({ rc with level := 2080, prevShift := 1 }.charge cost1 ⟨5, 4, false, false⟩).level = 240 ∧
    streamDecision cost3 4 6 19360 = ⟨8, 3, true, false⟩ ∧
    ({ rc with level := 4000, prevShift := 6 }.charge cost3 ⟨8, 3, true, false⟩).level = 5360 ∧
    ({ rc with level := 60000 }.charge (fun _ _ => 10000) ⟨4, 4, false, false⟩).level = 61440 := by decide

/-- §6.8: block 79 fits exactly, block 80 overruns with nothing to shed. -/
theorem test_silent_roster :
    let rc : RateControl := ⟨[.bus 0], 128, 1, 0, 0⟩
    rc.budget = 1280 ∧ rc.capacity = 1280 ∧ rc.initTake.level = 640 ∧
    streamDecision (fun _ _ => 1288) 1 0 1288 = ⟨0, 1, false, false⟩ ∧
    streamDecision (fun _ _ => 1288) 1 0 1280 = ⟨8, 1, false, true⟩ ∧
    (rc.charge (fun _ _ => 1288) ⟨8, 1, false, true⟩).level = 0 := by decide

/-- §11.5, block 2: at shift 8 the entries 4 and 3 do not fit 10 464 bits, 2 do. -/
theorem test_budget_squeeze :
    streamDecision (fun s j => if s = 7 then 14000 else [0, 5000, 9728, 10848, 11968, 13000].getD j 0) 5 8 10464 =
      ⟨8, 2, true, false⟩ := by decide

/-! ### Records and cues: 10 §10.7, 08 §8.8 -/

/-- §10.7: the header of the stream record of block 41. -/
theorem test_record_header :
    ({ kind := .block, id := ⟨.stream, 8, 41⟩, position := 5000640, rate := .hz96000, shift := 2, holdover := false,
       shed := false, overrun := false, aborted := false, rosterLength := 3, present := 3, sections := 3, cues := 2,
       length := 1247 } : Header).bytes =
      [1, 2, 0, 8, 0, 41, 0, 0, 0, 0x4C, 0x4D, 0xC0, 1, 3, 0xC0, 2, 0, 3, 0xE0, 0, 3, 2, 0, 0, 4, 0xDF, 0, 0, 0, 0, 0,
       0] := by decide

/-- §10.7: the cue entry of the FAULT cue `L0 LOST` of PART at offset 360. -/
theorem test_cue_entry :
    cueEntryBytes 5000640 ⟨7, 5001000, .fault, linkLostLabel .l0, .part⟩ =
      [0, 7, 1, 0x68, 0x33, 7, 0x4C, 0x30, 0x20, 0x4C, 0x4F, 0x53, 0x54, 0, 0, 0] := by decide

/-- §8.8, steps 1 to 3: ids from the counter, wrapping past 65535, and entries in the order of their positions. -/
theorem test_cues_in_order :
    let c0 : Cues := ⟨[⟨65533, 3981120, .sectionStart, [], .port .p2⟩], 65534, []⟩
    let c3 := ((c0.add 4000500 .mark [] (.port .p2)).add 3999900 .mark [] (.port .p0)).add 4000900 .fault [] .part
    c3.entries.map Cue.id = [65533, 65535, 65534, 1] ∧ c3.nextId = 2 := by decide

/-- §8.8, step 5: the cue copy of block 20. -/
theorem test_cue_copy :
    let at_ := fun id position => (⟨id, position, .mark, [], .port .p0⟩ : Cue)
    (cuesInBlock [at_ 65533 3981120, at_ 65535 3999900, at_ 65534 4000500, at_ 1 4000900, at_ 2 4001279] 4000320 960).map
      Cue.id = [65534, 1, 2] := by decide

/-! ### Store: 07 §7.10 -/

/-- §7.10, step 7: room for record 3 takes record 0, held by Port 1 alone, out of the store. -/
theorem test_placement_removes_the_head :
    let record := fun n => (⟨⟨.stream, 12, n⟩, .block, [], 5, 0, .held, ⟨false, true, false⟩⟩ : Record)
    let f : FeedState := ⟨some .stream, some ⟨.stream, 12, 0⟩, 0, none, false, none, none⟩
    let s := { State.reset with
      feeds := ⟨FeedState.reset, f, FeedState.reset⟩
      store := { State.reset.store with stream := ⟨16, [record 0, record 1, record 2], none, 1792, none⟩ } }
    let t := s.makeRoom .stream 5 3
    t.store.stream.ring.map (fun r => r.id.sequence) = [1, 2] ∧ t.store.stream.free = 6 ∧
      (t.feed .p1).lost = 1 ∧ (t.feed .p1).lastTaken = some ⟨.stream, 12, 0⟩ ∧
      (t.feed .p1).cursor = some ⟨.stream, 12, 1⟩ ∧ (t.port .p1).events = eventOf .lagged ∧ t.feed .p0 = s.feed .p0 := by
  decide

/-! ### Command ports: 09, 10 §10.4 -/

/-- R163: 0xA5 on the lanes: D0 bit 7 first in SINGLE, D3 to D0 in QUAD. -/
theorem test_byte_on_lanes :
    periodsOfByte .quad 0xA5 = [0xA, 0x5] ∧ (periodsOfByte .single 0xA5) = [1, 0, 1, 0, 0, 1, 0, 1] ∧
      bytesIn .single [1, 0, 1, 0, 0, 1, 0, 1, 1] = ([0xA5], [1]) := by decide

/-- R142, R163: 0xA5 out of the port: D1 bit 7 first in SINGLE, D3 to D0 in QUAD; filler holds D1 high. -/
theorem test_byte_out_of_the_port :
    drivenByte .single 0xA5 =
      [.d1 true, .d1 false, .d1 true, .d1 false, .d1 false, .d1 true, .d1 false, .d1 true] ∧
    drivenByte .quad 0xA5 = [.all 0xA, .all 0x5] ∧ fillerOut .single 1 = [.d1 true] ∧ fillerIn .quad 1 = [.released] := by
  decide

/-- R163: the codes of the nine events, ATTN, and the flags byte. -/
theorem test_events_and_flags :
    eventOf .recReady = 1 ∧ eventOf .configChange = 256 ∧ attnOf 5 4 = true ∧ attnOf 5 2 = false ∧
      flagsByte { PortState.reset true with inputDropped := true } = 0x80 ∧
      flagsByte { PortState.reset true with responseDiscarded := true } = 0x40 := by decide

/-- §9.12, steps 4 and 9: a READ whose flags byte goes out clears the flags; one that ends before it does not. -/
theorem test_flags_reported_once :
    let s := State.reset.setPort .p0 { PortState.reset true with
      laneMode := .quad, phase := .responseReady, response := some (Response.of .ok []), inputDropped := true }
    after (.read .p0 (periodsOf .quad [0, 0])) s (fun t => ((t.port .p0).inputDropped, (t.port .p0).sent)) =
      some (true, 1) ∧
    after (.read .p0 (periodsOf .quad [0, 0, 0])) s (fun t => ((t.port .p0).inputDropped, (t.port .p0).driven)) =
      some (false, [.released, .released, .all 0, .all 0, .all 8, .all 0]) := by decide

/-- R144, R146: a frame BAD_LENGTH for ARM with a parameter, and a code that names no command. -/
theorem test_bad_frames :
    after (.arm .p0 []) (hand State.reset 0x10 [1]) response0 = some (some ⟨.badLength, .bytes []⟩) ∧
    after (.badCommand .p0 []) (hand State.reset 0x05 []) response0 = some (some ⟨.badCommand, .bytes []⟩) := by decide

/-- R142: in SINGLE mode D1 carries filler in a transfer of seven SCLK periods too (R143), and in the periods that a port
ignores after a receive timeout (R145). -/
theorem test_filler_without_a_transfer_code :
    after (.read .p0 (List.replicate 7 1)) State.reset (fun t => (t.port .p0).driven) =
      some (List.replicate 7 (.d1 true)) ∧
    after (.receiveTimeout ⟨.p0, [1, 0, 1]⟩) (State.reset.setPort .p0 ((PortState.reset true).toPhase .receiving))
      (fun t => (t.port .p0).driven) = some [.d1 true, .d1 true, .d1 true] := by decide

/-- R158: STATUS right after reset. -/
theorem test_status_after_reset :
    after (.status .p0 []) (hand State.reset 0x4B []) response0 =
      some (some ⟨.ok, .bytes [0, 0, 1, 0, 0, 0, 0, 0, 0, 0, 0, 0, 0, 0, 0, 0, 0, 0, 0, 0, 0, 0, 0]⟩) := by decide

/-- R100: STREAM_GET right after reset: roster M0 and M1, R 1536, k 4, B 15 360, C 61 440. -/
theorem test_stream_get_after_reset :
    after (.streamGet .p0 []) (hand State.reset 0x31 []) response0 =
      some (some ⟨.ok, .bytes [2, 64, 65, 6, 0, 4, 0, 0, 0x3C, 0, 0, 0, 0xF0, 0, 0, 0, 0, 0, 0]⟩) := by decide

/-- R99: a rate below 128 is clamped, and a roster naming a source twice is CONFLICT. -/
theorem test_stream_setup :
    after (.streamSetup .p0 []) (hand State.reset 0x30 [1, 66, 0, 100, 4]) response0 =
      some (some ⟨.okClamped, .bytes [0, 128, 4, 0, 0, 5, 0, 0, 0, 0x14, 0, 0, 0, 0, 0]⟩) ∧
    after (.streamSetup .p0 []) (hand State.reset 0x30 [2, 66, 66, 6, 0, 4]) response0 =
      some (some ⟨.conflict, .bytes []⟩) := by decide

/-! ### Witnesses: states and operands that meet the hypotheses of the statements -/

/-- A frame put in hand at Port 0 is in hand: its port is the one the statements call `e`. -/
abbrev InHand (s : State) (code : Byte) (c : Command) (ps : List Byte) : Prop :=
  (hand s code ps).commandAt .p0 [] c ps ((hand s code ps).port .p0)

theorem hand_inHand {s : State} {code : Byte} {c : Command} {ps : List Byte} (hr : s.resetHeld = false)
    (hc : commandOf? code = some c) (hl : ps.length < 256) : InHand s code c ps := by
  refine ⟨hr, code, hc, ?_⟩
  have hp : ((hand s code ps).port .p0).phase = .executing := rfl
  have hx : ((hand s code ps).port .p0).rx = ⟨some code, some (BitVec.ofNat 8 ps.length), ps, ps.length⟩ := rfl
  simp [State.frameEnds, hp, hx, ReceiveBuffer.frame?, Nat.mod_eq_of_lt hl]

/-- After reset, with the take in a state. -/
def inTake (st : TakeState) : State := { State.reset with take := { Take.reset with state := st } }

/-- Take 7 with block 5 from position 960 filling in buffer 0, at position 1000, in a take state. -/
def gatheringTake (st : TakeState) : State :=
  { State.reset with
    take := ⟨st, 7, 5, 0, true, if st = .closing then .close else .none, 0⟩
    timebase := { State.reset.timebase with position := 1000 }
    framer := { Framer.reset with buffer0 := { GatherBuffer.reset with state := .filling, start := 960 } } }

/-- `s` with a block in coding in buffer 1. -/
def coding (s : State) : State :=
  { s with engine := { s.engine with state := .archive, block := some .b1, archiveQueued := true } }

/-- `s` just before a position, at the moment of the oscillator's next event. -/
def before (s : State) (p : Nat) : State :=
  { s with timebase := { s.timebase with position := p - 1 }, now := s.timebase.nextOscillator }

/-- `s` with the feed state of Port 0 changed. -/
def feed0 (s : State) (f : FeedState) : State := s.setFeed .p0 f

/-- A link of the receiver state `r`, after reset. -/
def onLink (r : LinkRx) : State := State.reset.setLink .l2 r

/-- A link in a lock state, enabled. -/
def linkIn (lock : LockState) : LinkRx := { LinkRx.reset with enabled := true, lock := lock }

/-- The queue, reset and the conditions of a safe run. -/
theorem witness_StepTakesTheFrontOfTheQueue : State.reset.pending = [] := rfl

theorem witness_ResetReturnsEveryBlock : { State.reset with resetHeld := true }.resetHeld = true := rfl

/-- ARM in hand with its row at the front of the queue. -/
def armQueued : State := { hand State.reset 0x10 [] with pending := [.arm .p0 []] }

theorem witness_StepsKeepPortsSound : PortsSound armQueued ∧ ∃ t, step armQueued = .next t :=
  ⟨⟨by intro p; cases p <;> rfl, by intro p; cases p <;> rfl, by intro p; cases p <;> rfl, by intro p; cases p <;> rfl,
    by intro h; cases h⟩, _, rfl⟩

/-- A link of reset settings in HUNT, with a transition at the front of the queue. -/
def huntQueued : State := { onLink (linkIn .hunt) with pending := [.lineTransition .l2 5] }

theorem witness_StepsKeepLinksSound :
    (∀ l, (huntQueued.link l).Sound) ∧ ∃ t, step huntQueued = .next t := by
  refine ⟨fun l => ?_, _, rfl⟩
  cases l <;> constructor <;> first | decide | (constructor <;> decide)

theorem witness_StepsKeepControllersSound :
    armQueued.timebase.Sound ∧ armQueued.take.Sound ∧ armQueued.rate.Sound ∧ ∃ t, step armQueued = .next t := by
  refine ⟨?_, ?_, ?_, _, rfl⟩ <;> constructor <;> decide

/-- One cue in the list and one request waiting, its taking at the front of the queue. -/
def requestQueued : State :=
  { State.reset with
    cues := ⟨[⟨1, 0, .mark, [65], .port .p0⟩], 2, [⟨linkLostLabel .l1, 0⟩]⟩
    pending := [.faultRequestTaken] }

theorem witness_StepsKeepCuesSound : requestQueued.cues.Sound ∧ ∃ t, step requestQueued = .next t :=
  ⟨by constructor <;> decide, _, rfl⟩

/-- A one-page record of a feed, held by a port. -/
def heldRecord (f : Feed) (n : Nat) (holders : PerPort Bool) : Record :=
  ⟨⟨f, 1, n⟩, .ending, [0], 1, 0, .held, holders⟩

/-- Port 0 subscribed to ARCHIVE and holding one record, with RELEASE of it in hand and its row at the front. -/
def releaseQueued : State :=
  { hand (feed0 { State.reset with store := { State.reset.store with
        archive := ⟨1792, [heldRecord .archive 0 ⟨true, false, false⟩], none, 1, none⟩ } }
      ⟨some .archive, some ⟨.archive, 1, 0⟩, 0, none, false, none, none⟩) 0x3C [1, 0, 1, 0, 0] with
    pending := [.release .p0 []] }

theorem witness_StepsKeepRegionsSound :
    (∀ f, (releaseQueued.region f).Sound) ∧ releaseQueued.Holdings ∧ releaseQueued.NewIdsFresh ∧
    ∃ t, step releaseQueued = .next t := by
  refine ⟨?_, ?_, ?_, _, rfl⟩
  · intro f; cases f <;> constructor <;> simp [releaseQueued, hand, feed0, State.setFeed, State.setPort, State.region,
        Store.region, State.reset, State.resetAt, Store.reset, heldRecord, noHolders, pagesFor]
  · refine ⟨?_, ?_, ?_, ?_, ?_, by decide, by decide, by decide⟩
    · intro f; cases f <;> exact ⟨by decide, fun x h => by cases h⟩
    · intro f; cases f <;> decide
    · intro p f; cases p <;> cases f <;> decide
    · intro p f h
      cases p <;> cases f <;> first
        | exact absurd h (by decide)
        | exact ⟨[], _, rfl, by decide, by decide, rfl⟩
    · intro p h; cases p <;> first | rfl | exact absurd h (by decide)
  · refine ⟨?_, ?_, ?_⟩ <;> intro f x hx <;> cases f
    · intro y hy; cases hy
    · intro y hy; cases hy
    · intro i hi; cases hi
    · intro i hi; cases hi
    · intro h; exact absurd h (by decide)
    · intro h; exact absurd h (by decide)

theorem witness_PositionCountsSamplePeriods :
    (∃ t, exec (.samplePeriodEvent ⟨4096, []⟩) State.reset = .next t) ∧ isReset (.samplePeriodEvent ⟨4096, []⟩) = false ∧
    State.reset.resetHeld = false ∧ State.reset.timebase.clock ≠ .locked ∧
    State.reset.timebase.nextOscillator ≤ max State.reset.now 4096 ∧ State.reset.take.gathering = false ∧
    State.reset.timebase.position + 1 < lastPosition ∧
    (State.reset.timebase.position + 1) % blockLengthOf State.reset.timebase.rate ≠ 0 :=
  ⟨⟨_, rfl⟩, by decide⟩

/-! Bytes, frames and responses at a port. -/

theorem witness_BytesCrossTheLanes :
    (List.replicate 7 (1 : Lanes)).length < 8 ∧ (List.replicate 1 (3 : Lanes)).length < 2 ∧ 7 < 8 ∧ 0 < 1 ∧
    ([3, 2] : List Lanes).map (·.getLsbD 0) = ([1, 0] : List Lanes).map (·.getLsbD 0) := by decide

/-- A frame of no parameters, one of 250 and one of 255, in SINGLE mode. -/
theorem witness_FrameArrivesWhole (n : Nat) (hn : n = 0 ∨ n = 250 ∨ n = 255) :
    let ps := List.replicate n (0 : Byte)
    let first := periodsOfByte .single 0x30
    let rest := periodsOf .single (BitVec.ofNat 8 ps.length :: ps)
    State.reset.resetHeld = false ∧ (State.reset.port .p0).phase = .idle ∧ (0x30 : Byte) ≠ 0 ∧ ps.length ≤ 255 ∧
    first ++ rest = periodsOf (State.reset.port .p0).select.laneMode (0x30 :: BitVec.ofNat 8 ps.length :: ps) ∧
    (periodsOfByte (State.reset.port .p0).select.laneMode 0x30).length ≤ first.length := by
  refine ⟨rfl, rfl, by decide, ?_, ?_, ?_⟩
  · rw [List.length_replicate]
    omega
  · simp only [periodsOf, List.flatMap_cons]
    rfl
  · exact Nat.le_refl _

/-- Port 0 in a phase, with a response in RESPONSE_READY and SENDING. -/
def inPhase (ph : PortPhase) : State :=
  State.reset.setPort .p0 { (PortState.reset true).toPhase ph with
    response := match ph with
      | .responseReady => some (Response.of .ok [7])
      | .sending => some (Response.of .ok [7])
      | .idle | .receiving | .executing | .waiting => none }

theorem witness_FrameStartOutsideIdle :
    let clocks := periodsOf .single [0x10]
    (∀ ph, (inPhase ph).resetHeld = false ∧ (bytesIn ((inPhase ph).port .p0).laneMode clocks).1 = [0x10]) ∧
    (0x10 : Byte) ≠ 0 ∧ ((inPhase .executing).port .p0).phase = .executing ∧
    ((inPhase .waiting).port .p0).phase = .waiting ∧ ((inPhase .responseReady).port .p0).phase = .responseReady := by
  refine ⟨fun ph => ?_, by decide⟩
  cases ph <;> decide

theorem witness_FramesAreAbandoned :
    let s := inPhase .receiving
    s.resetHeld = false ∧ (s.port .p0).phase = .receiving ∧ (s.port .p0).rx.frame? = none ∧
    commandRow? (.arm .p0 []) = some (.p0, [], .arm) ∧ ((s.port .p0).clockIn []).rx.frame? = none := by decide

/-- Port 0 with a frame of ARM that declares 251 parameter bytes. -/
def overlongHand : State :=
  State.reset.setPort .p0 { (PortState.reset true).toPhase .executing with
    rx := ⟨some 0x10, some 251, List.replicate 250 0, 251⟩ }

theorem witness_RefusalsChangeNothing :
    (hand State.reset 0x05 []).frameEnds .p0 [] =
      some ((hand State.reset 0x05 []).setPort .p0 ((hand State.reset 0x05 []).port .p0), ⟨0x05, 0, []⟩) ∧
    commandOf? 0x05 = none ∧
    commandRow? (.arm .p0 []) = some (.p0, [], .arm) ∧ commandOf? 0x10 = some .arm ∧
    overlongHand.frameEnds .p0 [] =
      some (overlongHand.setPort .p0 (overlongHand.port .p0), ⟨0x10, 251, List.replicate 250 0⟩) ∧ 250 < 251 ∧
    (hand State.reset 0x10 [1]).frameEnds .p0 [] =
      some ((hand State.reset 0x10 [1]).setPort .p0 ((hand State.reset 0x10 [1]).port .p0), ⟨0x10, 1, [1]⟩) ∧
    requiredLength .arm [1] ≠ some 1 ∧
    (hand (inTake .rolling) 0x10 []).frameEnds .p0 [] =
      some ((hand (inTake .rolling) 0x10 []).setPort .p0 ((hand (inTake .rolling) 0x10 []).port .p0), ⟨0x10, 0, []⟩) ∧
    ((hand (inTake .rolling) 0x10 []).port .p0).response = none ∧
    (∃ t, exec (.arm .p0 []) (hand (inTake .rolling) 0x10 []) = .next t ∧
      (t.port .p0).response = some ⟨.state, .bytes []⟩) ∧ Status.state.changesNothing = true :=
  ⟨rfl, rfl, rfl, rfl, rfl, by decide, rfl, by decide, rfl, rfl, ⟨_, rfl, rfl⟩, rfl⟩

theorem witness_CommandsLeaveOtherPortsAlone :
    commandRow? (.arm .p0 []) = some (.p0, [], .arm) ∧ Command.arm ≠ .abort ∧ Port.p1 ≠ .p0 ∧
    ∃ t, exec (.arm .p0 []) (hand State.reset 0x10 []) = .next t :=
  ⟨rfl, by decide, by decide, _, rfl⟩

theorem witness_ResponseLayout :
    let x : Transfer := ⟨⟨.stream, 8, 41⟩, 1247, 0, false⟩
    let answered := fun cut => feed0 State.reset { FeedState.reset with transfer := some { x with cut := cut } }
    (Response.of .ok [7]).dataLength < 2 ^ 24 ∧ 0 < [(7 : Byte)].length ∧ 65535 < 65536 ∧
    (∀ y, ((answered false).feed .p0).transfer = some y → y.cut = false) ∧
    ((answered true).feed .p0).transfer = some { x with cut := true } ∧
    (let r := fun n => heldRecord .stream n ⟨true, false, false⟩
      let stored := { answered false with store := { (answered false).store with
        stream := ⟨16, [r 0, r 1, r 2], none, 1793, none⟩ } }
      (stored.region (r 1).id.feed).ring = [r 0] ++ r 1 :: [r 2] ∧ (∀ z ∈ [r 0], z.id ≠ (r 1).id) ∧
      0 < (r 1).bytes.length ∧ (∀ y, (stored.feed .p0).transfer = some y → y.cut = false)) := by
  refine ⟨by decide, by decide, by decide, ?_, rfl, rfl, by decide, by decide, ?_⟩ <;>
    (intro y hy; cases hy; rfl)

theorem witness_ResponsesAreSent :
    let clocks := periodsOf .single [0, 0, 0]
    (∀ ph, (bytesIn ((inPhase ph).port .p0).select.laneMode (List.replicate 7 1)).1 = []) ∧ PortPhase.idle ≠ .receiving ∧
    PortPhase.idle ≠ .sending ∧ ((inPhase .receiving).port .p0).phase = .receiving ∧
    (∀ ph, (inPhase ph).resetHeld = false ∧ (bytesIn ((inPhase ph).port .p0).laneMode clocks).1 = readCode :: [0, 0] ∧
      (bytesIn ((inPhase ph).port .p0).select.laneMode clocks).1 = readCode :: [0, 0]) ∧
    ((inPhase .responseReady).port .p0).phase = .responseReady ∧
    ((inPhase .responseReady).port .p0).response = some (Response.of .ok [7]) ∧
    ((inPhase .responseReady).port .p0).sent = 0 ∧ ((inPhase .idle).port .p0).phase = .idle ∧
    ((inPhase .executing).port .p0).phase = .executing ∧ ((inPhase .waiting).port .p0).phase = .waiting ∧
    ((inPhase .sending).port .p0).phase = .sending ∧
    ((inPhase .sending).port .p0).response = some (Response.of .ok [7]) := by
  refine ⟨fun ph => ?_, by decide, by decide, rfl, fun ph => ?_, by decide⟩ <;> cases ph <;> decide

/-! Port commands and events. -/

theorem witness_PortModeSetsTheModeDue :
    InHand State.reset 0x48 .portMode [0] ∧ laneMode? 0 = some .single ∧
    InHand State.reset 0x48 .portMode [1] ∧ laneMode? 1 = some .quad ∧
    InHand State.reset 0x48 .portMode [2] ∧ 2 ≤ (2 : Byte).toNat :=
  ⟨hand_inHand rfl rfl (by decide), rfl, hand_inHand rfl rfl (by decide), rfl, hand_inHand rfl rfl (by decide),
    by decide⟩

theorem witness_EventsAreRaisedAndRead : InHand State.reset 0x49 .events [] := hand_inHand rfl rfl (by decide)

theorem witness_EventMaskReplacesTheMask :
    InHand State.reset 0x4A .eventMask [2, 0] ∧ 512 ≤ numberOf [2, 0] ∧
    InHand State.reset 0x4A .eventMask [1, 255] ∧ (511#9 : EventSet).toNat = numberOf [1, 255] ∧
    InHand State.reset 0x4A .eventMask [0, 0] ∧ numberOf [0, 0] = 0 :=
  ⟨hand_inHand rfl rfl (by decide), by decide, hand_inHand rfl rfl (by decide), by decide,
    hand_inHand rfl rfl (by decide), by decide⟩

theorem witness_StatusReadingsChangeNothing :
    InHand State.reset 0x3D .feedStatus [] ∧ InHand State.reset 0x4B .status [] ∧
    (hand State.reset 0x4B []).timebase.position ≤ lastPosition :=
  ⟨hand_inHand rfl rfl (by decide), hand_inHand rfl rfl (by decide), by decide⟩

/-! Stage links. -/

/-- A link in a lock state that began to measure at tick 100. -/
def measuring (lock : LockState) : LinkRx := { linkIn lock with measuredFrom := some 100, quietSince := 100 }

theorem witness_LineTransitionsAreMeasured :
    LinkRx.reset.settings.accepted = true ∧ (State.reset.link .l2).enabled = false ∧
    (∀ lock, lock = .hunt ∨ lock = .sync ∨ lock = .locked →
      ((onLink (measuring lock)).link .l2).enabled = true ∧
      ((onLink (measuring lock)).link .l2).timeoutBy? (max 0 112) = none ∧
      ((onLink (measuring lock)).link .l2).measuredFrom = some 100 ∧ 100 < max 0 112 ∧
      ((onLink (measuring lock)).link .l2).settings.filter < max 0 112 - 100 + 0 ∧
      ((onLink (measuring lock)).link .l2).lock = lock ∧
      max 0 101 - 100 + 0 ≤ ((onLink (measuring lock)).link .l2).settings.filter) ∧
    ((onLink (linkIn .hunt)).link .l2).measuredFrom = none ∧
    ((onLink (linkIn .hunt)).link .l2).timeoutBy? (max 0 24) = none ∧
    (∀ lock, let r := (onLink (linkIn lock)).link .l2
      25 = r.quietSince + r.settings.timeout + 1 ∧ 25 ≤ max 0 25 ∧ r.enabled = true ∧ r.timedOut = false ∧
      r.lock = lock) := by
  refine ⟨by decide, by decide, ?_, by decide, by decide, ?_⟩
  · rintro lock (rfl | rfl | rfl) <;> decide
  · intro lock; cases lock <;> decide

theorem witness_AssemblerFollowsThePulses :
    let f : PartialFrame := ⟨[], List.replicate 28 true, false⟩
    let given := fun edge => { onLink (linkIn .locked) with
      timebase := { State.reset.timebase with reference := .link .l2, lastEdge := edge, clock := .locked } }
    (∀ lock, lock = .sync ∨ lock = .locked → ∀ bad, bad = 1 ∨ bad = 2 →
      let r := { linkIn lock with badRun := bad }
      ((onLink r).link .l2).lock = lock ∧ ((onLink r).link .l2).badRun = bad ∧ ((onLink r).link .l2).phase = .waitMark ∧
      ((onLink r).link .l2).markDue = false ∧ ((onLink { r with markDue := true }).link .l2).markDue = true ∧
      ((onLink { r with phase := .markTail, frame := some f }).link .l2).phase = .markTail ∧
      ((onLink { r with phase := .cells, frame := some f }).link .l2).phase = .cells ∧
      ((onLink { r with phase := .cells, frame := some f }).link .l2).frame = some f ∧ f.halfOne = false ∧
      f.cells.length < 29 ∧
      ((onLink { r with phase := .cells, frame := some { f with halfOne := true } }).link .l2).frame =
        some { f with halfOne := true } ∧
      (∀ half, let last := { f with cells := List.replicate 29 true, halfOne := half }
        last.cells.length = 29 ∧
        ((onLink { r with phase := .cells, frame := some last }).link .l2).phase = .cells ∧
        ((onLink { r with phase := .cells, frame := some last }).link .l2).frame = some last)) ∧
    (given none).timebase.reference ≠ .link .l1 ∧ (given none).timebase.reference = .link .l2 ∧
    (given none).timebase.lastEdge = none ∧ (given (some 0)).timebase.lastEdge = some 0 ∧
    (given (some 0)).timebase.clock = .locked ∧ (given (some 0)).timebase.nominal - 16 ≤ 4080 - 0 ∧
    4112 < 0 + (given (some 0)).timebase.nominal + 17 := by
  refine ⟨?_, by decide⟩
  rintro lock (rfl | rfl) bad (rfl | rfl) <;> decide

theorem witness_SlotsMakeFrames :
    let e : SlotEntry := ⟨1, true, false, false⟩
    let f := fun n => (⟨List.replicate n e, List.replicate 29 false, false⟩ : PartialFrame)
    15 < 16 ∧ (f 15).slots.length < 16 ∧ (⟨1, true, false, parityFails (slotCells e 15)⟩ : SlotEntry).parityFailed =
      parityFails (slotCells ⟨1, true, false, parityFails (slotCells e 15)⟩ 15) ∧
    (List.replicate 30 true).length = 30 ∧
    (onLink (linkIn .sync)).link .l2 = linkIn .sync ∧ (linkIn .sync).lock = .sync ∧ (linkIn .locked).lock = .locked ∧
    ((onLink { linkIn .locked with badRun := 1 }).link .l2).badRun < 2 ∧
    2 ≤ ((onLink { linkIn .locked with badRun := 2 }).link .l2).badRun ∧
    15 ≠ (f 14).slots.length ∧ 14 = (f 14).slots.length ∧ 14 < 15 ∧ 15 = (f 15).slots.length ∧
    ((onLink (linkIn .locked)).link .l2).lock = .locked ∧ ((onLink (linkIn .locked)).link .l2).fifo.length < 8 ∧
    ((onLink { linkIn .locked with fifo := List.replicate 8 (List.replicate 16 e) }).link .l2).fifo.length = 8 ∧
    ((onLink { linkIn .sync with goodRun := 2 }).link .l2).lock = .sync ∧
    ((onLink { linkIn .sync with goodRun := 2 }).link .l2).goodRun < 3 ∧
    ((onLink { linkIn .sync with goodRun := 3 }).link .l2).goodRun = 3 := by decide

theorem witness_ElasticFifo :
    let f : LinkFrame := List.replicate 16 SlotEntry.blank
    let r := fun n ready => { linkIn .locked with fifo := List.replicate n f, ready := ready }
    (r 2 false).fifo.length < 3 ∧ (r 3 false).fifo.length = 3 ∧ (r 7 true).fifo.length < 8 ∧
    (r 8 true).fifo.length = 8 ∧ (r 2 false).ready = false ∧ (r 8 true).ready = true ∧
    (r 8 true).fifo = f :: List.replicate 7 f ∧ (r 0 true).fifo = [] ∧
    ((onLink (r 0 true)).link .l2).ready = true ∧ ((onLink (r 0 true)).link .l2).fifo = [] ∧
    (onLink (r 0 true)).take.gathering = false ∧ (gatheringTake .rolling).take.gathering = true ∧
    (gatheringTake .rolling).framer.filling? = some .b0 := by decide

theorem witness_EdgeTimeoutIsTaken :
    (∀ lock, lock = .hunt ∨ lock = .sync ∨ lock = .locked →
      (onLink (linkIn lock)).resetHeld = false ∧ ((onLink (linkIn lock)).link .l2).enabled = true ∧
      ((onLink (linkIn lock)).link .l2).timedOut = false ∧ ((onLink (linkIn lock)).link .l2).lock = lock ∧
      ((onLink (linkIn lock)).link .l2).quietSince + ((onLink (linkIn lock)).link .l2).settings.timeout + 1 ≤ max 0 25 ∧
      max 0 24 <
        ((onLink (linkIn lock)).link .l2).quietSince + ((onLink (linkIn lock)).link .l2).settings.timeout + 1) := by
  rintro lock (rfl | rfl | rfl) <;> decide

/-- The parameters of LINK_SETUP for L2: enable, and the edge timeout. -/
def setupL2 (enable timeout : Byte) : List Byte := [2, enable, 3, 6, 7, 10, 11, 15, 1, timeout]

theorem witness_LinkSetupAndRestart :
    (∀ lock ∈ [LockState.hunt, .sync, .locked], ∀ enable timeout, (enable = 0 ∨ enable = 1) →
      InHand (onLink (linkIn lock)) 0x01 .linkSetup (setupL2 enable timeout)) ∧
    InHand State.reset 0x01 .linkSetup (setupL2 1 24) ∧ (2 : Byte).toNat = linkNumber .l2 ∧
    (⟨3, 6, 7, 10, 11, 15, 1, 16⟩ : LinkSettings).accepted = true ∧
    (⟨3, 6, 7, 10, 11, 15, 1, 24⟩ : LinkSettings) = LinkRx.reset.settings ∧
    (⟨3, 6, 7, 10, 11, 15, 1, 16⟩ : LinkSettings) ≠ LinkRx.reset.settings ∧
    (⟨3, 6, 7, 10, 11, 15, 1, 15⟩ : LinkSettings).accepted = false ∧
    (State.reset.link .l2).enabled = false ∧ (linkIn .hunt).enabled = true ∧
    (linkIn .hunt).lock ≠ .locked ∧ (linkIn .locked).lock = .locked ∧
    InHand State.reset 0x04 .linkRestart [4] ∧ 3 < (4 : Byte).toNat ∧ InHand State.reset 0x04 .linkRestart [3] ∧
    (3 : Byte).toNat = linkNumber .l3 ∧ (State.reset.link .l3).lock = .disabled ∧
    InHand (onLink (linkIn .sync)) 0x04 .linkRestart [2] ∧ InHand (onLink (linkIn .locked)) 0x04 .linkRestart [2] := by
  refine ⟨?_, hand_inHand rfl rfl (by decide), rfl, by decide, rfl, by decide, by decide, rfl, rfl, by decide, rfl,
    hand_inHand rfl rfl (by decide), by decide, hand_inHand rfl rfl (by decide), rfl, rfl,
    hand_inHand rfl rfl (by decide), hand_inHand rfl rfl (by decide)⟩
  intro lock _ enable timeout _
  exact hand_inHand rfl rfl (by simp [setupL2])

/-- R19: settings at the edge of each condition, the settings at every edge at once that are accepted, and a command with any
settings in hand. -/
theorem witness_LinkSetupAndRestart_conditions :
    let refused := fun k : LinkSettings =>
      (k.shortLo = 0 ∨ k.shortHi = 0 ∨ k.longLo = 0 ∨ k.longHi = 0 ∨ k.markLo = 0 ∨ k.markHi = 0) ∨
      (k.shortHi < k.shortLo ∨ k.longHi < k.longLo ∨ k.markHi < k.markLo) ∨
      (k.longLo ≤ k.shortHi ∨ k.markLo ≤ k.longHi) ∨ (3 < k.filter ∨ k.shortLo ≤ k.filter) ∨
      (k.timeout < 16 ∨ 255 < k.timeout ∨ k.timeout ≤ k.markHi)
    (∀ k ∈ [(⟨0, 6, 7, 10, 11, 15, 1, 24⟩ : LinkSettings), ⟨7, 6, 7, 10, 11, 15, 1, 24⟩, ⟨3, 6, 6, 10, 11, 15, 1, 24⟩,
      ⟨3, 6, 7, 11, 11, 15, 1, 24⟩, ⟨5, 6, 7, 10, 11, 15, 4, 24⟩, ⟨3, 6, 7, 10, 11, 15, 3, 24⟩,
      ⟨3, 6, 7, 10, 11, 13, 1, 15⟩, ⟨3, 6, 7, 10, 11, 24, 1, 24⟩], refused k) ∧
    ¬ refused ⟨4, 4, 5, 5, 6, 15, 3, 16⟩ ∧
    ∀ a b c d g h f o : Byte, InHand State.reset 0x01 .linkSetup [2, 1, a, b, c, d, g, h, f, o] :=
  ⟨by decide, by decide, fun _ _ _ _ _ _ _ _ => hand_inHand rfl rfl (by simp)⟩

theorem witness_LinkReadings :
    InHand State.reset 0x02 .linkStatus [4] ∧ 3 < (4 : Byte).toNat ∧ InHand State.reset 0x02 .linkStatus [3] ∧
    (3 : Byte).toNat = linkNumber .l3 ∧ (State.reset.link .l3).enabled = false ∧
    InHand State.reset 0x03 .linkCounters [3, 2] ∧ 1 < (2 : Byte).toNat ∧ InHand State.reset 0x03 .linkCounters [3, 1] ∧
    InHand State.reset 0x03 .linkCounters [0, 0] ∧ (0 : Byte).toNat = linkNumber .l0 :=
  ⟨hand_inHand rfl rfl (by decide), by decide, hand_inHand rfl rfl (by decide), rfl, rfl,
    hand_inHand rfl rfl (by decide), by decide, hand_inHand rfl rfl (by decide), hand_inHand rfl rfl (by decide), rfl⟩

/-! Timebase. -/

/-- The timebase on WCLK in a state, its last edge at tick 0. -/
def onWclk (clock : ClockState) (good : Nat) : State :=
  { State.reset with
    timebase := { State.reset.timebase with
      reference := .wclk, clock := clock, lastEdge := some 0, goodCount := good, nominal := 4096 } }

theorem witness_WclkEdgesAreJudged :
    State.reset.resetHeld = false ∧ State.reset.timebase.reference ≠ .wclk ∧
    (∀ clock good, (onWclk clock good).timebase.reference = .wclk ∧ (onWclk clock good).timebase.lastEdge = some 0 ∧
      (onWclk clock good).timebase.clock = clock ∧ (onWclk clock good).timebase.goodCount = good ∧
      max 0 4112 < 0 + (onWclk clock good).timebase.nominal + 17 ∧
      max 0 4079 - 0 < (onWclk clock good).timebase.nominal - 16 ∧
      (onWclk clock good).timebase.nominal - 16 ≤ max 0 4080 - 0 ∧
      0 + (onWclk clock good).timebase.nominal + 17 ≤ max 0 4113) ∧ 62 < 63 := by
  refine ⟨rfl, by decide, fun clock good => ⟨rfl, rfl, rfl, rfl, ?_, ?_, ?_, ?_⟩, by decide⟩ <;> simp [onWclk]

theorem witness_SilencesOfTheReference :
    (∀ clock, (onWclk clock 5).resetHeld = false ∧ (onWclk clock 5).timebase.reference ≠ .none ∧
      (onWclk clock 5).timebase.lastEdge = some 0 ∧ (onWclk clock 5).timebase.clock = clock ∧
      max 0 4112 < 0 + (onWclk clock 5).timebase.nominal + 17 ∧
      0 + (onWclk clock 5).timebase.nominal + 17 ≤ max 0 4113 ∧
      max 0 8191 < (onWclk clock 5).timebase.absenceStart + 2 * (onWclk clock 5).timebase.nominal ∧
      (onWclk clock 5).timebase.absenceStart + 2 * (onWclk clock 5).timebase.nominal ≤ max 0 8192) ∧
    (onWclk .locked 0).take.state = .idle ∧
    { onWclk .locked 0 with take := { Take.reset with state := .rolling } }.take.state = .rolling ∧
    (onWclk .locked 0).cues.requests.length < 8 := by
  refine ⟨fun clock => ⟨rfl, by simp [onWclk], rfl, rfl, ?_⟩, rfl, rfl, by decide⟩
  simp [onWclk, State.reset, State.resetAt, Timebase.resetAt]

theorem witness_ClockSetupActsOnTheChange :
    (∀ clock, InHand (onWclk clock 5) 0x08 .clockSetup [6, 0] ∧ InHand (onWclk clock 5) 0x08 .clockSetup [5, 1] ∧
      InHand (onWclk clock 5) 0x08 .clockSetup [1, 1] ∧ InHand (onWclk clock 5) 0x08 .clockSetup [0, 0] ∧
      (onWclk clock 5).timebase.clock = clock ∧ (onWclk clock 5).timebase.reference = .wclk ∧
      (onWclk clock 5).timebase.rate = .hz96000) ∧
    5 < (6 : Byte).toNat ∧ (5 : Byte).toNat = referenceCode (.link .l3) ∧ (1 : Byte).toNat = rateCode .hz96000 ∧
    (0 : Byte).toNat = referenceCode .none ∧ (0 : Byte).toNat = rateCode .hz48000 ∧ SessionRate.hz48000 ≠ .hz96000 ∧
    InHand (inTake .armed) 0x08 .clockSetup [1, 0] ∧ (inTake .armed).take.state ≠ .idle ∧
    InHand State.reset 0x08 .clockSetup [1, 1] ∧ State.reset.timebase.clock = .free := by
  refine ⟨fun clock => ⟨?_, ?_, ?_, ?_, rfl, rfl, rfl⟩, by decide, by decide, by decide, by decide, by decide, by decide,
    hand_inHand rfl rfl (by decide), by decide, hand_inHand rfl rfl (by decide), rfl⟩ <;>
  exact hand_inHand rfl rfl (by decide)

/-! Sample periods and boundaries. -/

/-- R165: LOCKED on WCLK, whose edge at tick 4096 is due at the boundary 1920 of a running take, and 4113 ticks without an
edge after it. An entry to HOLDOVER before the event leaves it to the oscillator; one after it finds it reference-timed. -/
def holdoverAtBoundary : State :=
  let s := before (gatheringTake .rolling) 1920
  { s with timebase := { s.timebase with
      reference := .wclk, clock := .locked, edgesDue := [4096], lastEdge := some 4096, lastSample := 0 } }

theorem test_holdover_before_the_boundary :
    (match exec (.latePeriod 8209) holdoverAtBoundary with
      | .next t => after (.samplePeriodEvent ⟨8209, []⟩) t (fun u =>
        (u.timebase.position, u.framer.buffer1.holdover, u.cues.requests, u.timebase.lastSample))
      | .fault _ => none
      | .refused _ => none) = some (1920, true, [⟨clockHoldLabel, 1919⟩], 8209) := by decide +kernel

theorem test_holdover_after_the_boundary :
    (match exec (.samplePeriodEvent ⟨4096, []⟩) holdoverAtBoundary with
      | .next t => after (.latePeriod 8209) t (fun u =>
        (u.timebase.position, u.framer.buffer1.holdover, u.cues.requests, u.timebase.nextOscillator))
      | .fault _ => none
      | .refused _ => none) = some (1920, false, [⟨clockHoldLabel, 1920⟩], 8209) := by decide +kernel

theorem witness_SilencesOfTheReference_boundary :
    let s := holdoverAtBoundary
    s.resetHeld = false ∧ s.timebase.reference ≠ .none ∧ s.timebase.clock = .locked ∧ s.timebase.edgesDue = [4096] ∧
    s.timebase.lastEdge = some 4096 ∧ s.timebase.nominal = nominalOf s.timebase.rate ∧
    4096 + s.timebase.nominal + 17 ≤ max s.now 8209 ∧ s.timebase.lastSample + s.timebase.nominal ≤ max s.now 8209 ∧
    s.take.state = .rolling ∧ s.take.gathering = true ∧ s.take.sequence < 65534 ∧ s.cues.requests.length < 8 ∧
    s.framer.filling? = some .b0 ∧ BufferId.b1 ≠ .b0 ∧ (s.framer.buffer .b1).state = .free ∧ s.engine.state = .idle ∧
    s.timebase.position + 1 < lastPosition ∧ (s.timebase.position + 1) % blockLengthOf s.timebase.rate = 0 := by decide

/-- R54: an event of the oscillator inside the block being gathered, at the moment it falls. -/
theorem witness_GatheredSamplePeriod_oscillator :
    let s := gatheringTake .rolling
    s.resetHeld = false ∧ s.timebase.clock ≠ .locked ∧
    s.timebase.nextOscillator ≤ max s.now 4096 ∧ s.take.gathering = true ∧ s.framer.filling? = some .b0 ∧
    s.timebase.position + 1 < lastPosition ∧ (s.timebase.position + 1) % blockLengthOf s.timebase.rate ≠ 0 := by decide

/-- R54: that event sets HOLDOVER in the filling buffer. -/
theorem test_oscillator_sets_holdover :
    after (.samplePeriodEvent ⟨4096, []⟩) (gatheringTake .rolling) (fun t =>
      ((t.framer.buffer .b0).holdover, (t.framer.buffer .b0).rows.length, t.timebase.nextOscillator)) =
      some (true, 1, 8192) := by decide +kernel

/-- A reference edge due inside the block being gathered; clip flags clear, and one set; a bus value beyond its limit. -/
theorem witness_GatheredSamplePeriod :
    let s := { gatheringTake .rolling with
      timebase := { (gatheringTake .rolling).timebase with clock := .locked, edgesDue := [4096] } }
    let answers : PerLink (Option LinkFrame) := ⟨some [⟨5, true, true, true⟩, ⟨5, false, true, false⟩], none, none, none⟩
    s.resetHeld = false ∧ s.timebase.clock = .locked ∧ s.timebase.edgesDue = 4096 :: [] ∧ s.take.gathering = true ∧
    s.framer.filling? = some .b0 ∧
    s.timebase.position + 1 < lastPosition ∧
    (s.timebase.position + 1) % blockLengthOf s.timebase.rate ≠ 0 ∧
    { TrackEntry.reset 0 with enabled := false }.enabled = false ∧ (TrackEntry.reset 16).enabled = true ∧
    answers.get (TrackEntry.reset 16).link = none ∧
    answers.get (TrackEntry.reset 1).link = some [⟨5, true, true, true⟩, ⟨5, false, true, false⟩] ∧
    (TrackEntry.reset 1).slot.val < 2 ∧ (⟨5, true, true, true⟩ : SlotEntry).parityFailed = true ∧
    (⟨5, false, true, false⟩ : SlotEntry).parityFailed = false ∧ (⟨5, false, true, false⟩ : SlotEntry).valid = false ∧
    (⟨5, true, true, false⟩ : SlotEntry).valid = true ∧ (∀ b : Fin 4, s.mix.clipFlags[b] = false) ∧
    ({ s.mix with clipFlags := tableOf 4 fun _ => true }).clipFlags[(0 : Fin 4)] = true ∧ saturates 8388608 = true ∧
    saturates 8388607 = false := by decide

theorem witness_TakeStartsAtItsBoundary :
    let s := { before (inTake .starting) 960 with
      take := { Take.reset with state := .starting, number := 65535, startPosition := 960 } }
    s.resetHeld = false ∧ s.timebase.clock ≠ .locked ∧
    s.timebase.nextOscillator ≤ max s.now 0 ∧ s.take.state = .starting ∧ s.take.gathering = false ∧
    s.engine.state = .idle ∧ (s.feed .p0).wait = none ∧ (s.feed .p1).wait = none ∧ (s.feed .p2).wait = none ∧
    s.timebase.position + 1 < lastPosition ∧ (s.timebase.position + 1) % blockLengthOf s.timebase.rate = 0 ∧
    s.take.startPosition = s.timebase.position + 1 ∧ s.framer.buffer0.state = .free ∧ s.framer.buffer1.state = .free := by
  decide

/-- Link L0 LOCKED and silent since tick 0, with take 7 filling up to the boundary at 1920, in a take state; the timebase
LOCKED with reference edges due, or in FREE with none. -/
def silentAtBoundary (st : TakeState) (due : List Nat) : State :=
  let s := (before (gatheringTake st) 1920).setLink .l0 (linkIn .locked)
  { s with timebase := { s.timebase with clock := if due = [] then .free else .locked, edgesDue := due } }

theorem witness_BlocksCloseAtBoundaries :
    (let s := { before (gatheringTake .rolling) 1920 with
      take := ⟨.rolling, 7, 65534, 0, true, .none, 0⟩ }
    s.resetHeld = false ∧ s.timebase.clock ≠ .locked ∧
    s.timebase.nextOscillator ≤ max s.now 0 ∧ s.take.state = .rolling ∧ s.take.gathering = true ∧
    s.take.sequence = 65534 ∧ s.framer.filling? = some .b0 ∧ s.engine.state = .idle ∧
    (s.framer.buffer .b1).state ≠ .filling ∧ s.timebase.position + 1 < lastPosition ∧
    (s.timebase.position + 1) % blockLengthOf s.timebase.rate = 0) ∧
    ∀ st, st = .rolling ∨ st = .closing → ∀ due, due = [] ∨ due = [4096] →
      let s := silentAtBoundary st due
      s.resetHeld = false ∧ s.timebase.edgesDue = due ∧ (s.timebase.clock = .locked ↔ due ≠ []) ∧
      s.timebase.nextOscillator ≤ max s.now 0 ∧ s.take.gathering = true ∧ s.framer.filling? = some .b0 ∧
      BufferId.b1 ≠ .b0 ∧ (s.framer.buffer .b1).state = .free ∧ s.engine.state = .idle ∧
      s.timebase.position + 1 < lastPosition ∧ (s.timebase.position + 1) % blockLengthOf s.timebase.rate = 0 ∧
      s.take.state = st ∧ s.take.sequence < 65534 ∧ (s.link .l0).enabled = true ∧ (s.link .l0).timedOut = false ∧
      (s.link .l0).lock = .locked ∧ (s.link .l0).quietSince + (s.link .l0).settings.timeout + 1 ≤ max s.now 0 ∧
      s.timebase.reference ≠ .link .l0 ∧ s.cues.requests.length < 8 ∧ (s.framer.map[(0 : Fin 64)]).enabled = true ∧
      (s.framer.map[(0 : Fin 64)]).link = .l0 := by
  refine ⟨by decide, ?_⟩
  rintro st (rfl | rfl) due (rfl | rfl) <;> decide

/-- §6.8, block 81: a silent roster of one at 128 kbit/s with nothing in the reservoir overruns at its boundary: shift 8, the
reservoir empty, previous shift 8, and SHED at every port. -/
theorem test_boundary_overruns :
    let s := silentAtBoundary .rolling []
    after (.samplePeriodEvent ⟨0, []⟩) { s with rate := ⟨[.bus 0], 128, 1, 0, 8⟩ } (fun t =>
      (t.engine.decision, t.rate.level, t.rate.prevShift, (t.port .p2).events.getLsbD (eventBit .shed))) =
      some (some ⟨8, 1, false, true⟩, 0, 8, true) := by decide +kernel

/-- R164: a timeout taken after the boundary at 1920 and before the framer asks: track 0 is ABSENT from offset 0 of the new
block, and the request carries 1920. -/
theorem test_departure_after_the_boundary :
    after (.samplePeriodEvent ⟨4096, [.timeout .l0]⟩) (silentAtBoundary .rolling []) (fun t =>
        (t.framer.buffer1.start, t.framer.buffer1.rows.length, (t.framer.buffer1.marks[(0 : Fin 64)]).absent,
          t.cues.requests)) = some (1920, 1, true, [⟨linkLostLabel .l0, 1920⟩]) := by decide +kernel

/-- Port 0 subscribed to STREAM, waiting for `k` boundaries, three records lost. -/
def waiting0 (s : State) (k : Nat) : State :=
  (feed0 s ⟨some .stream, none, 3, none, true, some k, none⟩).setPort .p0 ((s.port .p0).toPhase .waiting)

theorem witness_PositionLimitEndsTheCount :
    let s := waiting0 (before (inTake .starting) lastPosition) 2
    let stopped := fun st => { inTake st with timebase := { State.reset.timebase with position := lastPosition } }
    s.resetHeld = false ∧ s.timebase.clock ≠ .locked ∧
    s.timebase.nextOscillator ≤ max s.now 0 ∧ s.timebase.position + 1 = lastPosition ∧ s.take.state = .starting ∧
    s.take.gathering = false ∧ (s.feed .p0).wait = some 2 ∧ (s.feed .p1).wait = none ∧
    (stopped .idle).timebase.position = lastPosition ∧ (stopped .idle).take.gathering = false ∧
    (∃ u, exec (.samplePeriodEvent ⟨4096, []⟩) (stopped .idle) = .next u) ∧
    InHand (stopped .armed) 0x12 .roll [] ∧ (stopped .armed).take.state = .armed ∧
    InHand (stopped .idle) 0x21 .gainApply [] ∧ (stopped .idle).resetHeld = false ∧
    (stopped .idle).timebase.clock ≠ .locked ∧ (stopped .idle).timebase.nextOscillator ≤ max (stopped .idle).now 4096 :=
  ⟨by decide, by decide, by decide, by decide, by decide, by decide, by decide, by decide, by decide, by decide,
    ⟨_, rfl⟩, hand_inHand rfl rfl (by decide), by decide, hand_inHand rfl rfl (by decide), rfl, by decide,
    by decide⟩

/-- The limit reached in ROLLING and CLOSING: with no block in coding, with one, and with one and nothing gathered. -/
theorem witness_PositionLimitEndsTheCount_running :
    ∀ st, st = .rolling ∨ st = .closing →
      let s := waiting0 (before (gatheringTake st) lastPosition) 2
      let ungathered := coding (before (inTake .closing) lastPosition)
      s.resetHeld = false ∧ s.timebase.clock ≠ .locked ∧
      s.timebase.nextOscillator ≤ max s.now 0 ∧ s.timebase.position + 1 = lastPosition ∧ s.take.state = st ∧
      (s.feed .p0).wait = some 2 ∧ s.take.gathering = true ∧ s.framer.filling? = some .b0 ∧ s.engine.state = .idle ∧
      s.engine.block = none ∧ s.store.archive.filling = none ∧ s.store.stream.filling = none ∧
      (coding s).engine.state ≠ .idle ∧ (coding s).take.state = st ∧ ungathered.engine.state ≠ .idle ∧
      ungathered.take.state = .closing ∧ ungathered.take.gathering = false := by
  rintro st (rfl | rfl) <;> decide

/-- R31, R122, log 33: at the limit a port that waits is answered NONE, though the END record reaches its feed. -/
theorem test_wait_at_the_limit :
    after (.positionLimit 4096) (waiting0 (before (gatheringTake .rolling) lastPosition) 2) (fun t =>
        (response0 t, t.take.state, t.store.stream.ring.map Record.id)) =
      some (some ⟨.none, .bytes [0, 3]⟩, .idle, [⟨.stream, 7, 5⟩]) := by decide +kernel

theorem witness_WaitsEndAtTheirBoundary :
    let s := (waiting0 (before State.reset 960) 1).setFeed .p1 ⟨some .stream, none, 0, none, true, some 2, none⟩
    s.resetHeld = false ∧ s.timebase.clock ≠ .locked ∧
    s.timebase.nextOscillator ≤ max s.now 0 ∧ s.take.gathering = false ∧ s.take.state = .idle ∧
    s.engine.state = .idle ∧ s.timebase.position + 1 < lastPosition ∧
    (s.timebase.position + 1) % blockLengthOf s.timebase.rate = 0 ∧ (s.feed .p0).wait = some 1 ∧
    (s.feed .p1).wait = some 2 ∧ 2 ≤ 2 ∧ (s.feed .p2).wait = none := by decide

/-! Takes. -/

/-- After reset, with a roster of track 63 alone, enabled or not. -/
def rosterOfTrack63 (enabled : Bool) : State :=
  { State.reset with
    rate := { State.reset.rate with roster := [.track 63] }
    framer := { State.reset.framer with map := setTrack State.reset.framer.map 63 ⟨enabled, .l3, 15⟩ } }

theorem witness_ArmTakesTheRoster :
    InHand (inTake .closing) 0x10 .arm [] ∧ (inTake .closing).take.state ≠ .idle ∧
    InHand (rosterOfTrack63 false) 0x10 .arm [] ∧ (rosterOfTrack63 false).take.state = .idle ∧
    Source.track 63 ∈ (rosterOfTrack63 false).rate.roster ∧
    ((rosterOfTrack63 false).framer.map[(63 : Fin 64)]).enabled = false ∧
    InHand (rosterOfTrack63 true) 0x10 .arm [] ∧
    (∀ x : Fin 64, Source.track x ∈ (rosterOfTrack63 true).rate.roster →
      ((rosterOfTrack63 true).framer.map[x]).enabled = true) := by
  refine ⟨hand_inHand rfl rfl (by decide), by decide, hand_inHand rfl rfl (by decide), by decide, by decide, by decide,
    hand_inHand rfl rfl (by decide), ?_⟩
  intro x hx
  cases List.mem_singleton.mp hx
  decide

theorem witness_DisarmReturnsToIdle :
    InHand (inTake .armed) 0x11 .disarm [] ∧ (inTake .armed).take.state = .armed ∧
    InHand (inTake .starting) 0x11 .disarm [] ∧ (inTake .starting).take.state ≠ .armed :=
  ⟨hand_inHand rfl rfl (by decide), by decide, hand_inHand rfl rfl (by decide), by decide⟩

theorem witness_RollAndCloseNameABoundary :
    InHand State.reset 0x12 .roll [] ∧ State.reset.take.state ≠ .armed ∧
    InHand State.reset 0x13 .close [] ∧ State.reset.take.state ≠ .rolling ∧
    InHand (inTake .armed) 0x12 .roll [] ∧ (inTake .armed).take.state = .armed ∧
    InHand (inTake .rolling) 0x13 .close [] ∧ (inTake .rolling).take.state = .rolling ∧
    (inTake .armed).timebase.position < 960 ∧
    960 ≤ (inTake .armed).timebase.position + blockLengthOf (inTake .armed).timebase.rate ∧
    blockLengthOf (inTake .armed).timebase.rate ∣ 960 ∧ 960 < 2 ^ 48 :=
  ⟨hand_inHand rfl rfl (by decide), by decide, hand_inHand rfl rfl (by decide), by decide,
    hand_inHand rfl rfl (by decide), by decide, hand_inHand rfl rfl (by decide), by decide, by decide, by decide,
    by decide, by decide⟩

theorem witness_AbortEndsTheTake :
    InHand (inTake .armed) 0x14 .abort [] ∧ (inTake .armed).take.state = .armed ∧
    InHand (inTake .starting) 0x14 .abort [] ∧ (inTake .starting).take.state = .starting ∧
    (∀ st, InHand (coding (gatheringTake st)) 0x14 .abort [] ∧ (coding (gatheringTake st)).take.state = st ∧
      (coding (gatheringTake st)).take.gathering = true ∧ (coding (gatheringTake st)).framer.filling? = some .b0 ∧
      (coding (gatheringTake st)).engine.state ≠ .idle) ∧
    InHand (coding (inTake .closing)) 0x14 .abort [] ∧ (coding (inTake .closing)).take.state = .closing ∧
    (coding (inTake .closing)).take.gathering = false ∧
    InHand (gatheringTake .rolling) 0x14 .abort [] ∧ (gatheringTake .rolling).engine.state = .idle ∧
    (gatheringTake .rolling).engine.block = none ∧ (∀ q, ((gatheringTake .rolling).feed q).subscription = none) ∧
    (gatheringTake .rolling).store.archive.filling = none ∧ (gatheringTake .rolling).store.stream.filling = none ∧
    1 ≤ (gatheringTake .rolling).store.archive.free ∧ 1 ≤ (gatheringTake .rolling).store.stream.free ∧
    (let s := (gatheringTake .closing).setFeed .p1 ⟨some .stream, none, 3, none, true, some 2, none⟩
    InHand s 0x14 .abort [] ∧ s.take.state = .closing ∧ s.take.gathering = true ∧ s.framer.filling? = some .b0 ∧
    s.engine.state = .idle ∧ s.engine.block = none ∧ s.store.archive.filling = none ∧ s.store.stream.filling = none ∧
    1 ≤ s.store.archive.free ∧ 1 ≤ s.store.stream.free ∧ (s.feed .p1).subscription = some .stream ∧
    (s.feed .p1).arming = true ∧ Port.p1 ≠ .p0 ∧ (s.feed .p1).wait = some 2) := by
  refine ⟨hand_inHand rfl rfl (by decide), rfl, hand_inHand rfl rfl (by decide), rfl, ?_,
    hand_inHand rfl rfl (by decide), rfl, rfl, hand_inHand rfl rfl (by decide), rfl, rfl, ?_, rfl, rfl, by decide,
    by decide, hand_inHand rfl rfl (by decide), by decide⟩
  · exact fun st => ⟨hand_inHand rfl rfl (by decide), rfl, rfl, rfl, fun h => by cases h⟩
  · intro q; cases q <;> rfl

/-! Track map, gains, archive setting. -/

theorem witness_TrackMapCommands :
    InHand (inTake .armed) 0x18 .trackMapSet [0, 0, 0, 0] ∧ (inTake .armed).take.state ≠ .idle ∧
    InHand State.reset 0x18 .trackMapSet [64, 0, 0, 0] ∧ 63 < (64 : Byte).toNat ∧
    InHand State.reset 0x18 .trackMapSet [63, 1, 0, 0] ∧ (63 : Byte).toNat = (63 : Fin 64).val ∧
    (0 : Byte).toNat = linkNumber .l0 ∧ (0 : Byte).toNat = (0 : Fin 16).val ∧
    (0 : Fin 64) ≠ 63 ∧ State.reset.framer.map[(0 : Fin 64)] = ⟨true, .l0, 0⟩ ∧
    InHand State.reset 0x18 .trackMapSet [63, 0, 0, 0] ∧
    InHand (rosterOfTrack63 false) 0x18 .trackMapSet [63, 1, 3, 15] ∧
    (∀ y : Fin 64, y ≠ 63 → (rosterOfTrack63 false).framer.map[y] ≠ ⟨true, .l3, 15⟩) ∧
    InHand State.reset 0x19 .trackMapGet [1, 64] ∧ 64 < (1 : Byte).toNat + (64 : Byte).toNat ∧
    InHand State.reset 0x19 .trackMapGet [0, 62] ∧ 1 ≤ (62 : Byte).toNat ∧
    (0 : Byte).toNat + (62 : Byte).toNat ≤ 64 := by
  refine ⟨hand_inHand rfl rfl (by decide), by decide, hand_inHand rfl rfl (by decide), by decide,
    hand_inHand rfl rfl (by decide), rfl, rfl, rfl, by decide, by decide, hand_inHand rfl rfl (by decide),
    hand_inHand rfl rfl (by decide), by decide, hand_inHand rfl rfl (by decide), by decide,
    hand_inHand rfl rfl (by decide), by decide, by decide⟩

theorem witness_GainSetWritesThePendingTable :
    InHand State.reset 0x20 .gainSet (0 :: 0 :: 1 :: [] ++ 128 :: 0 :: 2 :: []) ∧ 1 < (2 : Byte).toNat ∧
    0 + 3 + 0 = 3 * (1 : Byte).toNat ∧
    InHand State.reset 0x20 .gainSet (4 :: 0 :: 1 :: [128, 0, 1]) ∧ 3 < (4 : Byte).toNat ∧
    InHand State.reset 0x20 .gainSet (3 :: 63 :: 1 :: [128, 0, 1]) ∧
    [128, 0, 1] = [(⟨32768, true⟩ : GainEntry)].flatMap
      (fun g => bytesOf 2 g.gain.toNat ++ [if g.inverted then 1 else 0]) ∧
    (1 : Byte).toNat = [(⟨32768, true⟩ : GainEntry)].length ∧ (3 : Byte).toNat = (3 : Fin 4).val ∧
    (63 : Byte).toNat + (1 : Byte).toNat ≤ 64 ∧ (63 : Fin 64).val - (63 : Byte).toNat < 1 :=
  ⟨hand_inHand rfl rfl (by decide), by decide, by decide, hand_inHand rfl rfl (by decide), by decide,
    hand_inHand rfl rfl (by decide), by decide, by decide, by decide, by decide, by decide⟩

/-- After reset, with an application marked for position 960. -/
def marked : State := { State.reset with mix := { State.reset.mix with applyMark := some 960 } }

theorem witness_GainApplyAndDiscard :
    InHand State.reset 0x21 .gainApply [] ∧ State.reset.timebase.position ≠ lastPosition ∧
    State.reset.mix.applyMark = none ∧ State.reset.timebase.position < 960 ∧
    960 ≤ State.reset.timebase.position + blockLengthOf State.reset.timebase.rate ∧
    blockLengthOf State.reset.timebase.rate ∣ 960 ∧ InHand marked 0x21 .gainApply [] ∧
    marked.mix.applyMark = some 960 ∧ InHand State.reset 0x22 .gainDiscard [] ∧ InHand marked 0x22 .gainDiscard [] :=
  ⟨hand_inHand rfl rfl (by decide), by decide, rfl, by decide, by decide, by decide, hand_inHand rfl rfl (by decide),
    rfl, hand_inHand rfl rfl (by decide), hand_inHand rfl rfl (by decide)⟩

theorem witness_GainGetReadsATable :
    InHand marked 0x23 .gainGet [2, 0, 0, 1] ∧ 1 < (2 : Byte).toNat ∧
    InHand marked 0x23 .gainGet [1, 3, 0, 64] ∧ (3 : Byte).toNat = (3 : Fin 4).val ∧ (1 : Byte).toNat ≤ 1 ∧
    (0 : Byte).toNat + (64 : Byte).toNat ≤ 64 ∧ marked.mix.applyMark = some 960 ∧ 960 < 2 ^ 48 :=
  ⟨hand_inHand rfl rfl (by decide), by decide, hand_inHand rfl rfl (by decide), rfl, by decide, by decide, rfl,
    by decide⟩

theorem witness_ArchiveCommands :
    InHand (inTake .rolling) 0x28 .archiveSetup [1] ∧ (inTake .rolling).take.state ≠ .idle ∧
    InHand State.reset 0x28 .archiveSetup [2] ∧ 1 < (2 : Byte).toNat ∧ InHand State.reset 0x28 .archiveSetup [1] ∧
    State.reset.take.state = .idle ∧ InHand State.reset 0x29 .archiveGet [] :=
  ⟨hand_inHand rfl rfl (by decide), by decide, hand_inHand rfl rfl (by decide), by decide,
    hand_inHand rfl rfl (by decide), rfl, hand_inHand rfl rfl (by decide)⟩

theorem witness_BusSamplesAndRamps :
    saturates 8388607 = false ∧ 8388607 < (8388608 : Int) ∧ (-8388609 : Int) < -8388608 ∧ 959 < 960 ∧
    (0 : BitVec 16).toNat ≤ (65535 : BitVec 16).toNat ∧ Mix.reset.applyMark = none ∧
    { Mix.reset with applyMark := some 960 }.applyMark ≠ none := by decide

/-! Block coder and stream rate control. -/

theorem witness_RequantizationRule :
    8 ≤ 8 ∧ 1 ≤ 8 ∧ (((8388479#24).toInt + 2 ^ (8 - 1)) / 2 ^ 8 ≤ 2 ^ (23 - 8) - 1) := by decide

theorem witness_CodingLosesNothing :
    26 ≤ 26 ∧ (∀ e ∈ [(67108864 : Int), -67108864], e.natAbs ≤ 2 ^ 26) ∧ 3 ≤ 3 ∧
    (∀ y ∈ [(8388607 : Int), -8388608], y.natAbs ≤ 2 ^ 23) ∧ 0 < chosenOrder [1, 1, 1, 1] ∧
    (∀ e ∈ [0, 15, (67108864 : Int)], [e] ≠ []) ∧ ([(0 : Int)].map Int.natAbs).sum / 1 = 0 ∧
    ([(15 : Int)].map Int.natAbs).sum / 1 ≠ 0 ∧ riceParameter [15] < 26 ∧ riceParameter [67108864] = 26 ∧
    3 < (List.replicate 4 (0 : Int)).length ∧ (List.replicate 24 (0 : Int)).length = 8 * 3 ∧ 7 < 8 := by decide

theorem witness_RecordsHaveTheSizesChargedFor :
    [true, false, false, false, true].length = 5 ∧ 3 ≤ ([1, 2, 3] : List Int).length ∧
    (⟨8, 1, true, false⟩ : StreamDecision).shift ≤ 8 ∧ (gatheringTake .rolling).timebase.blockLength = 960 := by decide

/-- A header and a cue entry with every item at the end of its range. -/
theorem witness_RecordsHaveTheSizesChargedFor_fields :
    let h : Header :=
      { kind := .block, id := ⟨.stream, 65535, 65535⟩, position := 2 ^ 48 - 1, rate := .hz96000, shift := 255
        holdover := true, shed := true, overrun := true, aborted := true, rosterLength := 255, present := 16
        sections := 255, cues := 255, length := 2 ^ 32 - 1 }
    let c : Cue := ⟨65535, 1000000 + 65535, .fault, List.replicate 10 126, .part⟩
    h.id.take < 65536 ∧ h.id.sequence < 65536 ∧ h.position < 2 ^ 48 ∧ h.shift < 256 ∧ h.rosterLength < 256 ∧
    h.present ≤ 16 ∧ h.sections < 256 ∧ h.cues < 256 ∧ h.length < 2 ^ 32 ∧
    c.id < 65536 ∧ 1000000 ≤ c.position ∧ c.position - 1000000 < 65536 ∧ c.label.length ≤ 10 := by decide

/-- Samples at the ends of the range of shift 8 that swing at each period are coded RAW; a constant, as P1 with one warm-up
sample. -/
theorem witness_RecordsHaveTheSizesChargedFor_modes :
    let swing : List Int := (List.replicate 240 [32767, -32768]).flatten
    let level : List Int := List.replicate 960 32767
    (swing.length = 480 ∧ (∀ y ∈ swing, -(2 ^ (23 - 8)) ≤ y ∧ y < 2 ^ (23 - 8)) ∧
      32 + swing.length * 16 ≤ 32 + chosenOrder swing * 16 + 40 + (riceBody (chosenOrder swing) swing).length) ∧
    level.length = 960 ∧ (∀ y ∈ level, -(2 ^ (23 - 8)) ≤ y ∧ y < 2 ^ (23 - 8)) ∧ 0 < chosenOrder level ∧
      32 + chosenOrder level * 16 + 40 + (riceBody (chosenOrder level) level).length < 32 + level.length * 16 := by
  decide +kernel

/-- A shift that fits, shedding, and an overrun: the hypotheses of the three clauses, with the costs of 06 §6.7. -/
theorem witness_StreamDecisionAndReservoir :
    let cost := fun s j => if j = 4 then [0, 0, 0, 0, 0, 30400, 25600, 21600, 19600].getD s 0 else 14000
    1 ≤ 4 ∧ (6 - 1 ≤ 8 ∧ cost 8 4 ≤ 19600 ∧ ∀ x, 6 - 1 ≤ x → x < 8 → 19600 < cost x 4) ∧
    (∀ s, 6 - 1 ≤ s → s ≤ 8 → 19360 < cost s 4) ∧ (1 ≤ 3 ∧ 3 < 4 ∧ cost 8 3 ≤ 19360) ∧
    (∀ j, 1 ≤ j → j < 4 → 13999 < cost 8 j) ∧ 1 ≤ State.reset.rate.roster.length ∧
    State.reset.rate.prevShift ≤ 8 := by
  refine ⟨by decide, ⟨by decide, by decide, ?_⟩, ?_, by decide, ?_, by decide, by decide⟩
  · intro x h1 h2
    interval_cases x <;> decide
  · intro s h1 h2
    interval_cases s <;> decide
  · intro j h1 h2
    interval_cases j <;> decide

theorem witness_StreamSetupClamps :
    InHand (inTake .armed) 0x30 .streamSetup (1 :: [64] ++ [6, 0, 4]) ∧ (inTake .armed).take.state ≠ .idle ∧
    InHand State.reset 0x30 .streamSetup (0 :: [] ++ [6, 0, 4]) ∧ (0 : Byte).toNat = 0 ∧
    InHand State.reset 0x30 .streamSetup (1 :: [68] ++ [6, 0, 4]) ∧ 67 < (68 : Byte).toNat ∧
    InHand State.reset 0x30 .streamSetup (2 :: [67, 67] ++ [6, 0, 4]) ∧ ¬([67, 67] : List Byte).Nodup ∧
    InHand State.reset 0x30 .streamSetup (2 :: [67, 63] ++ [6, 0, 0]) ∧ ([67, 63] : List Byte).Nodup ∧
    (2 : Byte).toNat = ([67, 63] : List Byte).length ∧
    [Source.bus 3, .track 63].map sourceId = ([67, 63] : List Byte).map BitVec.toNat :=
  ⟨hand_inHand rfl rfl (by decide), by decide, hand_inHand rfl rfl (by decide), by decide,
    hand_inHand rfl rfl (by decide), by decide, hand_inHand rfl rfl (by decide), by decide,
    hand_inHand rfl rfl (by decide), by decide, by decide, by decide⟩

theorem witness_StreamGetReadsTheController : InHand State.reset 0x31 .streamGet [] := hand_inHand rfl rfl (by decide)

/-! Block store and feeds. -/

/-- The END records of a take under way, the stream END next. -/
def ending : State :=
  { inTake .closing with engine := { Engine.reset with state := .ending, endJob := some ⟨false, false⟩ } }

/-- A region of STREAM whose head is held by Port 0. -/
def oneHeld : State :=
  feed0 { State.reset with store := { State.reset.store with
      stream := ⟨16, [heldRecord .stream 0 ⟨true, false, false⟩], none, 1793, none⟩ } }
    ⟨some .stream, some ⟨.stream, 1, 0⟩, 0, none, false, none, none⟩

theorem witness_PlacementMakesRoom :
    ending.resetHeld = false ∧ ending.store.archive.filling = none ∧ ending.store.stream.filling = none ∧
    ending.codedRecord? = some (ending.endRecord .stream false) ∧
    (ending.endRecord .stream false).bytes.length = 32 ∧
    pagesFor 32 ≤ (ending.region (ending.endRecord .stream false).id.feed).free ∧
    [(0 : Byte)] ≠ [] ∧ (oneHeld.region .stream).filling = none ∧
    pagesFor (List.replicate 65536 (0 : Byte)).length ≤ (oneHeld.region .stream).size ∧
    (oneHeld.region .stream).ring = heldRecord .stream 0 ⟨true, false, false⟩ :: [] ∧
    (heldRecord .stream 0 ⟨true, false, false⟩).holders.get .p0 = true ∧
    (heldRecord .stream 0 ⟨true, false, false⟩).holders.get .p1 = false := by
  refine ⟨rfl, rfl, rfl, rfl, ?_, by decide, by decide, rfl, ?_, rfl, rfl, rfl⟩
  · decide
  · rw [List.length_replicate]
    decide

/-- A stream record being written, the stream job under way. -/
def writing (s : State) : State :=
  { s with
    engine := { s.engine with state := .stream, block := some .b0, archiveQueued := true }
    store := { s.store with stream := { s.store.stream with
      filling := some { heldRecord .stream 1 ⟨false, false, false⟩ with kind := .block, state := .filling } } } }

/-- The engine in each of its states, with what that state codes; a record being written; and a buffer of one sample
period. -/
theorem witness_PlacementMakesRoom_coded :
    let coding := fun st => { State.reset with engine := { Engine.reset with
      state := st, block := some .b0, decision := some ⟨8, 1, true, false⟩ } }
    let g := { GatherBuffer.reset with rows := [⟨tableOf 64 fun _ => 7, tableOf 4 fun _ => 8⟩] }
    State.reset.timebase.blockLength = 960 ∧
    (coding .stream).engine.state = .stream ∧ (coding .stream).engine.block = some .b0 ∧
    (coding .stream).engine.decision = some ⟨8, 1, true, false⟩ ∧ (coding .archive).engine.state = .archive ∧
    (coding .archive).engine.block = some .b0 ∧ ending.timebase.blockLength = 960 ∧
    ending.engine.state = .ending ∧ ending.engine.endJob = some ⟨false, false⟩ ∧ State.reset.engine.state = .idle ∧
    State.reset.resetHeld = false ∧ (writing State.reset).resetHeld = false ∧
    (writing State.reset).store.stream.filling ≠ none ∧ g.rows.length = 1 := by
  refine ⟨rfl, rfl, rfl, rfl, rfl, rfl, rfl, rfl, rfl, rfl, rfl, rfl, ?_, rfl⟩
  simp [writing]

/-- The stream END to be placed in a region with no free page. -/
theorem witness_PlacementMakesRoom_full :
    let full := { heldRecord .stream 0 ⟨true, false, false⟩ with pages := 16 }
    let s := { ending with store := { ending.store with stream := ⟨16, [full], none, 1792, none⟩ } }
    s.resetHeld = false ∧ s.store.archive.filling = none ∧ s.store.stream.filling = none ∧
    s.codedRecord? = some (s.endRecord .stream false) ∧ (s.endRecord .stream false).id.feed = .stream ∧
    (s.region .stream).free = 0 ∧ ((s.endRecord .stream false).bytes.length + 4095) / 4096 ≤ (s.region .stream).size := by
  refine ⟨rfl, rfl, rfl, rfl, rfl, by decide, by decide⟩

/-- A record of a feed being written, the engine in a state, with a block in coding in buffer 0, in CLOSING. -/
def publishing (f : Feed) (st : EngineState) (gathering : Bool) (streamDone : Bool) : State :=
  let r := { heldRecord f 1 ⟨false, false, false⟩ with state := .filling }
  { inTake .closing with
    take := ⟨.closing, 7, 5, 0, gathering, .close, 0⟩
    engine := { Engine.reset with state := st, block := some .b0, endJob := some ⟨false, streamDone⟩ }
    store := match f with
      | .archive => { Store.reset with archive := { Store.reset.archive with filling := some r } }
      | .stream => { Store.reset with stream := { Store.reset.stream with filling := some r } } }

theorem witness_RecordsArePublished :
    let r := fun f => { heldRecord f 1 ⟨false, false, false⟩ with state := .filling }
    (∀ st g d, (publishing .stream st g d).resetHeld = false ∧ (r .stream).id.feed = .stream ∧
      (publishing .stream st g d).store.stream.filling = some (r .stream) ∧ (publishing .stream st g d).engine.state = st ∧
      (publishing .archive st g d).resetHeld = false ∧ (r .archive).id.feed = .archive ∧
      (publishing .archive st g d).store.stream.filling = none ∧
      (publishing .archive st g d).store.archive.filling = some (r .archive) ∧
      (publishing .archive st g d).engine.state = st ∧ (publishing .archive st g d).engine.block = some .b0 ∧
      (publishing .archive st g d).engine.endJob = some ⟨false, d⟩ ∧
      (publishing .archive st g d).take.state = .closing ∧ (publishing .archive st g d).take.gathering = g) ∧
    (∀ p, ((writing State.reset).feed p).subscription ≠ some .stream) ∧
    ((writing oneHeld).feed .p0).subscription = some .stream ∧
    ((writing oneHeld).feed .p0).cursor = some ⟨.stream, 1, 0⟩ ∧ ((writing oneHeld).feed .p0).wait = none ∧
    ((writing (waiting0 State.reset 1)).feed .p0).subscription = some .stream ∧
    ((writing (waiting0 State.reset 1)).feed .p0).cursor = none ∧
    ((writing (waiting0 State.reset 1)).feed .p0).wait = some 1 ∧
    ((writing (waiting0 State.reset 1)).feed .p0).arming = true := by
  refine ⟨fun st g d => ⟨rfl, rfl, rfl, rfl, rfl, rfl, rfl, rfl, rfl, rfl, rfl, rfl, rfl⟩, ?_, rfl, rfl, rfl, rfl, rfl, rfl,
    rfl⟩
  intro p
  cases p <;> decide

theorem witness_StoreSetupReformsTheRegions :
    InHand (inTake .armed) 0x38 .storeSetup [0, 64, 0, 16] ∧ (inTake .armed).take.state ≠ .idle ∧
    InHand State.reset 0x38 .storeSetup [0, 63, 0, 16] ∧ numberOf [0, 63] < 64 ∧
    InHand State.reset 0x38 .storeSetup [7, 0, 1, 0] ∧ numberOf [7, 0] = State.reset.store.archive.size ∧
    numberOf [1, 0] = State.reset.store.stream.size ∧ numberOf [7, 0] + numberOf [1, 0] ≤ 2048 ∧
    InHand oneHeld 0x38 .storeSetup [0, 64, 0, 16] ∧ 64 ≤ numberOf [0, 64] ∧ 16 ≤ numberOf [0, 16] ∧
    numberOf [0, 64] ≠ oneHeld.store.archive.size ∧ oneHeld.heldCount .p0 ≠ 0 ∧ oneHeld.heldCount .p1 = 0 :=
  ⟨hand_inHand rfl rfl (by decide), by decide, hand_inHand rfl rfl (by decide), by decide,
    hand_inHand rfl rfl (by decide), by decide, by decide, by decide, hand_inHand rfl rfl (by decide), by decide,
    by decide, by decide, by decide, by decide⟩

theorem witness_SubscriptionsBeginAndEnd :
    InHand oneHeld 0x39 .subscribe [1] ∧ (oneHeld.feed .p0).subscription ≠ none ∧
    InHand State.reset 0x39 .subscribe [3] ∧ (State.reset.feed .p0).subscription = none ∧ 2 < (3 : Byte).toNat ∧
    InHand State.reset 0x39 .subscribe [2] ∧ (2 : Byte).toNat = feedCode .stream ∧
    InHand State.reset 0x3A .unsubscribe [] ∧ InHand oneHeld 0x3A .unsubscribe [] ∧
    (let y := heldRecord .stream 0 ⟨true, true, false⟩
    let g : Region := ⟨16, [y], none, 1793, none⟩
    g.Sound ∧ y ∈ g.ring ∧ Port.p1 ≠ .p0 ∧ y.holders.get .p1 = true) :=
  ⟨hand_inHand rfl rfl (by decide), by decide, hand_inHand rfl rfl (by decide), rfl, by decide,
    hand_inHand rfl rfl (by decide), rfl, hand_inHand rfl rfl (by decide), hand_inHand rfl rfl (by decide),
    by constructor <;> simp [heldRecord, noHolders, pagesFor], by decide, by decide, rfl⟩

/-- Port 0 subscribed to STREAM, holding nothing, its last taken record as given. -/
def subscribed (last : Option RecordId) : State :=
  feed0 State.reset ⟨some .stream, none, 2, last, false, none, none⟩

theorem witness_NextFetchesTheCursor :
    InHand State.reset 0x3B .next [3] ∧ (State.reset.feed .p0).subscription = none ∧
    InHand oneHeld 0x3B .next [3] ∧ (oneHeld.feed .p0).subscription = some .stream ∧
    (oneHeld.feed .p0).cursor = some ⟨.stream, 1, 0⟩ ∧
    (heldRecord .stream 0 ⟨true, false, false⟩).id = ⟨.stream, 1, 0⟩ ∧
    (oneHeld.region .stream).ring = [] ++ heldRecord .stream 0 ⟨true, false, false⟩ :: [] ∧
    InHand (subscribed none) 0x3B .next [0] ∧ ((subscribed none).feed .p0).cursor = none ∧
    InHand (subscribed none) 0x3B .next [255] ∧ (255 : Byte) ≠ 0 ∧
    (subscribed none).timebase.position ≠ lastPosition :=
  ⟨hand_inHand rfl rfl (by decide), rfl, hand_inHand rfl rfl (by decide), rfl, rfl, rfl, rfl,
    hand_inHand rfl rfl (by decide), rfl, hand_inHand rfl rfl (by decide), by decide, by decide⟩

theorem witness_ReleaseNamesTheCursor_order :
    1 ≤ (⟨.stream, 65535, 4⟩ : RecordId).take ∧ (⟨.stream, 65535, 4⟩ : RecordId).take ≤ 65535 ∧
    1 ≤ (⟨.stream, 1, 0⟩ : RecordId).take ∧ (⟨.stream, 65535, 4⟩ : RecordId).take ≠ (⟨.stream, 1, 0⟩ : RecordId).take ∧
    (⟨.stream, 65535, 4⟩ : RecordId).take = (⟨.stream, 65535, 5⟩ : RecordId).take := by decide

theorem witness_ReleaseNamesTheCursor :
    InHand State.reset 0x3C .release [2, 0, 1, 0, 0] ∧ (State.reset.feed .p0).subscription = none ∧
    InHand oneHeld 0x3C .release [1, 0, 1, 0, 0] ∧ (1 : Byte).toNat ≠ feedCode .stream ∧
    InHand oneHeld 0x3C .release [2, 0, 1, 0, 0] ∧ (2 : Byte).toNat = feedCode .stream ∧ numberOf [0, 1] ≠ 0 ∧
    (oneHeld.feed .p0).cursor = some ⟨.stream, numberOf [0, 1], numberOf [0, 0]⟩ ∧
    InHand oneHeld 0x3C .release [2, 0, 1, 0, 1] ∧
    (oneHeld.feed .p0).cursor ≠ some ⟨.stream, numberOf [0, 1], numberOf [0, 1]⟩ ∧
    InHand (subscribed none) 0x3C .release [2, 0, 1, 0, 0] ∧ ((subscribed none).feed .p0).lastTaken = none ∧
    InHand (subscribed (some ⟨.stream, 1, 0⟩)) 0x3C .release [2, 0, 1, 0, 0] ∧
    ((subscribed (some ⟨.stream, 1, 0⟩)).feed .p0).lastTaken = some ⟨.stream, 1, 0⟩ :=
  ⟨hand_inHand rfl rfl (by decide), rfl, hand_inHand rfl rfl (by decide), by decide, hand_inHand rfl rfl (by decide), rfl,
    by decide, rfl, hand_inHand rfl rfl (by decide), by decide, hand_inHand rfl rfl (by decide), rfl,
    hand_inHand rfl rfl (by decide), rfl⟩

/-! Cue list. -/

/-- A list of `n` cues, ids 1 to `n`, and one waiting request. -/
def cuesOf (n : Nat) : State :=
  { State.reset with
    cues := ⟨(List.range n).map fun i => ⟨i + 1, i, .mark, [], .port .p1⟩, n + 1, [⟨linkLostLabel .l1, 5⟩]⟩ }

theorem witness_CueAddInsertsInOrder :
    InHand (cuesOf 1) 0x40 .cueAdd (3 :: 0 :: 0 :: 0 :: 0 :: 0 :: 0 :: 0 :: 0 :: []) ∧ 2 < (3 : Byte).toNat ∧
    InHand (cuesOf 1) 0x40 .cueAdd (0 :: 0 :: 0 :: 0 :: 0 :: 0 :: 0 :: 0 :: 1 :: [127]) ∧ 126 < (127 : Byte).toNat ∧
    InHand (cuesOf 128) 0x40 .cueAdd (2 :: 1 :: 0 :: 0 :: 0 :: 0 :: 0 :: 0 :: 10 :: List.replicate 10 126) ∧
    (10 : Byte).toNat = (List.replicate 10 (126 : Byte)).length ∧
    (∀ x ∈ List.replicate 10 (126 : Byte), 32 ≤ x.toNat ∧ x.toNat ≤ 126) ∧
    128 ≤ (cuesOf 128).cues.entries.length ∧
    InHand (cuesOf 1) 0x40 .cueAdd (2 :: 1 :: 0 :: 0 :: 0 :: 0 :: 0 :: 0 :: 10 :: List.replicate 10 126) ∧
    (cuesOf 1).cues.entries.length < 128 ∧ (cuesOf 1).cues.Sound := by
  refine ⟨hand_inHand rfl rfl (by decide), by decide, hand_inHand rfl rfl (by decide), by decide,
    hand_inHand rfl rfl (by decide), by decide, by decide, ?_, hand_inHand rfl rfl (by decide), by decide, ?_⟩
  · simp [cuesOf]
  · constructor <;> decide

/-- R131: the counter at 65535, which an entry holds, as another holds 1. -/
def wrappedCues : State :=
  { State.reset with
    cues := ⟨[⟨1, 5, .mark, [], .port .p1⟩, ⟨65535, 6, .mark, [], .port .p1⟩], 65535, [⟨linkLostLabel .l1, 7⟩]⟩ }

theorem witness_CueAddInsertsInOrder_wrapped :
    InHand wrappedCues 0x40 .cueAdd (2 :: 1 :: 0 :: 0 :: 0 :: 0 :: 0 :: 0 :: 0 :: []) ∧
    wrappedCues.cues.entries.length < 128 ∧ wrappedCues.cues.Sound ∧ wrappedCues.resetHeld = false ∧
    wrappedCues.cues.requests = ⟨linkLostLabel .l1, 7⟩ :: [] ∧ wrappedCues.cues.newId = 2 := by
  refine ⟨hand_inHand rfl rfl (by decide), by decide, ?_, rfl, rfl, by decide⟩
  constructor <;> decide

theorem witness_CueListIsKept :
    InHand (cuesOf 1) 0x41 .cueDelete [0, 0] ∧ numberOf [0, 0] = 0 ∧
    InHand (cuesOf 1) 0x41 .cueDelete [255, 255] ∧ (∀ c ∈ (cuesOf 1).cues.entries, c.id ≠ numberOf [255, 255]) ∧
    InHand (cuesOf 1) 0x41 .cueDelete [0, 1] ∧ (∃ c ∈ (cuesOf 1).cues.entries, c.id = numberOf [0, 1]) ∧
    InHand (cuesOf 1) 0x42 .cueList [128, 1] ∧ 127 < (128 : Byte).toNat ∧ InHand (cuesOf 1) 0x42 .cueList [127, 128] ∧
    (127 : Byte).toNat ≤ 127 ∧ (128 : Byte).toNat ≤ 128 ∧ (cuesOf 1).resetHeld = false ∧
    State.reset.cues.requests = [] ∧ (cuesOf 1).cues.requests = ⟨linkLostLabel .l1, 5⟩ :: [] ∧
    128 ≤ (cuesOf 128).cues.entries.length ∧ (cuesOf 1).cues.entries.length < 128 :=
  ⟨hand_inHand rfl rfl (by decide), by decide, hand_inHand rfl rfl (by decide), by decide,
    hand_inHand rfl rfl (by decide), by decide, hand_inHand rfl rfl (by decide), by decide,
    hand_inHand rfl rfl (by decide), by decide, by decide, rfl, rfl, rfl, by simp [cuesOf], by decide⟩

end Sys2Proof.Tests
end

section
/-! What the operations of a stage link receiver do, an equation for each of their cases (01): the assembler's answer to each
class of pulse in each phase, bad and good frames, the edge timeout, and the measurement of a transition. -/

namespace Sys2Proof.Machine

/-! ### Settings (R19) -/

/-- R19: the conditions on the settings of LINK_SETUP, in order of size. -/
theorem LinkSettings.accepted_iff (k : LinkSettings) : k.accepted = true ↔
    1 ≤ k.shortLo ∧ k.shortLo ≤ k.shortHi ∧ k.shortHi < k.longLo ∧ k.longLo ≤ k.longHi ∧ k.longHi < k.markLo ∧
    k.markLo ≤ k.markHi ∧ k.filter ≤ 3 ∧ k.filter < k.shortLo ∧ 16 ≤ k.timeout ∧ k.timeout ≤ 255 ∧
    k.markHi < k.timeout := by
  simp only [LinkSettings.accepted, Bool.and_eq_true, decide_eq_true_eq, and_assoc]

/-! ### Bad and good frames (R7, R8) -/

/-- R7: a bad frame is told to a lock state machine in SYNC or LOCKED alone. -/
theorem State.badFrame_unlocked {s : State} {l : LinkId} (h : (s.link l).lock = .disabled ∨ (s.link l).lock = .hunt)
    (t : Nat) : s.badFrame l t = s := by
  rcases h with h | h <;> simp [State.badFrame, LinkRx.resetAssembler, h]

/-- R8: a good frame is told to a lock state machine in SYNC or LOCKED alone. -/
theorem State.goodFrame_unlocked {s : State} {l : LinkId} (h : (s.link l).lock = .disabled ∨ (s.link l).lock = .hunt)
    (f : LinkFrame) : s.goodFrame l f = s := by
  rcases h with h | h <;> simp [State.goodFrame, LinkRx.afterGoodFrame, h]

/-- R7, R13: a MARK where none is due, at the third bad frame in a row in LOCKED: the departure alone. -/
theorem State.unexpectedMark_departs {s : State} {l : LinkId} (h : (s.link l).lock = .locked)
    (hr : 2 ≤ (s.link l).badRun) (start t : Nat) : s.unexpectedMark l start t = s.badFrame l t := by
  have hl : ((s.badFrame l t).link l).lock = .hunt := by
    rw [State.badFrame_departs h hr]
    unfold State.link
    rw [(State.announceDeparture_frame _ l t).1]
    simp [State.setLink]
  simp [State.unexpectedMark, hl]

/-! ### Arrivals (R15, R16) -/

/-- R15, R16: the FIFO after an arrival. -/
theorem LinkRx.arrive_fifo (r : LinkRx) (f : LinkFrame) :
    (r.arrive f).fifo = (if 8 ≤ r.fifo.length then r.fifo.tail else r.fifo) ++ [f] := by
  by_cases h : 8 ≤ r.fifo.length <;> simp [LinkRx.arrive, LinkRx.arrivalDrops, h]

/-! ### The beginning of a frame (R4) -/

/-- R4: a MARK outside LOCKED gives no mark time. -/
theorem State.beginFrame_unlocked {s : State} {l : LinkId} (h : (s.link l).lock ≠ .locked) (start : Nat) :
    s.beginFrame l start =
      s.setLink l { s.link l with phase := .markTail, markDue := false, frame := some PartialFrame.start } := by
  simp [State.beginFrame, h]

/-- R4: in LOCKED the start tick of a MARK goes to the timebase. -/
theorem State.beginFrame_locked {s : State} {l : LinkId} (h : (s.link l).lock = .locked) (start : Nat) :
    s.beginFrame l start = (s.setLink l { s.link l with
      phase := .markTail, markDue := false, frame := some PartialFrame.start }).markTime l start := by
  simp [State.beginFrame, h]

/-! ### The assembler (R4, R5, R7) -/

section
variable {s : State} {l : LinkId} (start t : Nat)

/-- R4: in WAIT_MARK a MARK begins a frame. -/
theorem State.assemble_waitMark_mark (hp : (s.link l).phase = .waitMark) :
    s.assemble l .mark start t = s.beginFrame l start := by
  simp [State.assemble, hp]

/-- R4: in WAIT_MARK with no mark due any other pulse is ignored. -/
theorem State.assemble_waitMark_other {c : PulseClass} (hc : c ≠ .mark) (hp : (s.link l).phase = .waitMark)
    (hd : (s.link l).markDue = false) : s.assemble l c start t = s := by
  cases c <;> simp_all [State.assemble]

/-- R7: in WAIT_MARK with a mark due any other pulse is a bad frame. -/
theorem State.assemble_markMissing {c : PulseClass} (hc : c ≠ .mark) (hp : (s.link l).phase = .waitMark)
    (hd : (s.link l).markDue = true) : s.assemble l c start t = s.badFrame l t := by
  cases c <;> simp_all [State.assemble]

/-- R4: in MARK_TAIL a SHORT ends the mark. -/
theorem State.assemble_markTail_short (hp : (s.link l).phase = .markTail) :
    s.assemble l .short start t = s.setLink l { s.link l with phase := .cells } := by
  simp [State.assemble, hp]

/-- R7: in MARK_TAIL a LONG or a VIOLATION is a bad frame. -/
theorem State.assemble_markTail_bad {c : PulseClass} (hc : c = .long ∨ c = .violation)
    (hp : (s.link l).phase = .markTail) : s.assemble l c start t = s.badFrame l t := by
  rcases hc with rfl | rfl <;> simp [State.assemble, hp]

/-- R7: in MARK_TAIL and CELLS no MARK is due. -/
theorem State.assemble_unexpectedMark (hp : (s.link l).phase ≠ .waitMark) :
    s.assemble l .mark start t = s.unexpectedMark l start t := by
  cases h : (s.link l).phase with
  | waitMark => exact absurd h hp
  | markTail => simp [State.assemble, h]
  | cells => simp [State.assemble, h]

/-- R7: in CELLS a VIOLATION is a bad frame. -/
theorem State.assemble_cells_violation (hp : (s.link l).phase = .cells) :
    s.assemble l .violation start t = s.badFrame l t := by
  simp [State.assemble, hp]

variable {f : PartialFrame} (hp : (s.link l).phase = .cells) (hf : (s.link l).frame = some f)
include hp hf

/-- R5: a SHORT opens a 1 cell. -/
theorem State.assemble_cells_open (hh : f.halfOne = false) :
    s.assemble l .short start t = s.setLink l { s.link l with frame := some { f with halfOne := true } } := by
  simp [State.assemble, hp, hf, hh]

/-- R5: a second SHORT completes the 1 cell. -/
theorem State.assemble_cells_one (hh : f.halfOne = true) :
    s.assemble l .short start t = s.completeCell l f true t := by
  simp [State.assemble, hp, hf, hh]

/-- R5: a LONG is a 0 cell. -/
theorem State.assemble_cells_zero (hh : f.halfOne = false) :
    s.assemble l .long start t = s.completeCell l f false t := by
  simp [State.assemble, hp, hf, hh]

/-- R7: a LONG inside a 1 cell is a bad frame. -/
theorem State.assemble_cells_broken (hh : f.halfOne = true) :
    s.assemble l .long start t = s.badFrame l t := by
  simp [State.assemble, hp, hf, hh]

end

/-- R5: a cell before the thirtieth joins the slot under way. -/
theorem State.completeCell_joins {f : PartialFrame} (h : f.cells.length < 29) (s : State) (l : LinkId) (cell : Bool)
    (t : Nat) : s.completeCell l f cell t =
      s.setLink l { s.link l with frame := some ⟨f.slots, f.cells ++ [cell], false⟩ } := by
  simp [State.completeCell, show f.cells.length + 1 < 30 by omega]

/-- R6: the thirtieth cell completes the slot. -/
theorem State.completeCell_last {f : PartialFrame} (h : f.cells.length = 29) (s : State) (l : LinkId) (cell : Bool)
    (t : Nat) : s.completeCell l f cell t = s.completeSlot l f (f.cells ++ [cell]) t := by
  simp [State.completeCell, h]

/-! ### Pulses (R1, R10) -/

/-- R10: in HUNT a MARK moves the link to SYNC and begins a frame. -/
theorem State.takePulse_hunt_mark {s : State} {l : LinkId} (h : (s.link l).lock = .hunt) (start t : Nat) :
    s.takePulse l .mark start t = s.setLink l { s.link l with
      lock := .sync, goodRun := 0, phase := .markTail, markDue := false, frame := some PartialFrame.start } := by
  simp [State.takePulse, h]

/-- R10: in HUNT no other pulse counts. -/
theorem State.takePulse_hunt_other {s : State} {l : LinkId} (h : (s.link l).lock = .hunt) {c : PulseClass}
    (hc : c ≠ .mark) (start t : Nat) : s.takePulse l c start t = s := by
  cases c <;> simp_all [State.takePulse]

/-- R1: in SYNC and LOCKED a VIOLATION is counted and the assembler takes the pulse. -/
theorem State.takePulse_assembles {s : State} {l : LinkId} (h : (s.link l).lock = .sync ∨ (s.link l).lock = .locked)
    (c : PulseClass) (start t : Nat) :
    s.takePulse l c start t = (s.countViolation l c).assemble l c start t := by
  rcases h with h | h <;> simp [State.takePulse, h]

/-- A DISABLED link takes no pulse. -/
theorem State.takePulse_disabled {s : State} {l : LinkId} (h : (s.link l).lock = .disabled)
    (c : PulseClass) (start t : Nat) : s.takePulse l c start t = s := by
  simp [State.takePulse, h]

/-- R18: the counters after a pulse has been classified. -/
theorem State.countViolation_eq (s : State) (l : LinkId) (c : PulseClass) :
    s.countViolation l c = s.setLink l { s.link l with
      counters := if c = .violation then (s.link l).counters.addViolation else (s.link l).counters } := by
  by_cases h : c = .violation
  · simp [State.countViolation, h]
  · simp only [State.countViolation, if_neg h]
    exact (State.setLink_link s l).symm

/-! ### The edge timeout (R3) -/

/-- R3: what the edge timeout does to a receiver whatever its lock state. -/
def LinkRx.silenced (r : LinkRx) : LinkRx :=
  { r.resetAssembler with carry := 0, timedOut := true, measuredFrom := none }

/-- R3: the edge timeout in HUNT. -/
theorem State.takeTimeout_hunt {s : State} {l : LinkId} (h : (s.link l).lock = .hunt) (t : Nat) :
    s.takeTimeout l t = s.setLink l (s.link l).silenced := by
  simp [State.takeTimeout, LinkRx.silenced, h]

/-- R3: the edge timeout of a DISABLED link, which none takes (`LinkRx.timeoutBy?_eq_some`). -/
theorem State.takeTimeout_disabled {s : State} {l : LinkId} (h : (s.link l).lock = .disabled) (t : Nat) :
    s.takeTimeout l t = s.setLink l (s.link l).silenced := by
  simp [State.takeTimeout, LinkRx.silenced, h]

/-- R3, R11: the edge timeout in SYNC. -/
theorem State.takeTimeout_sync {s : State} {l : LinkId} (h : (s.link l).lock = .sync) (t : Nat) :
    s.takeTimeout l t = s.setLink l { (s.link l).silenced with lock := .hunt, goodRun := 0 } := by
  simp [State.takeTimeout, LinkRx.silenced, h]

/-- R3, R13: the edge timeout in LOCKED. -/
theorem State.takeTimeout_locked {s : State} {l : LinkId} (h : (s.link l).lock = .locked) (t : Nat) :
    s.takeTimeout l t = (s.setLink l ((s.link l).silenced.depart .hunt)).announceDeparture l t := by
  simp [State.takeTimeout, LinkRx.silenced, h, State.departLink_eq]

/-! ### Measurement (R1, R2) -/

/-- R1: a receiver at which a transition has been seen at tick `t`. -/
def LinkRx.seen (r : LinkRx) (t : Nat) : LinkRx := { r with timedOut := false, measuredFrom := some t, quietSince := t }

/-- R1: the first transition only starts measurement. -/
theorem State.measure_first {s : State} {l : LinkId} (h : (s.link l).measuredFrom = none) (t : Nat) :
    s.measure l t = s.setLink l ((s.link l).seen t) := by
  simp [State.measure, LinkRx.seen, h]

/-- Log 29: a transition at the very tick at which measurement began. -/
theorem State.measure_sameTick {s : State} {l : LinkId} {m t : Nat} (h : (s.link l).measuredFrom = some m)
    (ht : t ≤ m) : s.measure l t = s := by
  simp [State.measure, h, ht]

section
variable {s : State} {l : LinkId} {m t : Nat} (h : (s.link l).measuredFrom = some m) (ht : m < t)
include h ht

/-- R2: a glitch becomes the carry. -/
theorem State.measure_glitch (hw : t - m + (s.link l).carry ≤ (s.link l).settings.filter) :
    s.measure l t = s.setLink l { (s.link l).seen t with carry := t - m + (s.link l).carry } := by
  simp [State.measure, LinkRx.seen, h, show ¬ t ≤ m by omega, hw]

/-- R1: any other interval is a pulse of its class. -/
theorem State.measure_pulse (hw : (s.link l).settings.filter < t - m + (s.link l).carry) :
    s.measure l t = (s.setLink l { (s.link l).seen t with carry := 0 }).takePulse l
      (classOf (t - m + (s.link l).carry) (s.link l).settings) (t - (t - m + (s.link l).carry)) t := by
  simp [State.measure, LinkRx.seen, h, show ¬ t ≤ m by omega,
    show ¬ t - m + (s.link l).carry ≤ (s.link l).settings.filter by omega]

end

/-- R1: a transition on a disabled link is ignored. -/
theorem State.transition_disabled {s : State} {l : LinkId} (h : (s.link l).enabled = false) (t : Nat) :
    s.transition l t = s := by
  simp [State.transition, h]

/-- R1: a transition with no timeout come is measured. -/
theorem State.transition_measures {s : State} {l : LinkId} {t : Nat} (h : (s.link l).enabled = true)
    (ht : (s.link l).timeoutBy? t = none) : s.transition l t = s.measure l t := by
  simp [State.transition, h, ht]

/-- R3, log 8: a timeout that has come is taken before the transition. -/
theorem State.transition_afterTimeout {s : State} {l : LinkId} {m t : Nat} (h : (s.link l).enabled = true)
    (ht : (s.link l).timeoutBy? t = some m) : s.transition l t = (s.takeTimeout l m).measure l t := by
  simp [State.transition, h, ht]

end Sys2Proof.Machine
end

section
/-! The receivers in a safe run (01 §1.2, R9, R12 to R19): each operation of a receiver keeps `LinkRx.Sound`, each operation
of the part keeps it at all four links, and so does every row of the table. -/

namespace Sys2Proof.Machine

/-! ### Counters (R18) -/

theorem count16_le (n k : Nat) : count16 n k ≤ 65535 := Nat.min_le_right _ _

theorem LinkCounters.zero_sound : LinkCounters.zero.Sound := by constructor <;> decide

theorem LinkCounters.Sound.addSlipDrop {c : LinkCounters} (h : c.Sound) : c.addSlipDrop.Sound :=
  { h with slipDrops := count16_le _ _ }

theorem LinkCounters.Sound.addSlipRepeat {c : LinkCounters} (h : c.Sound) : c.addSlipRepeat.Sound :=
  { h with slipRepeats := count16_le _ _ }

theorem LinkCounters.Sound.addViolation {c : LinkCounters} (h : c.Sound) : c.addViolation.Sound :=
  { h with widthViolations := count16_le _ _ }

theorem LinkCounters.Sound.addBadFrame {c : LinkCounters} (h : c.Sound) : c.addBadFrame.Sound :=
  { h with badFrames := count16_le _ _ }

theorem LinkCounters.Sound.addLockLoss {c : LinkCounters} (h : c.Sound) : c.addLockLoss.Sound :=
  { h with lockLosses := count16_le _ _ }

theorem LinkCounters.Sound.addSlot {c : LinkCounters} (h : c.Sound) (parityError tagMismatch : Bool) :
    (c.addSlot parityError tagMismatch).Sound where
  widthViolations := h.widthViolations
  tagMismatches := by
    cases tagMismatch
    · exact h.tagMismatches
    · exact count16_le _ _
  parityErrors := by
    cases parityError
    · exact h.parityErrors
    · exact count16_le _ _
  badFrames := h.badFrames
  lockLosses := h.lockLosses
  slipRepeats := h.slipRepeats
  slipDrops := h.slipDrops

/-! ### Changes of one receiver -/

/-- 01 §1.2, column "After reset". -/
theorem LinkRx.reset_sound : LinkRx.reset.Sound where
  enabled := by decide
  settings := by decide
  carry := by decide
  goodRun := by decide
  badRun := by decide
  fifo := by decide
  frames := by simp [LinkRx.reset]
  ready := by decide
  unlocked := by decide
  repeatable := by decide
  assembly := by decide
  partialFrame := by simp [LinkRx.reset]
  counters := LinkCounters.zero_sound

/-- A link that is not DISABLED is enabled. -/
theorem LinkRx.Sound.enabled_of_lock {r : LinkRx} (h : r.Sound) (hl : r.lock ≠ .disabled) : r.enabled = true := by
  cases he : r.enabled with
  | true => rfl
  | false => exact absurd (h.enabled.1 he) hl

/-- Measurement: a carry within the filter, and any moments. -/
theorem LinkRx.Sound.withMeasurement {r : LinkRx} (h : r.Sound) {carry : Nat} (hc : carry ≤ 3) (timedOut : Bool)
    (measuredFrom : Option Nat) (quietSince : Nat) :
    { r with carry := carry, timedOut := timedOut, measuredFrom := measuredFrom, quietSince := quietSince }.Sound :=
  { h with carry := hc }

theorem LinkRx.Sound.withCounters {r : LinkRx} (h : r.Sound) {c : LinkCounters} (hc : c.Sound) :
    { r with counters := c }.Sound :=
  { h with counters := hc }

theorem LinkRx.Sound.withRuns {r : LinkRx} (h : r.Sound) {good bad : Nat} (hg : good ≤ 3) (hb : bad ≤ 2) :
    { r with goodRun := good, badRun := bad }.Sound :=
  { h with goodRun := hg, badRun := hb }

/-- R4, R8, R11: the assembler waits for a MARK, with no frame in assembly. -/
theorem LinkRx.Sound.waiting {r : LinkRx} (h : r.Sound) (due : Bool) :
    { r with phase := .waitMark, markDue := due, frame := none }.Sound :=
  { h with assembly := by simp, partialFrame := by simp }

/-- R4 to R6: the assembler holds a frame in assembly. -/
theorem LinkRx.Sound.assembling {r : LinkRx} (h : r.Sound) {phase : AsmPhase} {f : PartialFrame} (due : Bool)
    (hp : phase ≠ .waitMark) (hs : f.slots.length < 16) (hc : f.cells.length < 30) :
    { r with phase := phase, markDue := due, frame := some f }.Sound :=
  { h with
    assembly := by simp [hp]
    partialFrame := by rintro _ ⟨⟩; exact ⟨hs, hc⟩ }

/-- The lock state of a link outside LOCKED, still outside LOCKED, its enabling as it goes with that. -/
theorem LinkRx.Sound.withLock {r : LinkRx} (h : r.Sound) (hl : r.lock ≠ .locked) {lock : LockState} {enabled : Bool}
    (he : enabled = false ↔ lock = .disabled) : { r with lock := lock, enabled := enabled }.Sound :=
  { h with
    enabled := he
    ready := fun hr => absurd (h.ready hr) hl
    unlocked := fun _ => h.unlocked hl }

/-- R9, R12, R13: a link with an empty FIFO, not ready, with no last frame, in any lock state. -/
theorem LinkRx.Sound.emptied {r : LinkRx} (h : r.Sound) {lock : LockState} {enabled : Bool}
    (he : enabled = false ↔ lock = .disabled) :
    { r with lock := lock, enabled := enabled, fifo := [], ready := false, lastFrame := none }.Sound :=
  { h with
    enabled := he
    fifo := by simp
    frames := by simp
    ready := by simp
    unlocked := by simp
    repeatable := by simp }

/-! ### Operations of one receiver -/

theorem LinkRx.Sound.resetAssembler {r : LinkRx} (h : r.Sound) : r.resetAssembler.Sound := h.waiting false

/-- R13: a departure to HUNT. -/
theorem LinkRx.Sound.depart {r : LinkRx} (h : r.Sound) (he : r.enabled = true) : (r.depart .hunt).Sound :=
  ((h.resetAssembler.emptied (lock := .hunt) (enabled := r.enabled) (by simp [he])).withRuns h.goodRun
    (Nat.zero_le 2)).withCounters h.counters.addLockLoss

/-- R9, R20: a cleared link. -/
theorem LinkRx.Sound.cleared {r : LinkRx} (h : r.Sound) {lock : LockState} {enabled : Bool}
    (he : enabled = false ↔ lock = .disabled) : { r.cleared lock with enabled := enabled }.Sound :=
  ((h.resetAssembler.emptied he).withRuns (Nat.zero_le 3) (Nat.zero_le 2)).withMeasurement (Nat.zero_le 3) false none
    r.quietSince

/-- R9, R13: a link that departs from LOCKED and is cleared. -/
theorem LinkRx.Sound.depart_cleared {r : LinkRx} (h : r.Sound) {lock : LockState} {enabled : Bool}
    (he : enabled = false ↔ lock = .disabled) : { (r.depart lock).cleared lock with enabled := enabled }.Sound :=
  (h.cleared he).withCounters h.counters.addLockLoss

/-- R12: entry to LOCKED. -/
theorem LinkRx.Sound.enterLocked {r : LinkRx} (h : r.Sound) (he : r.enabled = true) : r.enterLocked.Sound :=
  ((h.emptied (lock := .locked) (enabled := r.enabled) (by simp [he])).withRuns (Nat.zero_le 3) (Nat.zero_le 2)).waiting
    true

theorem LinkRx.Sound.afterGoodFrame {r : LinkRx} (h : r.Sound) : r.afterGoodFrame.Sound := h.waiting true

/-- R14 to R16: the arrival of a frame of sixteen slots at a LOCKED link. -/
theorem LinkRx.Sound.arrive {r : LinkRx} (h : r.Sound) (hl : r.lock = .locked) {f : LinkFrame} (hf : f.length = 16) :
    (r.arrive f).Sound :=
  { h with
    fifo := by
      have := h.fifo
      rw [LinkRx.arrive_fifo]
      split <;> simp <;> omega
    frames := by
      intro g hg
      rw [LinkRx.arrive_fifo, List.mem_append, List.mem_singleton] at hg
      rcases hg with hg | rfl
      · refine h.frames g ?_
        split at hg
        · exact List.mem_of_mem_tail hg
        · exact hg
      · exact hf
    ready := fun _ => hl
    unlocked := fun hn => absurd hl hn
    repeatable := fun _ he => by rw [LinkRx.arrive_fifo] at he; simp at he
    counters := by
      unfold LinkRx.arrive
      simp only []
      split
      · exact h.counters.addSlipDrop
      · exact h.counters }

/-- R17: the framer's request. -/
theorem LinkRx.Sound.request {r : LinkRx} (h : r.Sound) : r.request.1.Sound := by
  unfold LinkRx.request
  split
  · next hr =>
    split
    · next f rest hf =>
      exact { h with
        fifo := by have := h.fifo; rw [hf] at this; simp at this ⊢; omega
        frames := fun g hg => h.frames g (by rw [hf]; exact List.mem_cons_of_mem _ hg)
        unlocked := fun hn => absurd (h.ready hr) hn
        repeatable := by simp }
    · exact h.withCounters h.counters.addSlipRepeat
  · exact h

/-- R19: new settings that LINK_SETUP accepts. -/
theorem LinkRx.Sound.withSettings {r : LinkRx} (h : r.Sound) {k : LinkSettings} (hk : k.accepted = true) :
    { r with settings := k }.Sound :=
  { h with settings := hk }

/-- R2, R19: a carry within an accepted filter. -/
theorem LinkRx.Sound.carry_of_filter {r : LinkRx} (h : r.Sound) {w : Nat} (hw : w ≤ r.settings.filter) : w ≤ 3 := by
  obtain ⟨-, -, -, -, -, -, hfilter, -⟩ := (LinkSettings.accepted_iff _).1 h.settings
  exact hw.trans hfilter

/-- R4 to R6: outside WAIT_MARK a frame is in assembly, with a slot and a cell to come. -/
theorem LinkRx.Sound.exists_frame {r : LinkRx} (h : r.Sound) (hp : r.phase ≠ .waitMark) :
    ∃ f, r.frame = some f ∧ f.slots.length < 16 ∧ f.cells.length < 30 := by
  obtain ⟨f, hf⟩ := Option.ne_none_iff_exists'.1 (mt h.assembly.2 hp)
  exact ⟨f, hf, h.partialFrame f hf⟩

/-! ### The four receivers -/

/-- Every receiver is that of a safe run. -/
def State.LinksSound (s : State) : Prop := ∀ l, (s.link l).Sound

theorem State.LinksSound.of_links {s t : State} (h : s.LinksSound) (e : t.links = s.links) : t.LinksSound := by
  intro l
  have : t.link l = s.link l := by unfold State.link; rw [e]
  rw [this]
  exact h l

theorem State.LinksSound.setLink {s : State} (h : s.LinksSound) {l : LinkId} {r : LinkRx} (hr : r.Sound) :
    (s.setLink l r).LinksSound := by
  intro m
  rw [State.link_setLink]
  split
  · exact hr
  · exact h m

theorem State.LinksSound.setPort {s : State} (h : s.LinksSound) (p : Port) (q : PortState) :
    (s.setPort p q).LinksSound := h

theorem State.LinksSound.advance {s : State} (h : s.LinksSound) (t : Nat) : (s.advance t).LinksSound := h

theorem State.LinksSound.raiseAll {s : State} (h : s.LinksSound) (k : EventKind) : (s.raiseAll k).LinksSound := h

theorem State.LinksSound.answer {s : State} (h : s.LinksSound) (p : Port) (a : Answer) : (s.answer p a).LinksSound :=
  h.of_links (by simp)

theorem State.LinksSound.reportSlip {s : State} (h : s.LinksSound) (l : LinkId) : (s.reportSlip l).LinksSound :=
  h.of_links (by simp)

theorem State.LinksSound.markTime {s : State} (h : s.LinksSound) (l : LinkId) (e : Nat) : (s.markTime l e).LinksSound :=
  h.of_links (by simp)

theorem State.LinksSound.announceDeparture {s : State} (h : s.LinksSound) (l : LinkId) (t : Nat) :
    (s.announceDeparture l t).LinksSound :=
  h.of_links (by simp)

/-! ### Frame assembly (R4 to R13) -/

/-- R7, R11 to R13: a bad frame. -/
theorem State.LinksSound.badFrame {s : State} (h : s.LinksSound) (l : LinkId) (t : Nat) :
    (s.badFrame l t).LinksSound := by
  have hr : { (s.link l).resetAssembler with counters := (s.link l).counters.addBadFrame }.Sound :=
    (h l).resetAssembler.withCounters (h l).counters.addBadFrame
  cases hl : (s.link l).lock with
  | disabled => rwa [State.badFrame_unlocked (.inl hl)]
  | hunt => rwa [State.badFrame_unlocked (.inr hl)]
  | sync =>
    have he : (s.link l).enabled = true := (h l).enabled_of_lock (by simp [hl])
    rw [State.badFrame_sync hl]
    exact h.setLink ((hr.withLock (lock := .hunt) (enabled := (s.link l).enabled) (by simp [LinkRx.resetAssembler, hl])
      (by simp [he])).withRuns (Nat.zero_le 3) (h l).badRun)
  | locked =>
    by_cases hb : (s.link l).badRun < 2
    · rw [State.badFrame_locked hl hb]
      exact h.setLink (hr.withRuns (h l).goodRun (by omega))
    · rw [State.badFrame_departs hl (by omega)]
      exact (h.setLink (hr.depart ((h l).enabled_of_lock (by simp [hl])))).announceDeparture l t

/-- R8, R11, R12, R15: a good frame of sixteen slots. -/
theorem State.LinksSound.goodFrame {s : State} (h : s.LinksSound) (l : LinkId) {f : LinkFrame} (hf : f.length = 16) :
    (s.goodFrame l f).LinksSound := by
  have hr : (s.link l).afterGoodFrame.Sound := (h l).afterGoodFrame
  cases hl : (s.link l).lock with
  | disabled => rwa [State.goodFrame_unlocked (.inl hl)]
  | hunt => rwa [State.goodFrame_unlocked (.inr hl)]
  | sync =>
    rw [State.goodFrame_sync hl]
    split
    · exact h.setLink (hr.withRuns (by omega) (h l).badRun)
    · exact (h.setLink (hr.enterLocked ((h l).enabled_of_lock (by simp [hl])))).raiseAll .linkChange
  | locked =>
    have hs := h.setLink (l := l) ((hr.arrive hl hf).withRuns hr.goodRun (Nat.zero_le 2))
    rw [State.goodFrame_locked hl]
    simp only []
    split
    · exact hs.reportSlip l
    · exact hs

/-- R4: a MARK begins a frame. -/
theorem State.LinksSound.beginFrame {s : State} (h : s.LinksSound) (l : LinkId) (start : Nat) :
    (s.beginFrame l start).LinksSound := by
  have hs := h.setLink (l := l) ((h l).assembling (phase := .markTail) (f := PartialFrame.start) false (by decide)
    (by decide) (by decide))
  unfold State.beginFrame
  simp only []
  split
  · exact hs.markTime l start
  · exact hs

/-- R7: a MARK where none is due. -/
theorem State.LinksSound.unexpectedMark {s : State} (h : s.LinksSound) (l : LinkId) (start t : Nat) :
    (s.unexpectedMark l start t).LinksSound := by
  unfold State.unexpectedMark
  simp only []
  split
  · exact (h.badFrame l t).beginFrame l start
  · exact h.badFrame l t

/-- R6, R8: the last cell of a slot of the frame in assembly. -/
theorem State.LinksSound.completeSlot {s : State} (h : s.LinksSound) {l : LinkId} {f : PartialFrame}
    (hp : (s.link l).phase ≠ .waitMark) (hs : f.slots.length < 16) (cells : List Bool) (t : Nat) :
    (s.completeSlot l f cells t).LinksSound := by
  have h1 := fun bad mismatch => h.setLink (l := l) ((h l).withCounters ((h l).counters.addSlot bad mismatch))
  unfold State.completeSlot
  simp only []
  split
  · exact (h1 _ _).badFrame l t
  · split
    · next hlen => exact (h1 _ _).setLink ((h1 _ _ l).assembling _ (by simpa using hp) hlen (Nat.zero_lt_succ _))
    · next hlen => exact (h1 _ _).goodFrame l (by simp at hlen ⊢; omega)

/-- R5, R6: a cell of the frame in assembly. -/
theorem State.LinksSound.completeCell {s : State} (h : s.LinksSound) {l : LinkId} {f : PartialFrame}
    (hp : (s.link l).phase ≠ .waitMark) (hs : f.slots.length < 16) (cell : Bool) (t : Nat) :
    (s.completeCell l f cell t).LinksSound := by
  unfold State.completeCell
  simp only []
  split
  · next hlen => exact h.setLink ((h l).assembling _ hp hs hlen)
  · exact h.completeSlot hp hs _ t

/-- R4, R5, R7: the assembler takes a pulse. -/
theorem State.LinksSound.assemble {s : State} (h : s.LinksSound) (l : LinkId) (c : PulseClass) (start t : Nat) :
    (s.assemble l c start t).LinksSound := by
  have bad : (s.badFrame l t).LinksSound := h.badFrame l t
  have unexpected := h.unexpectedMark l start t
  cases hp : (s.link l).phase with
  | waitMark =>
    by_cases hc : c = .mark
    · subst hc
      rw [State.assemble_waitMark_mark _ _ hp]
      exact h.beginFrame l start
    · cases hd : (s.link l).markDue with
      | false => rwa [State.assemble_waitMark_other _ _ hc hp hd]
      | true => rwa [State.assemble_markMissing _ _ hc hp hd]
  | markTail =>
    cases c with
    | mark => rwa [State.assemble_unexpectedMark _ _ (by simp [hp])]
    | short =>
      rw [State.assemble_markTail_short _ _ hp]
      exact h.setLink { h l with assembly := by simpa [hp] using (h l).assembly }
    | long => rwa [State.assemble_markTail_bad _ _ (.inl rfl) hp]
    | violation => rwa [State.assemble_markTail_bad _ _ (.inr rfl) hp]
  | cells =>
    have hp' : (s.link l).phase ≠ .waitMark := by simp [hp]
    obtain ⟨f, hf, hs, hc⟩ := (h l).exists_frame hp'
    cases c with
    | mark => rwa [State.assemble_unexpectedMark _ _ hp']
    | violation => rwa [State.assemble_cells_violation _ _ hp]
    | short =>
      cases hh : f.halfOne with
      | false =>
        rw [State.assemble_cells_open _ _ hp hf hh]
        exact h.setLink ((h l).assembling _ hp' hs hc)
      | true =>
        rw [State.assemble_cells_one _ _ hp hf hh]
        exact h.completeCell hp' hs true t
    | long =>
      cases hh : f.halfOne with
      | false =>
        rw [State.assemble_cells_zero _ _ hp hf hh]
        exact h.completeCell hp' hs false t
      | true => rwa [State.assemble_cells_broken _ _ hp hf hh]

/-! ### Measurement and the edge timeout (R1 to R3) -/

theorem State.LinksSound.countViolation {s : State} (h : s.LinksSound) (l : LinkId) (c : PulseClass) :
    (s.countViolation l c).LinksSound := by
  unfold State.countViolation
  split
  · exact h.setLink ((h l).withCounters (h l).counters.addViolation)
  · exact h

/-- R1, R10: a classified pulse. -/
theorem State.LinksSound.takePulse {s : State} (h : s.LinksSound) (l : LinkId) (c : PulseClass) (start t : Nat) :
    (s.takePulse l c start t).LinksSound := by
  have taken := (h.countViolation l c).assemble l c start t
  cases hl : (s.link l).lock with
  | disabled => rwa [State.takePulse_disabled hl]
  | sync => rwa [State.takePulse_assembles (.inl hl)]
  | locked => rwa [State.takePulse_assembles (.inr hl)]
  | hunt =>
    by_cases hc : c = .mark
    · have he : (s.link l).enabled = true := (h l).enabled_of_lock (by simp [hl])
      have hr := (h l).withLock (lock := .sync) (enabled := (s.link l).enabled) (by simp [hl]) (by simp [he])
      rw [hc, State.takePulse_hunt_mark hl]
      exact h.setLink ((hr.withRuns (Nat.zero_le 3) (h l).badRun).assembling false (by decide) (by decide) (by decide))
    · rwa [State.takePulse_hunt_other hl hc]

theorem LinkRx.Sound.silenced {r : LinkRx} (h : r.Sound) : r.silenced.Sound :=
  h.resetAssembler.withMeasurement (Nat.zero_le 3) true none r.quietSince

/-- R3: the edge timeout. -/
theorem State.LinksSound.takeTimeout {s : State} (h : s.LinksSound) (l : LinkId) (t : Nat) :
    (s.takeTimeout l t).LinksSound := by
  have hr := (h l).silenced
  cases hl : (s.link l).lock with
  | disabled =>
    rw [State.takeTimeout_disabled hl]
    exact h.setLink hr
  | hunt =>
    rw [State.takeTimeout_hunt hl]
    exact h.setLink hr
  | sync =>
    have he : (s.link l).enabled = true := (h l).enabled_of_lock (by simp [hl])
    rw [State.takeTimeout_sync hl]
    exact h.setLink ((hr.withLock (lock := .hunt) (enabled := (s.link l).enabled)
      (by simp [LinkRx.silenced, LinkRx.resetAssembler, hl]) (by simp [he])).withRuns (Nat.zero_le 3) (h l).badRun)
  | locked =>
    rw [State.takeTimeout_locked hl]
    exact (h.setLink (hr.depart ((h l).enabled_of_lock (by simp [hl])))).announceDeparture l t

/-- R1, R2: a transition with no timeout come. -/
theorem State.LinksSound.measure {s : State} (h : s.LinksSound) (l : LinkId) (t : Nat) :
    (s.measure l t).LinksSound := by
  have seen := fun carry hc => h.setLink (l := l) ((h l).withMeasurement (carry := carry) hc false (some t) t)
  cases hm : (s.link l).measuredFrom with
  | none =>
    rw [State.measure_first hm]
    exact seen _ (h l).carry
  | some m =>
    by_cases ht : t ≤ m
    · rwa [State.measure_sameTick hm ht]
    · by_cases hw : t - m + (s.link l).carry ≤ (s.link l).settings.filter
      · rw [State.measure_glitch hm (by omega) hw]
        exact seen _ ((h l).carry_of_filter hw)
      · rw [State.measure_pulse hm (by omega) (by omega)]
        exact (seen 0 (Nat.zero_le 3)).takePulse l _ _ t

/-- R1, R3: a transition on a line. -/
theorem State.LinksSound.transition {s : State} (h : s.LinksSound) (l : LinkId) (t : Nat) :
    (s.transition l t).LinksSound := by
  unfold State.transition
  split
  · split
    · exact (h.takeTimeout l _).measure l t
    · exact h.measure l t
  · exact h

theorem State.LinksSound.silence {s : State} (h : s.LinksSound) (l : LinkId) : (s.silence l).LinksSound := by
  unfold State.silence
  split
  · exact h.takeTimeout l _
  · exact h

/-! ### The framer's requests (R17) -/

theorem State.LinksSound.askLink {s : State} (h : s.LinksSound) (l : LinkId) : (s.askLink l).LinksSound := by
  have asked := h.setLink (l := l) (h l).request
  unfold State.askLink
  simp only []
  split
  · exact asked.reportSlip l
  · exact asked

theorem State.LinksSound.askLinks {s : State} (h : s.LinksSound) : s.askLinks.LinksSound :=
  (((h.askLink .l0).askLink .l1).askLink .l2).askLink .l3

/-! ### Settings and restarts (R9, R19, R20) -/

/-- R13, R20: a restart of an enabled link. -/
theorem State.LinksSound.restartLink {s : State} (h : s.LinksSound) {l : LinkId} (he : (s.link l).enabled = true)
    (t : Nat) : (s.restartLink l t).LinksSound := by
  have hunt : (s.link l).enabled = false ↔ LockState.hunt = .disabled := by simp [he]
  unfold State.restartLink
  simp only []
  split
  · exact (h.setLink ((h l).depart_cleared hunt)).announceDeparture l t
  · exact h.setLink ((h l).cleared hunt)

/-- R9, R13: a link is disabled. -/
theorem State.LinksSound.disableLink {s : State} (h : s.LinksSound) (l : LinkId) (t : Nat) :
    (s.disableLink l t).LinksSound := by
  have off : false = false ↔ LockState.disabled = .disabled := by simp
  unfold State.disableLink
  simp only []
  split
  · exact (h.setLink ((h l).depart_cleared off)).announceDeparture l t
  · exact h.setLink ((h l).cleared off)

/-- R19: accepted settings. -/
theorem State.LinksSound.setupLink {s : State} (h : s.LinksSound) (l : LinkId) (enable : Bool) {k : LinkSettings}
    (hk : k.accepted = true) (t : Nat) : (s.setupLink l enable k t).LinksSound := by
  have hs := h.setLink (l := l) ((h l).withSettings hk)
  unfold State.setupLink
  simp only []
  split
  · next he =>
    split
    · split
      · exact hs
      · exact hs.restartLink (by simpa using he) t
    · exact hs.disableLink l t
  · split
    · exact hs.setLink (((hs l).cleared (lock := .hunt) (enabled := true) (by simp)).withMeasurement (Nat.zero_le 3)
        false none t)
    · exact hs

end Sys2Proof.Machine
end

section
/-! Every row of the table keeps the receivers of a safe run: the link rows by the lemmas on their operations, each other row
because it leaves the receivers as they are. -/

namespace Sys2Proof.Machine

/-! ### Rules of commands that leave the receivers alone -/

theorem trackMapSetRule_links (p : Port) (ps : List Byte) (s : State) : (trackMapSetRule p ps s).1.links = s.links := by
  unfold trackMapSetRule
  repeat' split
  all_goals simp

theorem trackMapGetRule_links (ps : List Byte) (s : State) : (trackMapGetRule ps s).1.links = s.links := by
  unfold trackMapGetRule
  repeat' split
  all_goals simp

theorem gainSetRule_links (ps : List Byte) (s : State) : (gainSetRule ps s).1.links = s.links := by
  unfold gainSetRule
  repeat' split
  all_goals simp

theorem gainApplyRule_links (p : Port) (ps : List Byte) (s : State) : (gainApplyRule p ps s).1.links = s.links := by
  unfold gainApplyRule
  split <;> simp

theorem gainDiscardRule_links (p : Port) (ps : List Byte) (s : State) : (gainDiscardRule p ps s).1.links = s.links := by
  unfold gainDiscardRule
  simp only []
  split <;> simp

theorem gainGetRule_links (ps : List Byte) (s : State) : (gainGetRule ps s).1.links = s.links := by
  unfold gainGetRule
  repeat' split
  all_goals simp

theorem archiveSetupRule_links (p : Port) (ps : List Byte) (s : State) :
    (archiveSetupRule p ps s).1.links = s.links := by
  unfold archiveSetupRule
  repeat' split
  all_goals simp

theorem streamSetupRule_links (p : Port) (ps : List Byte) (s : State) : (streamSetupRule p ps s).1.links = s.links := by
  unfold streamSetupRule
  simp only []
  repeat' split
  all_goals simp

theorem storeSetupRule_links (p : Port) (ps : List Byte) (s : State) : (storeSetupRule p ps s).1.links = s.links := by
  unfold storeSetupRule
  simp only []
  repeat' split
  all_goals simp

theorem subscribeRule_links (p : Port) (ps : List Byte) (s : State) : (subscribeRule p ps s).1.links = s.links := by
  unfold subscribeRule
  repeat' split
  all_goals simp

theorem unsubscribeRule_links (p : Port) (ps : List Byte) (s : State) : (unsubscribeRule p ps s).1.links = s.links := by
  unfold unsubscribeRule
  split <;> simp

theorem nextRule_links (p : Port) (ps : List Byte) (s : State) : (nextRule p ps s).1.links = s.links := by
  unfold nextRule
  simp only []
  repeat' split
  all_goals simp

theorem releaseRule_links (p : Port) (ps : List Byte) (s : State) : (releaseRule p ps s).1.links = s.links := by
  unfold releaseRule
  simp only []
  repeat' split
  all_goals simp

theorem cueAddRule_links (p : Port) (ps : List Byte) (s : State) : (cueAddRule p ps s).1.links = s.links := by
  unfold cueAddRule
  simp only []
  repeat' split
  all_goals simp

theorem cueDeleteRule_links (p : Port) (ps : List Byte) (s : State) : (cueDeleteRule p ps s).1.links = s.links := by
  unfold cueDeleteRule
  simp only []
  repeat' split
  all_goals simp

theorem cueListRule_links (ps : List Byte) (s : State) : (cueListRule ps s).1.links = s.links := by
  unfold cueListRule
  repeat' split
  all_goals simp

theorem portModeRule_links (p : Port) (ps : List Byte) (s : State) : (portModeRule p ps s).1.links = s.links := by
  unfold portModeRule
  repeat' split
  all_goals simp

theorem eventMaskRule_links (p : Port) (ps : List Byte) (s : State) : (eventMaskRule p ps s).1.links = s.links := by
  unfold eventMaskRule
  simp only []
  repeat' split
  all_goals simp

theorem clockSetupRule_links (ps : List Byte) (s : State) : (clockSetupRule ps s).1.links = s.links := by
  unfold clockSetupRule
  repeat' split
  all_goals simp

theorem armRule_links (ps : List Byte) (s : State) : (armRule ps s).1.links = s.links := by
  unfold armRule
  repeat' split
  all_goals simp

theorem disarmRule_links (ps : List Byte) (s : State) : (disarmRule ps s).1.links = s.links := by
  unfold disarmRule
  split <;> simp

theorem rollRule_links (ps : List Byte) (s : State) : (rollRule ps s).1.links = s.links := by
  unfold rollRule
  repeat' split
  all_goals simp

theorem closeRule_links (ps : List Byte) (s : State) : (closeRule ps s).1.links = s.links := by
  unfold closeRule
  split <;> simp

theorem abortRule_links (ps : List Byte) (s : State) : (abortRule ps s).1.links = s.links := by
  unfold abortRule
  split <;> simp

/-! ### Rules of the link commands -/

theorem State.LinksSound.linkSetupRule {s : State} (h : s.LinksSound) (ps : List Byte) :
    (linkSetupRule ps s).1.LinksSound := by
  unfold Machine.linkSetupRule
  split
  · simp only []
    split
    · split
      · next hk => exact h.setupLink _ _ hk _
      · exact h
    · exact h
  · exact h

theorem State.LinksSound.linkRestartRule {s : State} (h : s.LinksSound) (ps : List Byte) :
    (linkRestartRule ps s).1.LinksSound := by
  unfold Machine.linkRestartRule
  split
  · split
    · split
      · exact h
      · next hl => exact h.restartLink ((h _).enabled_of_lock hl) _
    · exact h
  · exact h

theorem State.LinksSound.linkStatusRule {s : State} (h : s.LinksSound) (ps : List Byte) :
    (linkStatusRule ps s).1.LinksSound := by
  unfold Machine.linkStatusRule
  split
  · split <;> exact h
  · exact h

theorem State.LinksSound.linkCountersRule {s : State} (h : s.LinksSound) (ps : List Byte) :
    (linkCountersRule ps s).1.LinksSound := by
  unfold Machine.linkCountersRule
  split
  · split
    · simp only []
      split
      · exact h.setLink ((h _).withCounters LinkCounters.zero_sound)
      · exact h
    · exact h
  · exact h

/-! ### Commands and events -/

/-- R146: a command keeps the receivers of a safe run if its rule does: the rest of its row is its port's. -/
theorem State.LinksSound.runCommand {s : State} (h : s.LinksSound) {m : List Byte → State → State × Answer}
    (hm : ∀ (ps : List Byte) (u : State), u.LinksSound → (m ps u).1.LinksSound) (c : Command) (p : Port)
    (clocks : List Lanes) : (s.runCommand c m p clocks).LinksSound := by
  have taken : ∀ {s1 f}, s.frameEnds p clocks = some (s1, f) → s1.LinksSound := by
    intro s1 f hf
    rw [State.frameEnds_frame hf]
    exact h.setPort p _
  obtain e | ⟨-, -, e⟩ | ⟨s1, f, -, hf, -, -, e⟩ | ⟨s1, f, -, hf, -, -, e⟩ := State.runCommand_cases s c m p clocks
  · rwa [e]
  · rw [e]
    exact h.of_links (by simp)
  · rw [e]
    exact (taken hf).answer p _
  · rw [e]
    exact (hm f.params s1 (taken hf)).answer p _

/-- R146: a command whose rule leaves the receivers alone. -/
theorem State.LinksSound.runOther {s : State} (h : s.LinksSound) {m : List Byte → State → State × Answer}
    (hm : ∀ (ps : List Byte) (u : State), (m ps u).1.links = u.links) (c : Command) (p : Port) (clocks : List Lanes) :
    (s.runCommand c m p clocks).LinksSound :=
  h.runCommand (fun ps u hu => hu.of_links (hm ps u)) c p clocks

/-- R159: nothing happens while RESET is held. -/
theorem State.LinksSound.unlessHeld {s u : State} (h : s.LinksSound) (hu : u.LinksSound) :
    (if s.resetHeld then s else u).LinksSound := by
  split
  · exact h
  · exact hu

/-- R159: an event of a block. -/
theorem State.LinksSound.eventAt {s : State} (h : s.LinksSound) (t : Nat) {effect : State → State}
    (he : ∀ u : State, u.LinksSound → (effect u).LinksSound) : (s.eventAt t effect).LinksSound :=
  (h.advance t).unlessHeld (he _ (h.advance t))

theorem State.LinksSound.linkStep {s : State} (h : s.LinksSound) (a : LinkStep) : (s.linkStep a).LinksSound := by
  cases a with
  | transition l => exact h.transition l s.now
  | timeout l => exact h.silence l
  | restart p clocks => exact h.runCommand (fun ps _ hu => hu.linkRestartRule ps) _ p clocks
  | setup p clocks => exact h.runCommand (fun ps _ hu => hu.linkSetupRule ps) _ p clocks

/-- R164: link steps in order. -/
theorem State.LinksSound.linkSteps {s : State} (h : s.LinksSound) (steps : List LinkStep) :
    (s.linkSteps steps).LinksSound := by
  induction steps generalizing s with
  | nil => exact h
  | cons a rest ih => exact ih (h.linkStep a)

/-- R25, R27, R28: the coming of a sample-period event touches the timebase alone. -/
theorem State.sampleBy?_links {s u : State} {t : Nat} {refTimed : Bool} (h : s.sampleBy? t = some (refTimed, u)) :
    u.links = s.links := by
  unfold State.sampleBy? at h
  simp only [] at h
  split at h
  · split at h
    · cases h
      rfl
    · cases h
  · split at h
    · cases h
      rfl
    · cases h

/-- R31, R45, R164: a sample-period event asks each link once. -/
theorem State.LinksSound.samplePeriod {s : State} (h : s.LinksSound) (refTimed : Bool) {between : State → State}
    (hb : ∀ u : State, u.LinksSound → (between u).LinksSound) : (s.samplePeriod refTimed between).LinksSound := by
  have before : s.adoptRate.advancePosition.LinksSound := h.of_links (by simp)
  exact (hb _ before).askLinks.of_links (by simp [State.samplePeriod])

theorem State.LinksSound.sampleIf {s : State} (h : s.LinksSound) (wanted : State → Bool) {between : State → State}
    (hb : ∀ u : State, u.LinksSound → (between u).LinksSound) : (s.sampleIf wanted between).LinksSound := by
  unfold State.sampleIf
  split
  · next r u hu =>
    split
    · exact (h.of_links (State.sampleBy?_links hu)).samplePeriod r hb
    · exact h
  · exact h

theorem State.resetAt_linksSound (t : Nat) (held : Bool) : (State.resetAt t held).LinksSound := by
  intro l
  cases l <;> exact LinkRx.reset_sound

/-- R146: BAD_COMMAND touches its port alone. -/
theorem State.LinksSound.execBadCommand {s : State} (h : s.LinksSound) (p : Port) (clocks : List Lanes) :
    ∃ t, execBadCommand p clocks s = .next t ∧ t.LinksSound := by
  refine ⟨_, rfl, h.unlessHeld ?_⟩
  split
  · next s1 f hf =>
    split
    · rw [State.frameEnds_frame hf]
      exact (h.setPort p _).answer p _
    · exact h
  · exact h.of_links (by simp)

/-- R145: the two ends of an incomplete frame touch their port alone. -/
theorem State.LinksSound.setPortUnless {s : State} (h : s.LinksSound) (b : Bool) (p : Port) (q : PortState) :
    (if b then s else s.setPort p q).LinksSound := by
  split
  · exact h
  · exact h.setPort p q

/-! ### Every row -/

/-- 95: every row of the table keeps the receivers of a safe run. -/
theorem State.LinksSound.exec {s : State} (h : s.LinksSound) (i : Instr) : ∃ t, exec i s = .next t ∧ t.LinksSound := by
  have same : ∀ u : State, u.LinksSound → (id u).LinksSound := fun _ hu => hu
  cases i with
  | lineTransition l t => exact ⟨_, rfl, h.eventAt t fun u hu => hu.transition l u.now⟩
  | edgeTimeout l t => exact ⟨_, rfl, h.eventAt t fun _ hu => hu.silence l⟩
  | linkSetup p clocks t =>
    exact ⟨_, rfl, (h.advance t).runCommand (fun ps _ hu => hu.linkSetupRule ps) _ p clocks⟩
  | linkRestart p clocks t =>
    exact ⟨_, rfl, (h.advance t).runCommand (fun ps _ hu => hu.linkRestartRule ps) _ p clocks⟩
  | linkStatus p clocks => exact ⟨_, rfl, h.runCommand (fun ps _ hu => hu.linkStatusRule ps) _ p clocks⟩
  | linkCounters p clocks => exact ⟨_, rfl, h.runCommand (fun ps _ hu => hu.linkCountersRule ps) _ p clocks⟩
  | wclkEdge t => exact ⟨_, rfl, h.eventAt t fun _ hu => hu.of_links (by split <;> simp)⟩
  | latePeriod t => exact ⟨_, rfl, h.eventAt t fun _ hu => hu.of_links (by split <;> simp)⟩
  | referenceAbsent t => exact ⟨_, rfl, h.eventAt t fun _ hu => hu.of_links (by split <;> simp)⟩
  | clockSetup p clocks t => exact ⟨_, rfl, (h.advance t).runOther clockSetupRule_links _ p clocks⟩
  | samplePeriodEvent t =>
    exact ⟨_, rfl, h.eventAt t.tick fun _ hu => hu.sampleIf _ fun _ hv => hv.linkSteps t.between⟩
  | takeLengthLimit t => exact ⟨_, rfl, h.eventAt t fun _ hu => hu.sampleIf _ same⟩
  | positionLimit t => exact ⟨_, rfl, h.eventAt t fun _ hu => hu.sampleIf _ same⟩
  | nextWaitExpiry p t => exact ⟨_, rfl, h.eventAt t fun _ hu => hu.sampleIf _ same⟩
  | recordPlacement => exact ⟨_, rfl, h.unlessHeld (h.of_links (by simp))⟩
  | recordPublication => exact ⟨_, rfl, h.unlessHeld (h.of_links (by simp))⟩
  | arm p clocks => exact ⟨_, rfl, h.runOther armRule_links _ p clocks⟩
  | disarm p clocks => exact ⟨_, rfl, h.runOther disarmRule_links _ p clocks⟩
  | roll p clocks => exact ⟨_, rfl, h.runOther rollRule_links _ p clocks⟩
  | close p clocks => exact ⟨_, rfl, h.runOther closeRule_links _ p clocks⟩
  | abort p clocks => exact ⟨_, rfl, h.runOther abortRule_links _ p clocks⟩
  | trackMapSet p clocks => exact ⟨_, rfl, h.runOther (trackMapSetRule_links p) _ p clocks⟩
  | trackMapGet p clocks => exact ⟨_, rfl, h.runOther trackMapGetRule_links _ p clocks⟩
  | gainSet p clocks => exact ⟨_, rfl, h.runOther gainSetRule_links _ p clocks⟩
  | gainApply p clocks => exact ⟨_, rfl, h.runOther (gainApplyRule_links p) _ p clocks⟩
  | gainDiscard p clocks => exact ⟨_, rfl, h.runOther (gainDiscardRule_links p) _ p clocks⟩
  | gainGet p clocks => exact ⟨_, rfl, h.runOther gainGetRule_links _ p clocks⟩
  | archiveSetup p clocks => exact ⟨_, rfl, h.runOther (archiveSetupRule_links p) _ p clocks⟩
  | archiveGet p clocks => exact ⟨_, rfl, h.runOther (fun _ _ => rfl) _ p clocks⟩
  | streamSetup p clocks => exact ⟨_, rfl, h.runOther (streamSetupRule_links p) _ p clocks⟩
  | streamGet p clocks => exact ⟨_, rfl, h.runOther (fun _ _ => rfl) _ p clocks⟩
  | storeSetup p clocks => exact ⟨_, rfl, h.runOther (storeSetupRule_links p) _ p clocks⟩
  | subscribe p clocks => exact ⟨_, rfl, h.runOther (subscribeRule_links p) _ p clocks⟩
  | unsubscribe p clocks => exact ⟨_, rfl, h.runOther (unsubscribeRule_links p) _ p clocks⟩
  | next p clocks => exact ⟨_, rfl, h.runOther (nextRule_links p) _ p clocks⟩
  | release p clocks => exact ⟨_, rfl, h.runOther (releaseRule_links p) _ p clocks⟩
  | feedStatus p clocks => exact ⟨_, rfl, h.runOther (fun _ _ => rfl) _ p clocks⟩
  | cueAdd p clocks => exact ⟨_, rfl, h.runOther (cueAddRule_links p) _ p clocks⟩
  | cueDelete p clocks => exact ⟨_, rfl, h.runOther (cueDeleteRule_links p) _ p clocks⟩
  | cueList p clocks => exact ⟨_, rfl, h.runOther cueListRule_links _ p clocks⟩
  | faultRequestTaken => exact ⟨_, rfl, h.unlessHeld (h.of_links (by simp))⟩
  | frameStart p clocks ended => exact ⟨_, rfl, h.unlessHeld (h.of_links (by simp))⟩
  | frameAbandoned p => exact ⟨_, rfl, h.setPortUnless _ p _⟩
  | receiveTimeout t => exact ⟨_, rfl, h.setPortUnless _ t.port _⟩
  | badCommand p clocks => exact h.execBadCommand p clocks
  | read p clocks => exact ⟨_, rfl, h.unlessHeld (h.of_links (by simp))⟩
  | responseEnd p clocks => exact ⟨_, rfl, h.unlessHeld (h.of_links (by simp))⟩
  | portMode p clocks => exact ⟨_, rfl, h.runOther (portModeRule_links p) _ p clocks⟩
  | events p clocks => exact ⟨_, rfl, h.runOther (fun _ _ => rfl) _ p clocks⟩
  | eventMask p clocks => exact ⟨_, rfl, h.runOther (eventMaskRule_links p) _ p clocks⟩
  | status p clocks => exact ⟨_, rfl, h.runOther (fun _ _ => rfl) _ p clocks⟩
  | reset t => exact ⟨_, rfl, State.resetAt_linksSound (s.moment t) true⟩
  | resetEnd t =>
    refine ⟨_, rfl, ?_⟩
    split
    · exact State.resetAt_linksSound (s.moment t) false
    · exact h.advance t

/-- Settles O5: the row at the front of the queue keeps the receivers of a safe run, and with an empty queue the part
idles. -/
theorem stepsKeepLinksSound : Obligations.StepsKeepLinksSound := by
  intro s t h hstep
  cases hq : s.pending with
  | nil =>
    simp only [step, hq] at hstep
    cases hstep
    exact h
  | cons i rest =>
    simp only [step, hq] at hstep
    obtain ⟨u, hu, sound⟩ := State.LinksSound.exec (s := { s with pending := rest }) h i
    rw [hstep] at hu
    cases hu
    exact sound

end Sys2Proof.Machine
end

section
/-! All that a departure from LOCKED does outside the receiver (R13, R24, R28, R137). -/

namespace Sys2Proof.Machine

/-- R13: LINK_CHANGE at every port and the FAULT request, before the timebase is told. -/
theorem State.raiseAll_requestFault (s : State) (k : EventKind) (label : List Byte) :
    (s.raiseAll k).requestFault label = { s with cues := s.cuesAsked s.cues label, ports := s.portsRaised k } := by
  rw [State.requestFault_cuesAsked]
  rfl

/-- R28: entry to HOLDOVER from LOCKED at tick `t`, the last edge and the absence start being set already. -/
theorem State.enterHoldover_locked {s : State} (h : s.timebase.clock = .locked) (t : Nat) :
    s.enterHoldover t = { s with
      cues := s.cuesAsked s.cues clockHoldLabel
      timebase := { s.timebase with
        clock := .holdover, goodCount := 0, edgesDue := []
        nextOscillator := max (s.timebase.lastSample + s.timebase.nominal) t }
      ports := s.portsRaised .clockChange } := by
  simp only [State.enterHoldover, State.toClock_change (s := s) (c := .holdover) (by simp [h]),
    State.requestFault_cuesAsked]
  rfl

/-- R13: the departure of a link that is not the reference. -/
theorem State.announceDeparture_other {s : State} {l : LinkId} (h : s.timebase.reference ≠ .link l) (t : Nat) :
    s.announceDeparture l t =
      { s with cues := s.cuesAsked s.cues (linkLostLabel l), ports := s.portsRaised .linkChange } := by
  simp only [State.announceDeparture, State.raiseAll_requestFault, State.referenceLinkLost, if_neg h]

/-- R13, R24: the part when the departure of the reference link `l` at tick `t` has been told and its absence begins. -/
def State.toldAbsent (s : State) (l : LinkId) (t : Nat) : State :=
  { s with
    cues := s.cuesAsked s.cues (linkLostLabel l)
    timebase := { s.timebase with lastEdge := none, absenceStart := t }
    ports := s.portsRaised .linkChange }

/-- R13, R24: the departure of the reference link is an absence. -/
theorem State.announceDeparture_reference {s : State} {l : LinkId} (h : s.timebase.reference = .link l) (t : Nat) :
    s.announceDeparture l t = (s.toldAbsent l t).badPeriod t := by
  simp only [State.announceDeparture, State.raiseAll_requestFault, State.referenceLinkLost, if_pos h, State.takeAbsence]
  rfl

/-- R24: an absence in FREE and HOLDOVER. -/
theorem State.announceDeparture_idle {s : State} {l : LinkId} (h : s.timebase.reference = .link l)
    (hc : s.timebase.clock = .free ∨ s.timebase.clock = .holdover) (t : Nat) :
    s.announceDeparture l t = { s with
      cues := s.cuesAsked s.cues (linkLostLabel l)
      timebase := { s.timebase with lastEdge := none, absenceStart := t }
      ports := s.portsRaised .linkChange } := by
  rw [State.announceDeparture_reference h, State.badPeriod_idle (s := s.toldAbsent l t) hc]
  rfl

/-- R24, R26: an absence in ACQUIRE. -/
theorem State.announceDeparture_acquire {s : State} {l : LinkId} (h : s.timebase.reference = .link l)
    (hc : s.timebase.clock = .acquire) (t : Nat) :
    s.announceDeparture l t = { s with
      cues := s.cuesAsked s.cues (linkLostLabel l)
      timebase := { s.timebase with lastEdge := none, absenceStart := t, goodCount := 0 }
      ports := s.portsRaised .linkChange } := by
  rw [State.announceDeparture_reference h, State.badPeriod_acquire (s := s.toldAbsent l t) hc]
  rfl

/-- R24, R28: an absence in LOCKED. -/
theorem State.announceDeparture_locked {s : State} {l : LinkId} (h : s.timebase.reference = .link l)
    (hc : s.timebase.clock = .locked) (t : Nat) :
    s.announceDeparture l t = { s with
      cues := s.cuesAsked (s.cuesAsked s.cues (linkLostLabel l)) clockHoldLabel
      timebase := { s.timebase with
        lastEdge := none, absenceStart := t, clock := .holdover, goodCount := 0, edgesDue := []
        nextOscillator := max (s.timebase.lastSample + s.timebase.nominal) t }
      ports := PerPort.of fun p => ((s.port p).raise .linkChange).raise .clockChange } := by
  rw [State.announceDeparture_reference h, State.badPeriod_locked (s := s.toldAbsent l t) hc,
    State.enterHoldover_locked (s := s.toldAbsent l t) hc]
  rfl

/-- R13: a departure leaves every receiver as it stands. -/
@[simp] theorem State.link_announceDeparture (s : State) (l m : LinkId) (t : Nat) :
    (s.announceDeparture l t).link m = s.link m := by
  unfold State.link
  rw [(State.announceDeparture_frame s l t).1]

/-- R13: what a departure does outside the receiver does not depend on the receivers. -/
theorem State.announceDeparture_setLink (s : State) (l m : LinkId) (r : LinkRx) (t : Nat) :
    (s.announceDeparture l t).setLink m r = (s.setLink m r).announceDeparture l t := by
  have h' : (s.setLink m r).timebase = s.timebase := rfl
  by_cases h : s.timebase.reference = .link l
  · cases hc : s.timebase.clock with
    | free =>
      rw [State.announceDeparture_idle h (.inl hc), State.announceDeparture_idle (by rwa [h']) (.inl (by rwa [h']))]
      rfl
    | holdover =>
      rw [State.announceDeparture_idle h (.inr hc), State.announceDeparture_idle (by rwa [h']) (.inr (by rwa [h']))]
      rfl
    | acquire =>
      rw [State.announceDeparture_acquire h hc, State.announceDeparture_acquire (by rwa [h']) (by rwa [h'])]
      rfl
    | locked =>
      rw [State.announceDeparture_locked h hc, State.announceDeparture_locked (by rwa [h']) (by rwa [h'])]
      rfl
  · rw [State.announceDeparture_other h, State.announceDeparture_other (by rwa [h'])]
    rfl

/-! ### The edge timeout and what a departure does -/

/-- Settles O26: the timeout by the lock state it meets, the departure by the reference and the timebase state. -/
theorem edgeTimeoutIsTaken : Obligations.EdgeTimeoutIsTaken := by
  refine ⟨fun l t s hrun hen hto => ⟨fun hdue => ?_, fun hlt => ?_⟩, fun s l t => ?_⟩
  · have come : ((s.advance t).link l).timeoutBy? (s.advance t).now =
        some ((s.link l).quietSince + (s.link l).settings.timeout + 1) :=
      LinkRx.timeoutBy?_eq_some.2 ⟨hen, hto, rfl, hdue⟩
    have row : exec (.edgeTimeout l t) s =
        .next ((s.advance t).takeTimeout l ((s.link l).quietSince + (s.link l).settings.timeout + 1)) := by
      simp only [exec, execEdgeTimeout, State.eventAt_running hrun, State.silence_some come]
    refine ⟨fun hl => ?_, fun hl => ?_, fun hl => ?_⟩
    · rw [row, State.takeTimeout_hunt (s := s.advance t) hl]; rfl
    · rw [row, State.takeTimeout_sync (s := s.advance t) hl]; rfl
    · rw [row, State.takeTimeout_locked (s := s.advance t) hl]; rfl
  · have none_come : ((s.advance t).link l).timeoutBy? (s.advance t).now = none := LinkRx.timeoutBy?_none_of_lt hlt
    simp only [exec, execEdgeTimeout, State.eventAt_running hrun, State.silence_none none_come]
    rfl
  · simp only []
    split
    · next h =>
      split
      · next hc => exact State.announceDeparture_locked h hc t
      · next hc => exact State.announceDeparture_acquire h hc t
      · next hc => exact State.announceDeparture_idle h (.inl hc) t
      · next hc => exact State.announceDeparture_idle h (.inr hc) t
    · next h => exact State.announceDeparture_other h t

end Sys2Proof.Machine
end

section
/-! Transitions on a line (R1 to R3, R9, R10, R19): the classes of a pulse under accepted settings, and the row
LINE_TRANSITION by what the link was doing. -/

namespace Sys2Proof.Machine

/-! ### Classes (R1, R19) -/

/-- R1: the SHORT window is looked at first. -/
theorem classOf_eq_short_iff (w : Nat) (k : LinkSettings) :
    classOf w k = .short ↔ k.shortLo ≤ w ∧ w ≤ k.shortHi := by
  unfold classOf
  split_ifs <;> simp_all

section
variable {k : LinkSettings} (h : k.accepted = true) (w : Nat)
include h

/-- R19: the SHORT window lies below the LONG window. -/
theorem classOf_eq_long_iff : classOf w k = .long ↔ k.longLo ≤ w ∧ w ≤ k.longHi := by
  rw [LinkSettings.accepted_iff] at h
  unfold classOf
  split_ifs <;> simp <;> omega

/-- R19: the SHORT and LONG windows lie below the MARK window. -/
theorem classOf_eq_mark_iff : classOf w k = .mark ↔ k.markLo ≤ w ∧ w ≤ k.markHi := by
  rw [LinkSettings.accepted_iff] at h
  unfold classOf
  split_ifs <;> simp <;> omega

/-- R2, R19: a width within the filter lies below every window. -/
theorem classOf_of_le_filter {w : Nat} (hw : w ≤ k.filter) : classOf w k = .violation := by
  rw [LinkSettings.accepted_iff] at h
  rw [classOf, if_neg (by omega), if_neg (by omega), if_neg (by omega)]

/-- R3, R19: a width of the timeout lies above every window. -/
theorem classOf_timeout : classOf k.timeout k = .violation := by
  rw [LinkSettings.accepted_iff] at h
  rw [classOf, if_neg (by omega), if_neg (by omega), if_neg (by omega)]

end

/-! ### Transitions -/

/-- R1, log 1: outside RESET the row is the transition at the moment reached. -/
theorem exec_lineTransition {s : State} (h : s.resetHeld = false) (l : LinkId) (t : Nat) :
    exec (.lineTransition l t) s = .next ((s.advance t).transition l (max s.now t)) := by
  simp only [exec, execLineTransition, State.eventAt_running h, State.advance_now_eq]

section
variable {s : State} {l : LinkId} {m t : Nat} (hm : (s.link l).measuredFrom = some m) (ht : m < t)
  (hw : (s.link l).settings.filter < t - m + (s.link l).carry)
include hm ht hw

/-- R1, R10: a pulse on a link in HUNT. -/
theorem State.measure_hunt (hl : (s.link l).lock = .hunt) : s.measure l t = s.setLink l
    (if classOf (t - m + (s.link l).carry) (s.link l).settings = .mark then
      { (s.link l).seen t with
        carry := 0, lock := .sync, goodRun := 0, phase := .markTail, markDue := false
        frame := some PartialFrame.start }
    else { (s.link l).seen t with carry := 0 }) := by
  have hl' : ((s.setLink l { (s.link l).seen t with carry := 0 }).link l).lock = .hunt := by
    simpa [LinkRx.seen] using hl
  rw [State.measure_pulse hm ht hw]
  split
  · next hc => rw [hc, State.takePulse_hunt_mark hl', State.setLink_setLink, State.link_setLink_self]
  · next hc => rw [State.takePulse_hunt_other hl' hc]

/-- R1: a pulse on a link in SYNC or LOCKED. -/
theorem State.measure_assembles (hl : (s.link l).lock = .sync ∨ (s.link l).lock = .locked) :
    s.measure l t =
      let c := classOf (t - m + (s.link l).carry) (s.link l).settings
      (s.setLink l { (s.link l).seen t with
        carry := 0
        counters := if c = .violation then (s.link l).counters.addViolation else (s.link l).counters }).assemble l c
          (t - (t - m + (s.link l).carry)) t := by
  rw [State.measure_pulse hm ht hw, State.takePulse_assembles (by simpa [LinkRx.seen] using hl),
    State.countViolation_eq, State.setLink_setLink, State.link_setLink_self]
  rfl

end

section
variable {s : State} {l : LinkId} {due t : Nat} (he : (s.link l).enabled = true)
  (hcome : (s.link l).timeoutBy? t = some due)
include he hcome

/-- R3, log 8: a timeout come in HUNT, and the transition after it. -/
theorem State.transition_timeout_hunt (hl : (s.link l).lock = .hunt) :
    s.transition l t = s.setLink l ((s.link l).silenced.seen t) := by
  rw [State.transition_afterTimeout he hcome, State.takeTimeout_hunt hl,
    State.measure_first (by simp [LinkRx.silenced]), State.setLink_setLink, State.link_setLink_self]

/-- R3, R11, log 8: a timeout come in SYNC, and the transition after it. -/
theorem State.transition_timeout_sync (hl : (s.link l).lock = .sync) :
    s.transition l t = s.setLink l { (s.link l).silenced.seen t with lock := .hunt, goodRun := 0 } := by
  rw [State.transition_afterTimeout he hcome, State.takeTimeout_sync hl,
    State.measure_first (by simp [LinkRx.silenced]), State.setLink_setLink, State.link_setLink_self]
  rfl

/-- R3, R13, log 8: a timeout come in LOCKED: the departure at its own moment, and the transition after it. -/
theorem State.transition_timeout_locked (hl : (s.link l).lock = .locked) :
    s.transition l t =
      (s.setLink l (((s.link l).silenced.depart .hunt).seen t)).announceDeparture l due := by
  rw [State.transition_afterTimeout he hcome, State.takeTimeout_locked hl,
    State.measure_first (by simp [LinkRx.silenced, LinkRx.depart, LinkRx.resetAssembler]),
    State.announceDeparture_setLink, State.setLink_setLink, State.link_announceDeparture, State.link_setLink_self]

end

/-- Settles O22: the classes by the order of the windows, a transition by the link's measurement and lock state. -/
theorem lineTransitionsAreMeasured : Obligations.LineTransitionsAreMeasured := by
  refine ⟨fun k w h => ⟨classOf_eq_short_iff w k, classOf_eq_long_iff h w, classOf_eq_mark_iff h w,
    classOf_of_le_filter h, classOf_timeout h⟩, fun l t s hrun => ⟨fun he => ?_, fun he hnone => ?_, ?_⟩⟩
  · rw [exec_lineTransition hrun, State.transition_disabled (s := s.advance t) he]
    rfl
  · have measured : exec (.lineTransition l t) s = .next ((s.advance t).measure l (max s.now t)) := by
      rw [exec_lineTransition hrun, State.transition_measures (s := s.advance t) he hnone]
    refine ⟨fun hm => ?_, fun m hm ht => ⟨fun hw => ?_, fun hw hl => ?_, fun hw hl => ?_⟩⟩
    · rw [measured, State.measure_first (s := s.advance t) hm]
      rfl
    · rw [measured, State.measure_glitch (s := s.advance t) hm ht hw]
      rfl
    · rw [measured, State.measure_hunt (s := s.advance t) hm ht hw hl]
      rfl
    · rw [measured, State.measure_assembles (s := s.advance t) hm ht hw hl]
      rfl
  · rintro due rfl hle he hto
    have come : ((s.advance t).link l).timeoutBy? (max s.now t) =
        some ((s.link l).quietSince + (s.link l).settings.timeout + 1) :=
      LinkRx.timeoutBy?_eq_some.2 ⟨he, hto, rfl, hle⟩
    refine ⟨fun hl => ?_, fun hl => ?_, fun hl => ?_⟩
    · rw [exec_lineTransition hrun, State.transition_timeout_hunt (s := s.advance t) he come hl]
      rfl
    · rw [exec_lineTransition hrun, State.transition_timeout_sync (s := s.advance t) he come hl]
      rfl
    · rw [exec_lineTransition hrun, State.transition_timeout_locked (s := s.advance t) he come hl]
      rfl

end Sys2Proof.Machine
end

section
/-! The assembler of a link in SYNC or LOCKED (R4 to R7, R11 to R13), and the mark times it gives to the timebase (R23,
R27). -/

namespace Sys2Proof.Machine

/-! ### Mark times (R23, R27) -/

/-- R23: a mark time of a link that is not the reference. -/
theorem State.markTime_other {s : State} {l : LinkId} (h : s.timebase.reference ≠ .link l) (e : Nat) :
    s.markTime l e = s := by
  simp only [State.markTime, if_neg h]

/-- R23: without a last reference edge a mark time starts measurement. -/
theorem State.markTime_first {s : State} {l : LinkId} (h : s.timebase.reference = .link l)
    (hd : s.timebase.lastEdge = none) (e : Nat) :
    s.markTime l e = { s with timebase := { s.timebase with lastEdge := some e, absenceStart := e } } := by
  have judged : s.judgeEdge e = s := by simp only [State.judgeEdge, hd]
  simp only [State.markTime, if_pos h, State.referenceEdge_eq (Timebase.lateBy?_none_of_noEdge hd e), judged]

/-- R24, R27: a mark time that ends a good period in LOCKED is a sample-period event. -/
theorem State.markTime_good {s : State} {l : LinkId} {d e : Nat} (h : s.timebase.reference = .link l)
    (hd : s.timebase.lastEdge = some d) (hc : s.timebase.clock = .locked) (hlo : s.timebase.nominal - 16 ≤ e - d)
    (hhi : e < d + s.timebase.nominal + 17) :
    s.markTime l e = { s with timebase := { s.timebase with
      lastEdge := some e, absenceStart := e, edgesDue := s.timebase.edgesDue ++ [e] } } := by
  have judged : s.judgeEdge e = s.edgeIsSample e := by
    simp only [State.judgeEdge, hd, if_neg (Nat.not_lt.2 hlo), State.goodPeriod, hc]
  simp only [State.markTime, if_pos h, State.referenceEdge_eq (Timebase.lateBy?_none_of_lt hd hhi), judged]
  rfl

/-! ### Which pulses make a bad frame (R7) -/

/-- R7: a pulse of class `c` ends the frame of receiver `r` as a bad one, or is a MARK where none is due. -/
def LinkRx.spoiltBy (r : LinkRx) (c : PulseClass) : Prop :=
  (c ≠ .mark ∧ r.phase = .waitMark ∧ r.markDue = true) ∨
  ((c = .long ∨ c = .violation) ∧ r.phase = .markTail) ∨
  (c = .violation ∧ r.phase = .cells) ∨
  (c = .long ∧ r.phase = .cells ∧ ∃ f, r.frame = some f ∧ f.halfOne = true) ∨
  (c = .mark ∧ r.phase ≠ .waitMark)

/-- R7: such a pulse, unless it is a MARK, is the bad frame alone. -/
theorem State.assemble_spoilt {s : State} {l : LinkId} {c : PulseClass} (h : (s.link l).spoiltBy c) (hc : c ≠ .mark)
    (start t : Nat) : s.assemble l c start t = s.badFrame l t := by
  obtain ⟨-, hp, hd⟩ | ⟨hcl, hp⟩ | ⟨rfl, hp⟩ | ⟨rfl, hp, f, hf, hh⟩ | ⟨hm, -⟩ := h
  · exact State.assemble_markMissing _ _ hc hp hd
  · exact State.assemble_markTail_bad _ _ hcl hp
  · exact State.assemble_cells_violation _ _ hp
  · exact State.assemble_cells_broken _ _ hp hf hh
  · exact absurd hm hc

/-- R7: a MARK among such pulses comes where none is due. -/
theorem State.assemble_spoilt_mark {s : State} {l : LinkId} (h : (s.link l).spoiltBy .mark) (start t : Nat) :
    s.assemble l .mark start t = s.unexpectedMark l start t := by
  have hp : (s.link l).phase ≠ .waitMark := by simpa [LinkRx.spoiltBy] using h
  exact State.assemble_unexpectedMark _ _ hp

/-- R7, R11 to R13: where no new frame can follow, such a pulse is the bad frame alone, a MARK too. -/
theorem State.assemble_spoilt_ends {s : State} {l : LinkId} {c : PulseClass} (h : (s.link l).spoiltBy c)
    (hl : (s.link l).lock = .sync ∨ ((s.link l).lock = .locked ∧ 2 ≤ (s.link l).badRun)) (start t : Nat) :
    s.assemble l c start t = s.badFrame l t := by
  by_cases hc : c = .mark
  · subst hc
    rw [State.assemble_spoilt_mark h]
    obtain hs | ⟨hk, hr⟩ := hl
    · exact State.unexpectedMark_sync hs start t
    · exact State.unexpectedMark_departs hk hr start t
  · exact State.assemble_spoilt h hc start t

/-- Settles O23: the mark times, then each pulse by phase, then the bad frames by lock state and run. -/
theorem assemblerFollowsThePulses : Obligations.AssemblerFollowsThePulses := by
  refine ⟨fun s l e => ⟨fun h => State.markTime_other h e, fun h hd => State.markTime_first h hd e,
    fun d h hd hc hlo hhi => State.markTime_good h hd hc hlo hhi⟩, fun s l start t hl => ?_⟩
  refine ⟨fun hp => ⟨fun hk => ?_, fun hk => ?_⟩,
    fun c hc hp hd => State.assemble_waitMark_other start t hc hp hd,
    fun hp => State.assemble_markTail_short start t hp,
    fun f hp hf => ⟨fun hh => State.assemble_cells_open start t hp hf hh, fun hh hlen => ?_, fun hh hlen => ?_,
      fun hh hlen => ?_, fun hh hlen => ?_⟩,
    fun c (hbad : (s.link l).spoiltBy c) => ⟨fun hk => ?_, fun hk hr hc => ?_, fun hk hr hc => ?_, fun hk hr => ?_⟩⟩
  · rw [State.assemble_waitMark_mark start t hp, State.beginFrame_unlocked (by simp [hk])]
    rfl
  · rw [State.assemble_waitMark_mark start t hp, State.beginFrame_locked hk]
    rfl
  · rw [State.assemble_cells_one start t hp hf hh, State.completeCell_joins hlen]
  · rw [State.assemble_cells_one start t hp hf hh, State.completeCell_last hlen]
  · rw [State.assemble_cells_zero start t hp hf hh, State.completeCell_last hlen]
  · rw [State.assemble_cells_zero start t hp hf hh, State.completeCell_joins hlen]
  · rw [State.assemble_spoilt_ends hbad (.inl hk), State.badFrame_sync hk]
    rfl
  · rw [State.assemble_spoilt hbad hc, State.badFrame_locked hk hr]
    rfl
  · subst hc
    rw [State.assemble_spoilt_mark hbad, State.unexpectedMark_locked hk hr, State.badFrame_locked hk hr,
      State.beginFrame_locked (by simpa using hk), State.setLink_setLink, State.link_setLink_self]
    rfl
  · rw [State.assemble_spoilt_ends hbad (.inr ⟨hk, hr⟩), State.badFrame_departs hk hr]
    rfl

end Sys2Proof.Machine
end

section
/-! Slots and frames (R6 to R8, R11, R12, R15, R16, R160): the fields of a slot are read where they are sent, and what the last
cell of a slot does. -/

namespace Sys2Proof.Machine

/-! ### The fields of a slot (R160) -/

/-- R160: the receiver reads the fields of a slot as they were sent. -/
theorem slotEntryOf_slotCells (e : SlotEntry) (tag : Nat) : slotEntryOf (slotCells e tag) e.parityFailed = e := by
  obtain ⟨hv, ho⟩ := getD_slotCells e tag
  simp only [slotEntryOf, take_slotCells, sample_of_cells, hv, ho]

/-- R160: the receiver reads the tag of a slot as it was sent. -/
theorem slotTag_slotCells (e : SlotEntry) {tag : Nat} (h : tag < 16) : slotTag (slotCells e tag) = tag := by
  rw [slotTag, drop_slotCells, List.take_of_length_le (by simp), numberOfBits_bitsOf_of_lt h]

theorem length_slotCells (e : SlotEntry) (tag : Nat) : (slotCells e tag).length = 30 := by
  simp [slotCells]

/-- R6: parity fails when the number of 1 cells is odd. -/
theorem parityFails_iff (cells : List Bool) : parityFails cells = true ↔ (cells.filter id).length % 2 = 1 := by
  rw [parityFails, count_true_eq, decide_eq_true_eq]

theorem slotTag_lt (cells : List Bool) : slotTag cells < 16 :=
  calc slotTag cells < 2 ^ ((cells.drop 26).take 4).length := numberOfBits_lt _
    _ ≤ 2 ^ 4 := Nat.pow_le_pow_right (by decide) (List.length_take_le 4 _)

/-- Bits read as a word of their number and written again are those bits. -/
theorem bitsOf_ofNat_numberOfBits {w : Nat} {bs : List Bool} (h : bs.length = w) :
    bitsOf w (BitVec.ofNat w (numberOfBits bs)).toNat = bs := by
  have hlt := numberOfBits_lt bs
  rw [h] at hlt
  rw [BitVec.toNat_ofNat, Nat.mod_eq_of_lt hlt, ← h, bitsOf_numberOfBits]

/-- R160: any thirty cells are the slot of the fields read from them. -/
theorem slotCells_slotEntryOf {cells : List Bool} (h : cells.length = 30) (parityFailed : Bool) :
    slotCells (slotEntryOf cells parityFailed) (slotTag cells) = cells := by
  have sample : bitsOf 24 (slotEntryOf cells parityFailed).sample.toNat = cells.take 24 :=
    bitsOf_ofNat_numberOfBits (by simp [h])
  have tagBits : bitsOf 4 (slotTag cells) = cells.drop 26 := by
    have hlen : (cells.drop 26).length = 4 := by simp [h]
    rw [slotTag, List.take_of_length_le (by omega)]
    exact hlen ▸ bitsOf_numberOfBits (cells.drop 26)
  have flags : [cells.getD 24 false, cells.getD 25 false] ++ cells.drop 26 = cells.drop 24 := by
    rw [List.drop_eq_getElem_cons (i := 24) (by omega), List.drop_eq_getElem_cons (i := 25) (by omega)]
    simp [List.getD_eq_getElem?_getD, h]
  calc slotCells (slotEntryOf cells parityFailed) (slotTag cells)
      = cells.take 24 ++ ([cells.getD 24 false, cells.getD 25 false] ++ cells.drop 26) := by
        rw [slotCells, sample, tagBits, List.append_assoc]
        rfl
    _ = cells := by rw [flags, List.take_append_drop]

/-! ### The last cell of a slot (R6, R8) -/

section
variable (s : State) (l : LinkId) {f : PartialFrame} {cells : List Bool} (t : Nat)

/-- R6, R7: a slot with another tag than its place is counted and ends the frame as a bad one. -/
theorem State.completeSlot_mismatch (h : slotTag cells ≠ f.slots.length) :
    s.completeSlot l f cells t = (s.setLink l { s.link l with
      counters := (s.link l).counters.addSlot (parityFails cells) true }).badFrame l t := by
  simp [State.completeSlot, h]

/-- R6: a slot before the sixteenth joins the frame. -/
theorem State.completeSlot_joins (h : slotTag cells = f.slots.length) (hn : f.slots.length < 15) :
    s.completeSlot l f cells t = s.setLink l { s.link l with
      frame := some ⟨f.slots ++ [slotEntryOf cells (parityFails cells)], [], false⟩
      counters := (s.link l).counters.addSlot (parityFails cells) false } := by
  simp [State.completeSlot, h, show f.slots.length + 1 < 16 by omega]

/-- R8: the sixteenth slot makes a good frame. -/
theorem State.completeSlot_sixteenth (h : slotTag cells = f.slots.length) (hn : f.slots.length = 15) :
    s.completeSlot l f cells t = (s.setLink l { s.link l with
      counters := (s.link l).counters.addSlot (parityFails cells) false }).goodFrame l
        (f.slots ++ [slotEntryOf cells (parityFails cells)]) := by
  simp [State.completeSlot, h, hn]

end

/-! ### A good frame in LOCKED (R15, R16) -/

/-- R14, R15: below the full level the frame joins the FIFO. -/
theorem LinkRx.arrive_below {r : LinkRx} (h : r.fifo.length < 8) (f : LinkFrame) :
    r.arrive f = { r with
      fifo := r.fifo ++ [f], ready := r.ready || decide (r.fifo.length = 3) } := by
  simp [LinkRx.arrive, LinkRx.arrivalDrops, show ¬ 8 ≤ r.fifo.length by omega]

/-- R16: at the full level the oldest frame is dropped and counted. -/
theorem LinkRx.arrive_full {r : LinkRx} (h : r.fifo.length = 8) (f : LinkFrame) :
    r.arrive f = { r with fifo := r.fifo.tail ++ [f], counters := r.counters.addSlipDrop } := by
  simp [LinkRx.arrive, LinkRx.arrivalDrops, h]

/-- R12, R15: a good frame in LOCKED that finds room. -/
theorem State.goodFrame_locked_below {s : State} {l : LinkId} (hl : (s.link l).lock = .locked)
    (h : (s.link l).fifo.length < 8) (f : LinkFrame) :
    s.goodFrame l f = s.setLink l { s.link l with
      fifo := (s.link l).fifo ++ [f]
      ready := (s.link l).ready || decide ((s.link l).fifo.length = 3)
      badRun := 0, phase := .waitMark, markDue := true, frame := none } := by
  simp only [State.goodFrame_locked hl, if_neg (Nat.not_le.2 h)]
  rw [LinkRx.arrive_below (r := (s.link l).afterGoodFrame) h]
  rfl

/-- R12, R16: a good frame in LOCKED at a full FIFO, reported as a slip. -/
theorem State.goodFrame_locked_full {s : State} {l : LinkId} (hl : (s.link l).lock = .locked)
    (h : (s.link l).fifo.length = 8) (f : LinkFrame) :
    s.goodFrame l f = (s.setLink l { s.link l with
      fifo := (s.link l).fifo.tail ++ [f]
      badRun := 0, phase := .waitMark, markDue := true, frame := none
      counters := (s.link l).counters.addSlipDrop }).reportSlip l := by
  simp only [State.goodFrame_locked hl, if_pos (Nat.le_of_eq h.symm)]
  rw [LinkRx.arrive_full (r := (s.link l).afterGoodFrame) h]
  rfl

/-- Settles O24: the fields of a slot, then its last cell by tag, place, lock state and the room in the FIFO. -/
theorem slotsMakeFrames : Obligations.SlotsMakeFrames := by
  refine ⟨fun e tag h => ⟨length_slotCells e tag, slotEntryOf_slotCells e tag, slotTag_slotCells e h,
      parityFails_iff _⟩,
    fun cells h => ⟨slotEntryOf cells (parityFails cells), slotTag cells, slotTag_lt cells,
      (slotCells_slotEntryOf h _).symm, rfl⟩, fun s l f e tag t htag _ hparity => ?_⟩
  have tagRead : slotTag (slotCells e tag) = tag := slotTag_slotCells e htag
  have entryRead : slotEntryOf (slotCells e tag) e.parityFailed = e := slotEntryOf_slotCells e tag
  have sixteenth := fun (h : tag = f.slots.length) (h15 : tag = 15) =>
    State.completeSlot_sixteenth s l (cells := slotCells e tag) t (tagRead.trans h) (h ▸ h15)
  rw [← hparity, entryRead] at sixteenth
  refine ⟨fun hne => ?_, fun heq hlt => ?_, fun heq h15 hl hroom => ?_, fun heq h15 hl hfull => ?_,
    fun heq h15 hl hrun => ?_, fun heq h15 hl hrun => ?_⟩
  · have mismatch := State.completeSlot_mismatch s l (cells := slotCells e tag) t (by rwa [tagRead])
    rw [← hparity] at mismatch
    refine ⟨mismatch, fun hl => ?_, fun hl hr => ?_, fun hl hr => ?_⟩
    · rw [mismatch, State.badFrame_sync (by simpa using hl), State.setLink_setLink, State.link_setLink_self]
      rfl
    · rw [mismatch, State.badFrame_locked (by simpa using hl) (by simpa using hr), State.setLink_setLink,
        State.link_setLink_self]
      rfl
    · rw [mismatch, State.badFrame_departs (by simpa using hl) (by simpa using hr), State.setLink_setLink,
        State.link_setLink_self]
      rfl
  · rw [State.completeSlot_joins s l t (tagRead.trans heq) (heq ▸ hlt), ← hparity, entryRead]
    rfl
  · rw [sixteenth heq h15, State.goodFrame_locked_below (by simpa using hl) (by simpa using hroom),
      State.setLink_setLink, State.link_setLink_self]
    rfl
  · rw [sixteenth heq h15, State.goodFrame_locked_full (by simpa using hl) (by simpa using hfull),
      State.setLink_setLink, State.link_setLink_self]
    rfl
  · rw [sixteenth heq h15, State.goodFrame_sync (by simpa using hl), if_pos (by simpa using Nat.succ_lt_succ hrun),
      State.setLink_setLink, State.link_setLink_self]
    rfl
  · rw [sixteenth heq h15, State.goodFrame_sync (by simpa using hl), if_neg (by simp [hrun]),
      State.setLink_setLink, State.link_setLink_self]
    rfl

end Sys2Proof.Machine
end

section
/-! The elastic FIFO (R14 to R17) and the SLIP marks of the framer (R52). -/

namespace Sys2Proof.Machine

/-! ### SLIP marks (R52) -/

/-- The entry of a table made by `mapEntries`. -/
theorem getElem_mapEntries {α β : Type} {n : Nat} (f : Nat → α → β) (v : Vector α n) (i : Fin n) :
    (mapEntries f v)[i] = f i v[i] := by
  simp [mapEntries]

/-- R52: SLIP is set on the enabled tracks of the link, and no other mark is changed. -/
theorem getElem_slipMarks (map : Vector TrackEntry 64) (l : LinkId) (marks : Vector TrackMarks 64) (x : Fin 64) :
    (slipMarks map l marks)[x] =
      if map[x].enabled = true ∧ map[x].link = l then { marks[x] with slip := true } else marks[x] := by
  rw [slipMarks, getElem_mapEntries]
  simp

/-- R52: a slip reported while a block is gathered. -/
theorem State.reportSlip_gathering {s : State} {i : BufferId} (h : s.take.gathering = true)
    (hi : s.framer.filling? = some i) (l : LinkId) :
    s.reportSlip l = { s with framer := s.framer.setBuffer i { s.framer.buffer i with
      marks := slipMarks s.framer.map l (s.framer.buffer i).marks } } := by
  simp [State.reportSlip, h, hi, State.setBuffer]

/-! ### Requests (R17) -/

/-- R17, R52: the framer's request, reported when it is a slip repeat. -/
theorem State.askLink_eq (s : State) (l : LinkId) :
    s.askLink l = if (s.link l).ready = true ∧ (s.link l).fifo = [] then
      (s.setLink l (s.link l).request.1).reportSlip l else s.setLink l (s.link l).request.1 := by
  simp only [State.askLink, LinkRx.requestRepeats, Bool.and_eq_true, List.isEmpty_iff]

/-- R17: a link that is not ready gives no frame. -/
theorem LinkRx.request_notReady {r : LinkRx} (h : r.ready = false) : r.request = (r, none) := by
  simp [LinkRx.request, h]

/-- R17: a ready link gives its oldest frame. -/
theorem LinkRx.request_oldest {r : LinkRx} {g : LinkFrame} {rest : List LinkFrame} (h : r.ready = true)
    (hf : r.fifo = g :: rest) : r.request = ({ r with fifo := rest, lastFrame := some g }, some g) := by
  simp [LinkRx.request, h, hf]

/-- R17: a ready link with an empty FIFO repeats its last frame. -/
theorem LinkRx.request_repeats {r : LinkRx} (h : r.ready = true) (hf : r.fifo = []) :
    r.request = ({ r with counters := r.counters.addSlipRepeat }, r.lastFrame) := by
  simp [LinkRx.request, h, hf]

/-! ### Arrivals (R14 to R16) -/

/-- R15, R16: an arrival adds a frame up to level 8. -/
theorem LinkRx.length_arrive_fifo (r : LinkRx) (f : LinkFrame) :
    (r.arrive f).fifo.length = min (r.fifo.length + 1) (max 8 r.fifo.length) := by
  rw [LinkRx.arrive_fifo]
  split <;> simp <;> omega

/-- R15: an arrival is the newest frame. -/
theorem LinkRx.getLast?_arrive_fifo (r : LinkRx) (f : LinkFrame) : (r.arrive f).fifo.getLast? = some f := by
  rw [LinkRx.arrive_fifo, List.getLast?_concat]

/-- R14: a link stays ready, and becomes ready when its level first reaches 4. -/
theorem LinkRx.arrive_ready (r : LinkRx) (f : LinkFrame) :
    (r.arrive f).ready = (r.ready || decide ((r.arrive f).fifo.length = 4)) := rfl

/-- Settles O25: what is reported, then arrivals by level and requests by readiness and level. -/
theorem elasticFifo : Obligations.ElasticFifo := by
  refine ⟨fun s l => ⟨State.askLink_eq s l, fun h => State.reportSlip_none h l, fun i h hi =>
    ⟨_, State.reportSlip_gathering h hi l, getElem_slipMarks s.framer.map l (s.framer.buffer i).marks⟩⟩, fun r f => ?_⟩
  refine ⟨⟨r.length_arrive_fifo f, r.getLast?_arrive_fifo f, fun h => ?_, fun h => ?_, fun h => ?_, fun h => ?_,
    fun h => ?_⟩, LinkRx.request_notReady, fun h g rest hf => LinkRx.request_oldest h hf,
    fun h hf => LinkRx.request_repeats h hf⟩
  · rw [LinkRx.arrive_below h]
    exact ⟨rfl, rfl⟩
  · rw [LinkRx.arrive_full h]
    exact ⟨rfl, rfl⟩
  · rw [LinkRx.arrive_ready, h, Bool.true_or]
  · simp [LinkRx.arrive_below (show r.fifo.length < 8 by omega), h]
  · simp [LinkRx.arrive_below (show r.fifo.length < 8 by omega), show r.fifo.length ≠ 3 by omega]

end Sys2Proof.Machine
end

section
/-! The link commands (R9, R13, R19 to R22): LINK_SETUP and LINK_RESTART by what they find, LINK_STATUS and LINK_COUNTERS by
what they answer. -/

namespace Sys2Proof.Machine

/-! ### Answers at the port of a command -/

/-- R146, R149: a refusal changes nothing but the port of its command. -/
theorem State.refuse_setPort (s : State) (p : Port) (e : PortState) (st : Status) :
    (s.setPort p e).answer p (.refuse st) = { s with ports := s.portsAfter p (e.holds st []) id } := by
  rw [State.answer_refuse, State.port_setPort_self, State.setPort_setPort, State.setPort_eq_portsAfter]

/-- R146, R149: an answer of status OK alone changes nothing but the port of its command. -/
theorem State.ok_setPort (s : State) (p : Port) (e : PortState) (data : List Byte) :
    (s.setPort p e).answer p (.ok data) = { s with ports := s.portsAfter p (e.holds .ok data) id } := by
  rw [State.answer_ok, State.port_setPort_self, State.setPort_setPort, State.setPort_eq_portsAfter]

/-- The receivers and the ports are written apart. -/
theorem State.setPort_setLink (s : State) (p : Port) (e : PortState) (l : LinkId) (r : LinkRx) :
    (s.setPort p e).setLink l r = (s.setLink l r).setPort p e := rfl

/-! ### LINK_STATUS and LINK_COUNTERS (R21, R22) -/

theorem flagByte_toNat (b : Bool) : (flagByte b).toNat = b.toNat := by cases b <;> rfl

/-- 00 §4: a number below 256 as one byte. -/
theorem map_toNat_bytesOf_one {n : Nat} (h : n < 256) : (bytesOf 1 n).map BitVec.toNat = [n] := by
  simp [bytesOf, Nat.mod_eq_of_lt h]

/-- R21: in a safe run every item of LINK_STATUS fits its byte. -/
theorem LinkRx.Sound.linkStatusData_toNat {r : LinkRx} (h : r.Sound) :
    (linkStatusData r).map BitVec.toNat = [r.enabled.toNat, lockCode r.lock, r.ready.toNat, r.fifo.length, r.goodRun,
      r.badRun, r.settings.shortLo, r.settings.shortHi, r.settings.longLo, r.settings.longHi, r.settings.markLo,
      r.settings.markHi, r.settings.filter, r.settings.timeout] := by
  have hk := (LinkSettings.accepted_iff _).1 h.settings
  have hcode : lockCode r.lock < 256 := by cases r.lock <;> decide
  have hfifo := h.fifo
  have hgood := h.goodRun
  have hbad := h.badRun
  simp (disch := omega) only [linkStatusData, settingsBytes, List.flatMap_cons, List.flatMap_nil, List.map_append,
    List.map_cons, List.map_nil, flagByte_toNat, map_toNat_bytesOf_one]
  rfl

/-- R146: LINK_STATUS in hand is taken by its rule. -/
theorem exec_linkStatus {s : State} {p : Port} {clocks : List Lanes} {e : PortState} {lb : Byte}
    (h : s.commandAt p clocks .linkStatus [lb] e) :
    exec (.linkStatus p clocks) s =
      .next ((linkStatusRule [lb] (s.setPort p e)).1.answer p (linkStatusRule [lb] (s.setPort p e)).2) :=
  congrArg _ (State.runCommand_of_commandAt h rfl (by simp) linkStatusRule)

/-- R146: LINK_COUNTERS in hand is taken by its rule. -/
theorem exec_linkCounters {s : State} {p : Port} {clocks : List Lanes} {e : PortState} {lb cb : Byte}
    (h : s.commandAt p clocks .linkCounters [lb, cb] e) :
    exec (.linkCounters p clocks) s =
      .next ((linkCountersRule [lb, cb] (s.setPort p e)).1.answer p (linkCountersRule [lb, cb] (s.setPort p e)).2) :=
  congrArg _ (State.runCommand_of_commandAt h rfl (by simp) linkCountersRule)

/-- R22: LINK_COUNTERS refuses a link that is none and a clear code that is none. -/
theorem linkCountersRule_range {lb cb : Byte} (h : 3 < lb.toNat ∨ 1 < cb.toNat) (u : State) :
    linkCountersRule [lb, cb] u = (u, .refuse .range) := by
  rcases h with h | h
  · simp only [linkCountersRule, link?_eq_none h]
  · simp only [linkCountersRule, flag?_eq_none h]
    cases link? lb <;> rfl

/-- R22: the counters as they stand, zeroed when asked. -/
theorem linkCountersRule_ok {lb cb : Byte} {l : LinkId} {clear : Bool} (hl : lb.toNat = linkNumber l)
    (hc : flag? cb = some clear) (u : State) :
    linkCountersRule [lb, cb] u =
      (if clear then u.setLink l { u.link l with counters := LinkCounters.zero } else u,
        .ok (countersData (u.link l).counters)) := by
  simp only [linkCountersRule, link?_eq_some hl, hc]

/-- Settles O28: each command by whether its codes name a link (and a clear code). -/
theorem linkReadings : Obligations.LinkReadings := by
  refine ⟨fun s p clocks e lb h => ⟨fun hr => ?_, fun l hl => ⟨linkStatusData (s.link l), ?_,
    fun hs => hs.linkStatusData_toNat⟩⟩, fun s p clocks e lb cb h => ⟨fun hr => ?_, fun l hl hc => ?_⟩⟩
  · rw [exec_linkStatus h]
    simp only [linkStatusRule, link?_eq_none hr, State.refuse_setPort]
  · rw [exec_linkStatus h]
    simp only [linkStatusRule, link?_eq_some hl, State.ok_setPort, State.setPort_link]
  · rw [exec_linkCounters h, linkCountersRule_range hr, State.refuse_setPort]
  · rw [exec_linkCounters h]
    rcases byte_of_toNat_le_one hc with rfl | rfl
    · rw [linkCountersRule_ok hl flag?_zero]
      simp only [Bool.false_eq_true, if_false, State.ok_setPort, State.setPort_link]
      rfl
    · rw [linkCountersRule_ok hl flag?_one]
      simp only [if_true, State.setPort_setLink, State.ok_setPort, State.setPort_link]
      rfl

end Sys2Proof.Machine
end

section
/-! LINK_SETUP and LINK_RESTART (R9, R13, R19, R20): an equation for each row of R19's table, and the two commands by what
they find. -/

namespace Sys2Proof.Machine

/-- R146, log 1: the part as a command is taken at tick `t` from port `p`, which stands at `e`. -/
def State.taking (s : State) (t : Nat) (p : Port) (e : PortState) : State := (s.advance t).setPort p e

@[simp] theorem State.taking_link (s : State) (t : Nat) (p : Port) (e : PortState) (l : LinkId) :
    (s.taking t p e).link l = s.link l := rfl

/-- R146, R149: a refusal changes nothing but the time and the port of its command. -/
theorem State.refuse_taking (s : State) (t : Nat) (p : Port) (e : PortState) (st : Status) :
    (s.taking t p e).answer p (.refuse st) =
      { s with now := max s.now t, ports := s.portsAfter p (e.holds st []) id } :=
  State.refuse_setPort (s.advance t) p e st

/-! ### Restarting and disabling a link (R9, R13, R20) -/

/-- R20: a restart outside LOCKED clears the receiver. -/
theorem State.restartLink_unlocked {s : State} {l : LinkId} (h : (s.link l).lock ≠ .locked) (t : Nat) :
    s.restartLink l t = s.setLink l ((s.link l).cleared .hunt) := by
  simp only [State.restartLink, if_neg h]

/-- R13, R20: a restart in LOCKED is a departure too. -/
theorem State.restartLink_locked {s : State} {l : LinkId} (h : (s.link l).lock = .locked) (t : Nat) :
    s.restartLink l t = (s.setLink l (((s.link l).depart .hunt).cleared .hunt)).announceDeparture l t := by
  simp only [State.restartLink, if_pos h]

/-- R9: disabling outside LOCKED clears the receiver. -/
theorem State.disableLink_unlocked {s : State} {l : LinkId} (h : (s.link l).lock ≠ .locked) (t : Nat) :
    s.disableLink l t = s.setLink l { (s.link l).cleared .disabled with enabled := false } := by
  simp only [State.disableLink, if_neg h]

/-- R9, R13: disabling in LOCKED is a departure too. -/
theorem State.disableLink_locked {s : State} {l : LinkId} (h : (s.link l).lock = .locked) (t : Nat) :
    s.disableLink l t = (s.setLink l
      { ((s.link l).depart .disabled).cleared .disabled with enabled := false }).announceDeparture l t := by
  simp only [State.disableLink, if_pos h]

/-! ### The table of LINK_SETUP (R19) -/

section
variable {s : State} {l : LinkId} (k : LinkSettings) (t : Nat)

/-- R19: a disabled link stays disabled, with the settings stored. -/
theorem State.setupLink_staysDisabled (he : (s.link l).enabled = false) :
    s.setupLink l false k t = s.setLink l { s.link l with settings := k } := by
  simp [State.setupLink, he]

/-- R9, R19: a disabled link is enabled. -/
theorem State.setupLink_enables (he : (s.link l).enabled = false) :
    s.setupLink l true k t = s.setLink l
      { LinkRx.cleared { s.link l with settings := k } .hunt with enabled := true, quietSince := t } := by
  simp [State.setupLink, he]

/-- R19: an enabled link given its own settings stays as it is. -/
theorem State.setupLink_unchanged (he : (s.link l).enabled = true) (hk : k = (s.link l).settings) :
    s.setupLink l true k t = s := by
  subst hk
  simp only [State.setupLink, if_pos he, ↓reduceIte]
  exact State.setLink_link s l

/-- R19, R20: an enabled link given other settings is restarted with them. -/
theorem State.setupLink_restarts (he : (s.link l).enabled = true) (hk : k ≠ (s.link l).settings) :
    s.setupLink l true k t = (s.setLink l { s.link l with settings := k }).restartLink l t := by
  simp [State.setupLink, he, hk]

/-- R9, R19: an enabled link is disabled, with the settings stored. -/
theorem State.setupLink_disables (he : (s.link l).enabled = true) :
    s.setupLink l false k t = (s.setLink l { s.link l with settings := k }).disableLink l t := by
  simp [State.setupLink, he]

end

/-! ### LINK_SETUP -/

/-- R19: the settings LINK_SETUP refuses, condition by condition. -/
def LinkSettings.Refused (k : LinkSettings) : Prop :=
  (k.shortLo = 0 ∨ k.shortHi = 0 ∨ k.longLo = 0 ∨ k.longHi = 0 ∨ k.markLo = 0 ∨ k.markHi = 0) ∨
  (k.shortHi < k.shortLo ∨ k.longHi < k.longLo ∨ k.markHi < k.markLo) ∨
  (k.longLo ≤ k.shortHi ∨ k.markLo ≤ k.longHi) ∨
  (3 < k.filter ∨ k.shortLo ≤ k.filter) ∨
  (k.timeout < 16 ∨ 255 < k.timeout ∨ k.timeout ≤ k.markHi)

/-- R19: what LINK_SETUP does not refuse it accepts. -/
theorem LinkSettings.accepted_iff_not_refused (k : LinkSettings) : k.accepted = true ↔ ¬ k.Refused := by
  rw [LinkSettings.accepted_iff, LinkSettings.Refused]
  omega

section
variable {s : State} {p : Port} {clocks : List Lanes} {e : PortState} {lb eb a b c d g h f o : Byte}

/-- R146, log 1: LINK_SETUP in hand is taken by its rule, at the moment reached. -/
theorem exec_linkSetup (hc : s.commandAt p clocks .linkSetup [lb, eb, a, b, c, d, g, h, f, o] e) (t : Nat) :
    exec (.linkSetup p clocks t) s =
      let out := linkSetupRule [lb, eb, a, b, c, d, g, h, f, o] (s.taking t p e)
      .next (out.1.answer p out.2) :=
  congrArg _ (State.runCommand_of_commandAt (State.commandAt_advance hc t) rfl (by simp) linkSetupRule)

/-- R19: LINK_SETUP refuses a link or an enable code that is none, and settings that fail a condition. -/
theorem linkSetupRule_range (hr : 3 < lb.toNat ∨ 1 < eb.toNat ∨
      LinkSettings.Refused ⟨a.toNat, b.toNat, c.toNat, d.toNat, g.toNat, h.toNat, f.toNat, o.toNat⟩) (u : State) :
    linkSetupRule [lb, eb, a, b, c, d, g, h, f, o] u = (u, .refuse .range) := by
  rcases hr with hl | he | hk
  · simp only [linkSetupRule, link?_eq_none hl]
  · simp only [linkSetupRule, flag?_eq_none he]
    cases link? lb <;> rfl
  · have hk' := mt (LinkSettings.accepted_iff_not_refused _).1 (not_not.2 hk)
    simp only [linkSetupRule, if_neg hk']
    split <;> rfl

/-- R19: LINK_SETUP accepted. -/
theorem linkSetupRule_ok {l : LinkId} {on : Bool} (hl : lb.toNat = linkNumber l) (he : flag? eb = some on)
    (hk : ¬ LinkSettings.Refused ⟨a.toNat, b.toNat, c.toNat, d.toNat, g.toNat, h.toNat, f.toNat, o.toNat⟩) (u : State) :
    linkSetupRule [lb, eb, a, b, c, d, g, h, f, o] u =
      (u.setupLink l on ⟨a.toNat, b.toNat, c.toNat, d.toNat, g.toNat, h.toNat, f.toNat, o.toNat⟩ u.now, .ok []) := by
  simp only [linkSetupRule, link?_eq_some hl, he, if_pos ((LinkSettings.accepted_iff_not_refused _).2 hk)]

end

/-! ### LINK_RESTART -/

/-- R146, log 1: LINK_RESTART in hand is taken by its rule, at the moment reached. -/
theorem exec_linkRestart {s : State} {p : Port} {clocks : List Lanes} {e : PortState} {lb : Byte}
    (h : s.commandAt p clocks .linkRestart [lb] e) (t : Nat) :
    exec (.linkRestart p clocks t) s =
      let out := linkRestartRule [lb] (s.taking t p e)
      .next (out.1.answer p out.2) :=
  congrArg _ (State.runCommand_of_commandAt (State.commandAt_advance h t) rfl (by simp) linkRestartRule)

/-- R20: LINK_RESTART is refused on a DISABLED link. -/
theorem linkRestartRule_state {lb : Byte} {l : LinkId} (hl : lb.toNat = linkNumber l) {u : State}
    (hd : (u.link l).lock = .disabled) : linkRestartRule [lb] u = (u, .refuse .state) := by
  simp only [linkRestartRule, link?_eq_some hl, if_pos hd]

/-- R20: LINK_RESTART accepted. -/
theorem linkRestartRule_ok {lb : Byte} {l : LinkId} (hl : lb.toNat = linkNumber l) {u : State}
    (hd : (u.link l).lock ≠ .disabled) : linkRestartRule [lb] u = (u.restartLink l u.now, .ok []) := by
  simp only [linkRestartRule, link?_eq_some hl, if_neg hd]

/-- Settles O27: LINK_SETUP by what it refuses and the rows of R19's table, LINK_RESTART by the lock state. -/
theorem linkSetupAndRestart : Obligations.LinkSetupAndRestart := by
  refine ⟨fun s p clocks t e lb eb a b c d g h f o hc => ⟨fun hr => ?_, fun l hl hk => ?_⟩,
    fun s p clocks t e lb hc => ⟨fun hr => ?_, fun l hl => ⟨fun hd => ?_, fun hu => ?_, fun hd => ?_⟩⟩⟩
  · rw [exec_linkSetup hc, linkSetupRule_range hr]
    exact congrArg _ (State.refuse_taking s t p e _)
  · have off := fun he0 : eb = 0 => (exec_linkSetup hc t).trans (by rw [he0, linkSetupRule_ok hl flag?_zero hk])
    have on := fun he1 : eb = 1 => (exec_linkSetup hc t).trans (by rw [he1, linkSetupRule_ok hl flag?_one hk])
    refine ⟨fun he h0 => ?_, fun he h1 => ?_, fun he h1 hs => ?_, fun he h1 hs hn => ?_, fun he h1 hs hlk => ?_,
      fun he h0 hn => ?_, fun he h0 hlk => ?_⟩
    · rw [off h0, State.setupLink_staysDisabled (s := s.taking t p e) _ _ he]
      rfl
    · rw [on h1, State.setupLink_enables (s := s.taking t p e) _ _ he]
      rfl
    · rw [on h1, State.setupLink_unchanged (s := s.taking t p e) _ _ he hs]
      rfl
    · rw [on h1, State.setupLink_restarts (s := s.taking t p e) _ _ he hs,
        State.restartLink_unlocked (by simpa using hn), State.setLink_setLink, State.link_setLink_self]
      rfl
    · rw [on h1, State.setupLink_restarts (s := s.taking t p e) _ _ he hs,
        State.restartLink_locked (by simpa using hlk), State.setLink_setLink, State.link_setLink_self]
      rfl
    · rw [off h0, State.setupLink_disables (s := s.taking t p e) _ _ he,
        State.disableLink_unlocked (by simpa using hn), State.setLink_setLink, State.link_setLink_self]
      rfl
    · rw [off h0, State.setupLink_disables (s := s.taking t p e) _ _ he,
        State.disableLink_locked (by simpa using hlk), State.setLink_setLink, State.link_setLink_self]
      rfl
  · rw [exec_linkRestart hc]
    simp only [linkRestartRule, link?_eq_none hr, State.refuse_taking]
  · rw [exec_linkRestart hc, linkRestartRule_state (u := s.taking t p e) hl hd]
    exact congrArg _ (State.refuse_taking s t p e _)
  · have hd : (s.link l).lock ≠ .disabled ∧ (s.link l).lock ≠ .locked := by rcases hu with hu | hu <;> simp [hu]
    rw [exec_linkRestart hc, linkRestartRule_ok (u := s.taking t p e) hl hd.1,
      State.restartLink_unlocked (s := s.taking t p e) hd.2]
    exact congrArg _ (State.ok_setPort ((s.advance t).setLink l ((s.link l).cleared .hunt)) p e [])
  · rw [exec_linkRestart hc, linkRestartRule_ok (u := s.taking t p e) hl (by simp [hd]),
      State.restartLink_locked (s := s.taking t p e) hd]
    rfl

end Sys2Proof.Machine
end

section
/-! The commands of the table, each with its rule (09 §9.4): one law for every row that is a command, and what a command in
hand does by what its rule answers. -/

namespace Sys2Proof.Machine

/-! ### Rows and rules -/

/-- 10 §10.5: the rule of each command from port `p`. -/
def Command.rule : Command → Port → List Byte → State → State × Answer
  | .linkSetup, _ => linkSetupRule
  | .linkStatus, _ => linkStatusRule
  | .linkCounters, _ => linkCountersRule
  | .linkRestart, _ => linkRestartRule
  | .clockSetup, _ => clockSetupRule
  | .arm, _ => armRule
  | .disarm, _ => disarmRule
  | .roll, _ => rollRule
  | .close, _ => closeRule
  | .abort, _ => abortRule
  | .trackMapSet, p => trackMapSetRule p
  | .trackMapGet, _ => trackMapGetRule
  | .gainSet, _ => gainSetRule
  | .gainApply, p => gainApplyRule p
  | .gainDiscard, p => gainDiscardRule p
  | .gainGet, _ => gainGetRule
  | .archiveSetup, p => archiveSetupRule p
  | .archiveGet, _ => archiveGetRule
  | .streamSetup, p => streamSetupRule p
  | .streamGet, _ => streamGetRule
  | .storeSetup, p => storeSetupRule p
  | .subscribe, p => subscribeRule p
  | .unsubscribe, p => unsubscribeRule p
  | .next, p => nextRule p
  | .release, p => releaseRule p
  | .feedStatus, p => feedStatusRule p
  | .cueAdd, p => cueAddRule p
  | .cueDelete, p => cueDeleteRule p
  | .cueList, _ => cueListRule
  | .portMode, p => portModeRule p
  | .events, p => eventsRule p
  | .eventMask, p => eventMaskRule p
  | .status, p => statusRule p

/-- Log 1: the present moment is reached already. -/
@[simp] theorem State.advance_self (s : State) : s.advance s.now = s := by
  simp only [State.advance, Nat.max_self]

/-- Log 1: a moment is the later of the present one and a step's tick. -/
@[simp] theorem State.advance_moment (s : State) (t : Nat) : s.advance (s.moment t) = s.advance t := by
  simp only [State.advance, State.moment, ← Nat.max_assoc, Nat.max_self]

/-- R146: every command row takes the frame of its command by the command's rule, at its moment. -/
theorem exec_command {i : Instr} {p : Port} {clocks : List Lanes} {c : Command} (h : commandRow? i = some (p, clocks, c))
    (s : State) : exec i s = .next ((s.advance (commandMoment i s)).runCommand c (c.rule p) p clocks) := by
  cases i <;> cases h <;> simp only [commandMoment, State.advance_self, State.advance_moment] <;> rfl

/-! ### A command in hand -/

section
variable {i : Instr} {s u : State} {p : Port} {clocks : List Lanes} {c : Command} {ps : List Byte} {e : PortState}
  {a : Answer} {st : Status} (row : commandRow? i = some (p, clocks, c)) (h : s.commandAt p clocks c ps e)
  (hl : requiredLength c ps = some ps.length) (h250 : ps.length ≤ 250)
include row h hl h250

/-- R146: a command in hand is answered as its rule says. -/
theorem exec_answers (rule : c.rule p ps ((s.advance (commandMoment i s)).setPort p e) = (u, a)) :
    exec i s = .next (u.answer p a) := by
  rw [exec_command row, State.runCommand_of_commandAt (State.commandAt_advance h _) hl h250, rule]

/-- R146: a command in hand that carries no tick is answered as its rule says. -/
theorem exec_answersNow (now : commandMoment i s = s.now) (rule : c.rule p ps (s.setPort p e) = (u, a)) :
    exec i s = .next (u.answer p a) :=
  exec_answers row h hl h250 (by rw [now, State.advance_self, rule])

/-- R146, R149: a command in hand that its rule refuses changes nothing but its port. -/
theorem exec_refuses (now : commandMoment i s = s.now) (rule : c.rule p ps (s.setPort p e) = (s.setPort p e, .refuse st)) :
    exec i s = .next { s with ports := s.portsAfter p (e.holds st []) id } := by
  rw [exec_answersNow row h hl h250 now rule, State.refuse_setPort]

/-- R146, R149: a command in hand whose rule only reads changes nothing but its port. -/
theorem exec_reads {data : List Byte} (now : commandMoment i s = s.now)
    (rule : c.rule p ps (s.setPort p e) = (s.setPort p e, .ok data)) :
    exec i s = .next { s with ports := s.portsAfter p (e.holds .ok data) id } := by
  rw [exec_answersNow row h hl h250 now rule, State.ok_setPort]

end

end Sys2Proof.Machine
end

section
/-! The timebase in a safe run (02 §2.1, R24 to R31): each operation of the timebase and of a receiver keeps `Timebase.Sound`
and leaves the performance position. -/

namespace Sys2Proof.Machine

/-! ### Changes of the timebase -/

/-- 02 §2.1: the timebase of a safe run with edges and moments noted, which no condition reads. -/
theorem Timebase.Sound.withMoments {tb : Timebase} (h : tb.Sound) (edge : Option Nat) (absence last next : Nat) :
    Timebase.Sound { tb with lastEdge := edge, absenceStart := absence, lastSample := last, nextOscillator := next } :=
  ⟨h.position, h.goodCount, h.counting, h.free, h.due, h.period⟩

/-- R26: the good-period count may be lost in any state. -/
theorem Timebase.Sound.uncounted {tb : Timebase} (h : tb.Sound) : Timebase.Sound { tb with goodCount := 0 } :=
  ⟨h.position, Nat.zero_le _, fun hn => absurd rfl hn, h.free, h.due, h.period⟩

/-- R26: a good period counted in ACQUIRE, short of lock. -/
theorem Timebase.Sound.counted {tb : Timebase} (h : tb.Sound) (hc : tb.clock = .acquire) {n : Nat} (hn : n ≤ 63) :
    Timebase.Sound { tb with goodCount := n } :=
  ⟨h.position, hn, fun _ => hc, h.free, h.due, h.period⟩

/-- R28: from one state with a reference to another that is not LOCKED, no edge being due. -/
theorem Timebase.Sound.unlocked {tb : Timebase} (h : tb.Sound) (hf : tb.clock ≠ .free) {c : ClockState} (hc : c ≠ .free)
    {n : Nat} (hn : n ≤ 63) (hn0 : n ≠ 0 → c = .acquire) (next : Nat) :
    Timebase.Sound { tb with clock := c, goodCount := n, edgesDue := [], nextOscillator := next } :=
  ⟨h.position, hn, hn0, by simpa [hc] using mt h.free.2 hf, fun _ => rfl, h.period⟩

/-- R27: in LOCKED any edges may be due. -/
theorem Timebase.Sound.lockedWith {tb : Timebase} (h : tb.Sound) (hf : tb.clock ≠ .free) (due : List Nat) :
    Timebase.Sound { tb with clock := .locked, goodCount := 0, edgesDue := due } :=
  ⟨h.position, Nat.zero_le _, fun hn => absurd rfl hn, by simpa using mt h.free.2 hf, fun hn => absurd rfl hn, h.period⟩

/-! ### Steps that keep the timebase -/

/-- `u` has the timebase of a safe run if `s` has, and the same performance position. -/
structure State.KeepsTimebase (s u : State) : Prop where
  sound : s.timebase.Sound → u.timebase.Sound
  position : u.timebase.position = s.timebase.position

theorem State.KeepsTimebase.of_eq {s u : State} (h : u.timebase = s.timebase) : s.KeepsTimebase u :=
  ⟨fun hs => h ▸ hs, by rw [h]⟩

theorem State.KeepsTimebase.refl (s : State) : s.KeepsTimebase s := .of_eq rfl

theorem State.KeepsTimebase.trans {s u v : State} (h : s.KeepsTimebase u) (h' : u.KeepsTimebase v) : s.KeepsTimebase v :=
  ⟨fun hs => h'.sound (h.sound hs), h'.position.trans h.position⟩

/-- A step that keeps the timebase, after a change of other blocks alone. -/
theorem State.KeepsTimebase.afterSame {s u v : State} (h : u.KeepsTimebase v) (e : u.timebase = s.timebase) :
    s.KeepsTimebase v := (State.KeepsTimebase.of_eq e).trans h

/-- R28: entry to HOLDOVER from a state with a reference. -/
theorem State.KeepsTimebase.enterHoldover {s : State} (h : s.timebase.clock = .locked) (t : Nat) :
    s.KeepsTimebase (s.enterHoldover t) := by
  rw [State.enterHoldover_locked h]
  exact ⟨fun hs => hs.unlocked (by simp [h]) (by simp) (Nat.zero_le _) (fun hn => absurd rfl hn) _, rfl⟩

/-- R24, R26, R27: a bad period. -/
theorem State.KeepsTimebase.badPeriod (s : State) (t : Nat) : s.KeepsTimebase (s.badPeriod t) := by
  cases hc : s.timebase.clock with
  | free => rw [State.badPeriod_idle (.inl hc)]; exact .refl s
  | holdover => rw [State.badPeriod_idle (.inr hc)]; exact .refl s
  | acquire => rw [State.badPeriod_acquire hc]; exact ⟨fun hs => hs.uncounted, rfl⟩
  | locked => rw [State.badPeriod_locked hc]; exact .enterHoldover hc t

/-- R27: entry to LOCKED: the clock, and the entering edge where it is a sample-period event. -/
theorem State.enterLocked_timebase (s : State) (e : Nat) :
    (s.enterLocked e).timebase = { s.timebase with
      clock := .locked, goodCount := 0
      edgesDue := if s.timebase.nominal / 2 ≤ e - s.timebase.lastSample then s.timebase.edgesDue ++ [e]
        else s.timebase.edgesDue } := by
  simp only [State.enterLocked, State.edgeIsSample, State.toClock_eq]
  split <;> rfl

/-- R24 to R28: a good period. -/
theorem State.KeepsTimebase.goodPeriod (s : State) (e : Nat) : s.KeepsTimebase (s.goodPeriod e) := by
  unfold State.goodPeriod
  split
  · next hc =>
    split
    · next hlt => exact ⟨fun hs => hs.counted hc (by omega), rfl⟩
    · have tb := State.enterLocked_timebase s e
      exact ⟨fun hs => tb ▸ hs.lockedWith (by simp [hc]) _, by rw [tb]⟩
  · next hc =>
    refine ⟨fun hs => ?_, rfl⟩
    have locked := hs.lockedWith (by simp [hc]) (s.timebase.edgesDue ++ [e])
    exact ⟨locked.position, hs.goodCount, hs.counting, hs.free, fun hn => absurd hc hn, hs.period⟩
  · next hc =>
    simp only [State.toClock_eq]
    refine ⟨fun hs => ?_, rfl⟩
    have due := hs.due (by simp [hc])
    have acquired := hs.unlocked (c := .acquire) (n := 1) (by simp [hc]) (by simp) (by simp) (fun _ => rfl)
      s.timebase.nextOscillator
    rwa [← due] at acquired
  · exact .refl s

/-- R24: the last edge and the absence start noted. -/
theorem State.KeepsTimebase.noted (s : State) (edge : Option Nat) (absence : Nat) :
    s.KeepsTimebase { s with timebase := { s.timebase with lastEdge := edge, absenceStart := absence } } :=
  ⟨fun hs => hs.withMoments edge absence s.timebase.lastSample s.timebase.nextOscillator, rfl⟩

/-- R24: a late period. -/
theorem State.KeepsTimebase.takeLate (s : State) (t : Nat) : s.KeepsTimebase (s.takeLate t) :=
  (State.KeepsTimebase.noted s none s.timebase.absenceStart).trans (.badPeriod _ t)

/-- R24: an absence. -/
theorem State.KeepsTimebase.takeAbsence (s : State) (t : Nat) : s.KeepsTimebase (s.takeAbsence t) :=
  (State.KeepsTimebase.noted s none t).trans (.badPeriod _ t)

/-- R24: the period that an edge ends. -/
theorem State.KeepsTimebase.judgeEdge (s : State) (e : Nat) : s.KeepsTimebase (s.judgeEdge e) := by
  unfold State.judgeEdge
  split
  · exact .refl s
  · split
    · exact .badPeriod s e
    · exact .goodPeriod s e

/-- R23: a reference edge. -/
theorem State.KeepsTimebase.referenceEdge (s : State) (e : Nat) : s.KeepsTimebase (s.referenceEdge e) := by
  have judged : ∀ u : State, s.KeepsTimebase u → s.KeepsTimebase { u.judgeEdge e with
      timebase := { (u.judgeEdge e).timebase with lastEdge := some e, absenceStart := e } } :=
    fun u hu => (hu.trans (.judgeEdge u e)).trans (.noted _ _ _)
  unfold State.referenceEdge
  split
  · exact judged _ (.takeLate s _)
  · exact judged _ (.refl s)

/-- R23: a mark time. -/
theorem State.KeepsTimebase.markTime (s : State) (l : LinkId) (e : Nat) : s.KeepsTimebase (s.markTime l e) := by
  unfold State.markTime
  split
  · exact .referenceEdge s e
  · exact .refl s

/-! ### The receivers -/

/-- R13, R24: a departure from LOCKED told to the timebase. -/
theorem State.KeepsTimebase.announceDeparture (s : State) (l : LinkId) (t : Nat) :
    s.KeepsTimebase (s.announceDeparture l t) := by
  by_cases h : s.timebase.reference = .link l
  · rw [State.announceDeparture_reference h]
    exact (State.KeepsTimebase.noted s none t).trans (.afterSame (.badPeriod _ t) rfl)
  · rw [State.announceDeparture_other h]
    exact .of_eq rfl

theorem State.KeepsTimebase.departLink (s : State) (l : LinkId) (target : LockState) (t : Nat) :
    s.KeepsTimebase (s.departLink l target t) := by
  rw [State.departLink_eq]
  exact .afterSame (.announceDeparture _ l t) rfl

/-- R7: a bad frame. -/
theorem State.KeepsTimebase.badFrame (s : State) (l : LinkId) (t : Nat) : s.KeepsTimebase (s.badFrame l t) := by
  unfold State.badFrame
  simp only []
  split
  · exact .of_eq rfl
  · split
    · exact .of_eq rfl
    · exact .afterSame (.departLink _ l _ t) rfl
  · exact .refl s
  · exact .refl s

/-- R4: the beginning of a frame. -/
theorem State.KeepsTimebase.beginFrame (s : State) (l : LinkId) (start : Nat) : s.KeepsTimebase (s.beginFrame l start) := by
  unfold State.beginFrame
  simp only []
  split
  · exact .afterSame (.markTime _ l start) rfl
  · exact .of_eq rfl

/-- R7: a MARK where none is due. -/
theorem State.KeepsTimebase.unexpectedMark (s : State) (l : LinkId) (start t : Nat) :
    s.KeepsTimebase (s.unexpectedMark l start t) := by
  unfold State.unexpectedMark
  simp only []
  split
  · exact (State.KeepsTimebase.badFrame s l t).trans (.beginFrame _ l start)
  · exact .badFrame s l t

/-- R6, R8: the last cell of a slot. -/
theorem State.KeepsTimebase.completeSlot (s : State) (l : LinkId) (f : PartialFrame) (cells : List Bool) (t : Nat) :
    s.KeepsTimebase (s.completeSlot l f cells t) := by
  unfold State.completeSlot
  simp only []
  split
  · exact .afterSame (.badFrame _ l t) rfl
  · split
    · exact .of_eq rfl
    · exact .of_eq (by simp)

/-- R5, R6: a completed cell. -/
theorem State.KeepsTimebase.completeCell (s : State) (l : LinkId) (f : PartialFrame) (cell : Bool) (t : Nat) :
    s.KeepsTimebase (s.completeCell l f cell t) := by
  unfold State.completeCell
  simp only []
  split
  · exact .of_eq rfl
  · exact .completeSlot s l f _ t

/-- R4, R5, R7: a pulse taken by the assembler. -/
theorem State.KeepsTimebase.assemble (s : State) (l : LinkId) (c : PulseClass) (start t : Nat) :
    s.KeepsTimebase (s.assemble l c start t) := by
  have missing : s.KeepsTimebase (if (s.link l).markDue then s.badFrame l t else s) := by
    split
    · exact .badFrame s l t
    · exact .refl s
  unfold State.assemble
  simp only []
  split
  · cases c with
    | mark => exact .beginFrame s l start
    | short => exact missing
    | long => exact missing
    | violation => exact missing
  · cases c with
    | mark => exact .unexpectedMark s l start t
    | short => exact .of_eq rfl
    | long => exact .badFrame s l t
    | violation => exact .badFrame s l t
  · cases c with
    | mark => exact .unexpectedMark s l start t
    | violation => exact .badFrame s l t
    | short =>
      simp only []
      split
      · exact .completeCell s l _ true t
      · exact .of_eq rfl
    | long =>
      simp only []
      split
      · exact .badFrame s l t
      · exact .completeCell s l _ false t

/-- R1, R10: a classified pulse. -/
theorem State.KeepsTimebase.takePulse (s : State) (l : LinkId) (c : PulseClass) (start t : Nat) :
    s.KeepsTimebase (s.takePulse l c start t) := by
  have counted : s.KeepsTimebase ((s.countViolation l c).assemble l c start t) :=
    State.KeepsTimebase.afterSame (.assemble _ l c start t) (by simp)
  unfold State.takePulse
  simp only []
  split
  · exact .refl s
  · split
    · exact .of_eq rfl
    all_goals exact .refl s
  · exact counted
  · exact counted

/-- R3: the edge timeout. -/
theorem State.KeepsTimebase.takeTimeout (s : State) (l : LinkId) (t : Nat) : s.KeepsTimebase (s.takeTimeout l t) := by
  cases hl : (s.link l).lock with
  | hunt => rw [State.takeTimeout_hunt hl]; exact .of_eq rfl
  | disabled => rw [State.takeTimeout_disabled hl]; exact .of_eq rfl
  | sync => rw [State.takeTimeout_sync hl]; exact .of_eq rfl
  | locked =>
    rw [State.takeTimeout_locked hl]
    exact .afterSame (.announceDeparture _ l t) rfl

theorem State.KeepsTimebase.silence (s : State) (l : LinkId) : s.KeepsTimebase (s.silence l) := by
  unfold State.silence
  split
  · exact .takeTimeout s l _
  · exact .refl s

/-- R1, R2: the measurement of a transition. -/
theorem State.KeepsTimebase.measure (s : State) (l : LinkId) (t : Nat) : s.KeepsTimebase (s.measure l t) := by
  unfold State.measure
  simp only []
  split
  · exact .of_eq rfl
  · split
    · exact .refl s
    · split
      · exact .of_eq rfl
      · exact .afterSame (.takePulse _ l _ _ t) rfl

/-- R1: a transition. -/
theorem State.KeepsTimebase.transition (s : State) (l : LinkId) (t : Nat) : s.KeepsTimebase (s.transition l t) := by
  unfold State.transition
  split
  · split
    · exact (State.KeepsTimebase.takeTimeout s l _).trans (.measure _ l t)
    · exact .measure s l t
  · exact .refl s

/-- R20: a restart. -/
theorem State.KeepsTimebase.restartLink (s : State) (l : LinkId) (t : Nat) : s.KeepsTimebase (s.restartLink l t) := by
  unfold State.restartLink
  simp only []
  split
  · exact .afterSame (.announceDeparture _ l t) rfl
  · exact .of_eq rfl

/-- R9: a link disabled. -/
theorem State.KeepsTimebase.disableLink (s : State) (l : LinkId) (t : Nat) : s.KeepsTimebase (s.disableLink l t) := by
  unfold State.disableLink
  simp only []
  split
  · exact .afterSame (.announceDeparture _ l t) rfl
  · exact .of_eq rfl

/-- R19: the effect of LINK_SETUP. -/
theorem State.KeepsTimebase.setupLink (s : State) (l : LinkId) (enable : Bool) (k : LinkSettings) (t : Nat) :
    s.KeepsTimebase (s.setupLink l enable k t) := by
  unfold State.setupLink
  simp only []
  split
  · split
    · split
      · exact .of_eq rfl
      · exact .afterSame (.restartLink _ l t) rfl
    · exact .afterSame (.disableLink _ l t) rfl
  · split <;> exact .of_eq rfl

/-! ### CLOCK_SETUP (R29) -/

/-- R154: an event raised twice is raised once. -/
@[simp] theorem PortState.raise_raise (q : PortState) (k : EventKind) : (q.raise k).raise k = q.raise k := by
  simp only [PortState.raise, PortState.withEvents, BitVec.or_assoc, BitVec.or_self]

theorem State.portsRaised_twice (s : State) (k : EventKind) :
    State.portsRaised { s with ports := s.portsRaised k } k = s.portsRaised k := by
  simp only [State.portsRaised, State.port, PerPort.get_of, PortState.raise_raise]

/-- R29: the timebase state that a CLOCK_SETUP with this reference leaves. -/
def ClockState.afterSetup (c : ClockState) (ref : Reference) : ClockState :=
  if ref = .none then .free
  else
    match c with
    | .free => .acquire
    | .locked => .holdover
    | .acquire => .acquire
    | .holdover => .holdover

/-- R29: the state is FREE after a CLOCK_SETUP exactly where the reference is NONE. -/
theorem ClockState.afterSetup_free (c : ClockState) (ref : Reference) : c.afterSetup ref = .free ↔ ref = .none := by
  by_cases h : ref = .none
  · simp [ClockState.afterSetup, h]
  · cases c <;> simp [ClockState.afterSetup, h]

/-- R29: the part with the settings of an accepted CLOCK_SETUP stored at tick `t`, before any change of timebase state. -/
def State.clockStored (s : State) (ref : Reference) (rate : SessionRate) (t : Nat) : State :=
  { s with
    timebase := { s.timebase with reference := ref, rate := rate, lastEdge := none, absenceStart := t }
    mix := { s.mix with
      applyMark := if rate = s.timebase.rate then s.mix.applyMark
        else s.mix.applyMark.map fun _ => boundaryAfter (blockLengthOf rate) s.timebase.position } }

/-- R29: the settings in force already have no effect. -/
theorem State.setClock_same {s : State} {ref : Reference} {rate : SessionRate}
    (h : ref = s.timebase.reference ∧ rate = s.timebase.rate) (t : Nat) : s.setClock ref rate t = s := by
  simp only [State.setClock, if_pos h]

section
variable {s : State} {ref : Reference} {rate : SessionRate}
  (h : ¬ (ref = s.timebase.reference ∧ rate = s.timebase.rate)) (t : Nat)
include h

/-- R29: the table of CLOCK_SETUP outside LOCKED. -/
theorem State.setClock_unlocked (hc : s.timebase.clock ≠ .locked) :
    s.setClock ref rate t = { s.clockStored ref rate t with
      timebase := { (s.clockStored ref rate t).timebase with
        clock := s.timebase.clock.afterSetup ref, goodCount := 0 }
      ports := if s.timebase.clock = s.timebase.clock.afterSetup ref then s.ports else s.portsRaised .clockChange } := by
  simp only [State.setClock, if_neg h, if_neg hc]
  by_cases hr : ref = .none
  · subst hr
    simp only [State.toClock_eq, ClockState.afterSetup]
    rfl
  · cases hs : s.timebase.clock with
    | locked => exact absurd hs hc
    | _ => cases ref <;> simp [State.toClock_eq, ClockState.afterSetup, State.clockStored, hs] at hr ⊢ <;> rfl

/-- R28, R29: CLOCK_SETUP in LOCKED: entry to HOLDOVER, and FREE at once without a reference. -/
theorem State.setClock_locked (hc : s.timebase.clock = .locked) :
    s.setClock ref rate t = { s.clockStored ref rate t with
      timebase := { (s.clockStored ref rate t).timebase with
        clock := s.timebase.clock.afterSetup ref, goodCount := 0, edgesDue := []
        nextOscillator := max (s.timebase.lastSample + s.timebase.nominal) t }
      cues := s.cuesAsked s.cues clockHoldLabel
      ports := s.portsRaised .clockChange } := by
  have entered := State.enterHoldover_locked (s := s.clockStored ref rate t) hc t
  simp only [State.clockStored] at entered
  simp only [State.setClock, if_neg h, if_pos hc, entered]
  by_cases hr : ref = .none
  · subst hr
    rw [State.toClock_change (by simp)]
    have raised := State.portsRaised_twice s .clockChange
    simp only [ClockState.afterSetup, if_true]
    rw [← raised]
    rfl
  · cases ref with
    | none => exact absurd rfl hr
    | _ => rw [hc]; rfl

end

/-- R29: the effect of CLOCK_SETUP. -/
theorem State.KeepsTimebase.setClock (s : State) (ref : Reference) (rate : SessionRate) (t : Nat) :
    s.KeepsTimebase (s.setClock ref rate t) := by
  by_cases same : ref = s.timebase.reference ∧ rate = s.timebase.rate
  · rw [State.setClock_same same]
    exact .refl s
  by_cases hc : s.timebase.clock = .locked
  · rw [State.setClock_locked same t hc]
    exact ⟨fun hs => ⟨hs.position, Nat.zero_le _, fun hn => absurd rfl hn, ClockState.afterSetup_free _ _, fun _ => rfl,
      hs.period⟩, rfl⟩
  · rw [State.setClock_unlocked same t hc]
    exact ⟨fun hs => ⟨hs.position, Nat.zero_le _, fun hn => absurd rfl hn, ClockState.afterSetup_free _ _,
      fun _ => hs.due hc, hs.period⟩, rfl⟩

end Sys2Proof.Machine
end

section
/-! The take controller and the rate controller in a safe run (02 §2.6, R35 to R40; R97 to R107): each operation that ends,
starts, closes or charges keeps `Take.Sound` and `RateControl.Sound`. -/

namespace Sys2Proof.Machine

/-! ### The end of a take (R38, R39) -/

/-- R38: a take whose END records have been published. -/
theorem Take.Sound.ended {t : Take} (h : t.Sound) :
    Take.Sound { t with state := .idle, gathering := false, endRequest := .none } :=
  ⟨by simp, by simp, by simp, h.number, by simp, h.sequence, by simp⟩

/-- R39: a running take aborted, the block being gathered discarded. -/
theorem Take.Sound.aborted {t : Take} (h : t.Sound) (hr : t.state = .rolling ∨ t.state = .closing) (p : Nat) :
    Take.Sound { t with state := .closing, gathering := false, endRequest := .abort, endPosition := p } :=
  ⟨by simp, by simp, by simp, h.number, fun _ => h.numbered hr, h.sequence, by simp⟩

/-- 02 §2.6: outside a running take nothing is gathered and no end is requested. -/
theorem Take.Sound.outside {t : Take} (h : t.Sound) (h1 : t.state ≠ .rolling) (h2 : t.state ≠ .closing) :
    t.gathering = false ∧ t.endRequest = .none := by
  constructor
  · by_contra hg
    rcases h.gathering (by simpa using hg) with hr | hr
    · exact h1 hr
    · exact h2 hr
  · by_contra he
    exact h2 (h.endRequest.1 he)

/-- 02 §2.6: a take between states that are not those of a running take. -/
theorem Take.Sound.moved {t : Take} (h : t.Sound) (h1 : t.state ≠ .rolling) (h2 : t.state ≠ .closing) {st : TakeState}
    (h3 : st ≠ .rolling) (h4 : st ≠ .closing) (p : Nat) : Take.Sound { t with state := st, startPosition := p } := by
  obtain ⟨hg, he⟩ := h.outside h1 h2
  exact ⟨by simp [hg], by simp [h3], by simp [he, h4], h.number, by simp [h3, h4], h.sequence, by simp [hg]⟩

theorem State.endTake_take (s : State) :
    s.endTake.take = { s.take with state := .idle, gathering := false, endRequest := .none } := by
  simp only [State.endTake, State.toTake_eq]

/-- R38: the publication of a record leaves the take as it is, or ends it. -/
theorem State.publishNext_take (s : State) : s.publishNext.take = s.take ∨
    s.publishNext.take = { s.take with state := .idle, gathering := false, endRequest := .none } := by
  have job : ∀ (u : State) (f : Feed), (u.jobPublished f).take = u.take ∨
      (u.jobPublished f).take = { u.take with state := .idle, gathering := false, endRequest := .none } := by
    intro u f
    unfold State.jobPublished
    split
    · exact .inl rfl
    · exact .inl rfl
    · exact .inl (by simp)
    · cases f with
      | stream => exact .inl rfl
      | archive => exact .inr (State.endTake_take u)
  unfold State.publishNext
  split
  · simpa using job (s.publish .stream) .stream
  · split
    · simpa using job (s.publish .archive) .archive
    · exact .inl rfl

theorem State.publishNext_take_sound {s : State} (h : s.take.Sound) : s.publishNext.take.Sound := by
  rcases s.publishNext_take with e | e
  · rwa [e]
  · rw [e]
    exact h.ended

theorem State.placeNext_take_sound {s : State} (h : s.take.Sound) : s.placeNext.take.Sound := by simpa using h

/-- R36: the jobs brought to their end at a boundary. -/
theorem State.finishJobs_take_sound {s : State} (h : s.take.Sound) : s.finishJobs.take.Sound := by
  have job : ∀ u : State, u.take.Sound → u.finishJob.take.Sound := by
    intro u hu
    unfold State.finishJob
    split
    · exact State.publishNext_take_sound (State.placeNext_take_sound hu)
    · exact State.publishNext_take_sound (State.placeNext_take_sound hu)
    · exact hu
    · exact hu
  exact job _ (job _ h)

/-- R38: the END records that follow at once. -/
theorem State.endAtOnce_take_sound {s : State} (h : s.take.Sound) : s.endAtOnce.take.Sound := by
  have requested : s.requestEnd.take.Sound := by simpa using h
  unfold State.endAtOnce
  simp only []
  split
  · split
    · exact State.publishNext_take_sound (State.placeNext_take_sound
        (State.publishNext_take_sound (State.placeNext_take_sound requested)))
    · exact requested
  · exact h

/-- R39: the discarded block leaves the take gathering nothing. -/
theorem State.discardGathering_take (s : State) :
    ∃ p, s.discardGathering.take = { s.take with gathering := false, endPosition := p } := by
  unfold State.discardGathering
  split
  · split
    · next i _ => exact ⟨(s.framer.buffer i).start, by simp⟩
    · exact ⟨s.take.endPosition, rfl⟩
  · next hg => exact ⟨s.take.endPosition, by cases h : s.take; simp_all⟩

/-- R39: ABORT, and the end of the position count. -/
theorem State.abortTake_take_sound {s : State} (h : s.take.Sound) : s.abortTake.take.Sound := by
  obtain ⟨p, hp⟩ := s.discardGathering_take
  unfold State.abortTake
  split
  · next hs =>
    simp only [State.toTake_eq]
    exact h.moved (by simp [hs]) (by simp [hs]) (by simp) (by simp) s.take.startPosition
  · next hs =>
    apply State.endAtOnce_take_sound
    simp only [State.toTake_eq, hp]
    exact h.aborted (.inl hs) p
  · next hs =>
    apply State.endAtOnce_take_sound
    simp only [hp]
    have closed := h.aborted (.inr hs) p
    rwa [← hs] at closed
  · exact h
  · exact h

/-! ### Block boundaries (R35 to R37) -/

/-- R36, R37: the take controller at the close of a block. -/
theorem State.closeTakeBlock_take_sound {s : State} (h : s.take.Sound) (hg : s.take.gathering = true) (p : Nat) :
    (s.closeTakeBlock p).take.Sound := by
  have limit := h.limit hg
  have running := h.gathering hg
  have numbered := h.numbered running
  unfold State.closeTakeBlock
  simp only []
  split
  · split
    · simp only [State.toTake_eq]
      exact ⟨by simp, by simp, by simp, h.number, fun _ => numbered, by simp only; omega, by simp⟩
    · next hn =>
      exact ⟨by simp, fun hr => absurd hr hn, h.endRequest, h.number, fun _ => numbered, by simp only; omega, by simp⟩
  · next hn =>
    simp only [closesLastBlock, hg, Bool.true_and, Bool.or_eq_true, beq_iff_eq, decide_eq_true_eq, not_or] at hn
    exact ⟨h.gathering, h.rolling, h.endRequest, h.number, fun _ => numbered, by simp only; omega,
      fun _ => by simp only; omega⟩

/-- R74: a hand-over leaves the take. -/
theorem State.handOver_take (s : State) (i : BufferId) : (s.handOver i).take = s.take := by simp

theorem State.closeBlock_take_sound {s : State} (h : s.take.Sound) (p : Nat) : (s.closeBlock p).take.Sound := by
  unfold State.closeBlock
  split
  · next hg =>
    split
    · next i _ =>
      rw [State.handOver_take]
      exact State.closeTakeBlock_take_sound (by simpa using h) (by simpa using hg) p
    · exact h
  · exact h

/-- R35: the take begins at its start position. -/
theorem State.startTake_take_sound {s : State} (h : s.take.Sound) (p : Nat) : (s.startTake p).take.Sound := by
  unfold State.startTake
  split
  · next hs =>
    obtain ⟨-, he⟩ := h.outside (by simp [hs.1]) (by simp [hs.1])
    have after : 1 ≤ takeAfter s.take.number ∧ takeAfter s.take.number ≤ 65535 := by unfold takeAfter; split <;> omega
    simp only [State.toTake_eq]
    exact ⟨by simp, by simp, by simp [he], after.2, fun _ => after.1, by simp, by simp⟩
  · exact h

theorem State.boundary_take_sound {s : State} (h : s.take.Sound) (p : Nat) : (s.boundary p).take.Sound := by
  have begun := State.startTake_take_sound (State.closeBlock_take_sound (State.finishJobs_take_sound h) p) p
  simpa [State.boundary] using begun

theorem State.advancePosition_take_sound {s : State} (h : s.take.Sound) : s.advancePosition.take.Sound := by
  unfold State.advancePosition
  simp only []
  split
  · exact State.abortTake_take_sound (by simpa using h)
  · split
    · exact State.boundary_take_sound (by simpa using h) _
    · exact h

/-! ### The rate controller (R97 to R107) -/

/-- R103 to R105: a decision never shifts by more than 8. -/
theorem streamDecision_shift_le (cost : Nat → Nat → Nat) (n prev avail : Nat) :
    (streamDecision cost n prev avail).shift ≤ 8 := by
  unfold streamDecision
  split
  · next hs => exact (shiftSearch_eq_some.1 hs).2.1
  · split <;> exact Nat.le_refl 8

/-- R106, R107: a charge. -/
theorem RateControl.Sound.charge {rc : RateControl} (h : rc.Sound) (cost : Nat → Nat → Nat) {d : StreamDecision}
    (hd : d.shift ≤ 8) : (rc.charge cost d).Sound :=
  ⟨h.entries, h.distinct, h.rate, h.factor, rc.charge_level_le cost d, hd⟩

/-- R102: the reservoir half full. -/
theorem RateControl.Sound.initTake {rc : RateControl} (h : rc.Sound) : rc.initTake.Sound :=
  ⟨h.entries, h.distinct, h.rate, h.factor, Nat.div_le_self _ 2, Nat.zero_le 8⟩

theorem State.decideStream_rate (s : State) (i : BufferId) :
    (s.decideStream i).rate =
      let cost := streamCost (s.framer.buffer i) s.timebase.blockLength s.engine.cueCopy s.rate.roster
      s.rate.charge cost
        (streamDecision cost s.rate.roster.length s.rate.prevShift (s.rate.budget + s.rate.level)) := by
  unfold State.decideStream
  simp only []
  split <;> simp

theorem State.closeBlock_rate_sound {s : State} (h : s.rate.Sound) (p : Nat) : (s.closeBlock p).rate.Sound := by
  unfold State.closeBlock
  split
  · split
    · next i _ =>
      rw [State.handOver, State.decideStream_rate]
      exact RateControl.Sound.charge (by simpa using h) _ (streamDecision_shift_le ..)
    · exact h
  · exact h

theorem State.startTake_rate_sound {s : State} (h : s.rate.Sound) (p : Nat) : (s.startTake p).rate.Sound := by
  unfold State.startTake
  split
  · simpa using h.initTake
  · exact h

theorem State.boundary_rate_sound {s : State} (h : s.rate.Sound) (p : Nat) : (s.boundary p).rate.Sound := by
  have begun := State.startTake_rate_sound (State.closeBlock_rate_sound (s := s.finishJobs) (by simpa using h) p) p
  simpa [State.boundary] using begun

theorem State.advancePosition_rate_sound {s : State} (h : s.rate.Sound) : s.advancePosition.rate.Sound := by
  unfold State.advancePosition
  simp only []
  split
  · simpa using h
  · split
    · exact State.boundary_rate_sound (by simpa using h) _
    · exact h

/-! ### The position (R31) -/

/-- R31: the position after a sample-period event does not pass the last one. -/
theorem positionAfter_le {p : Nat} (h : p ≤ lastPosition) : positionAfter p ≤ lastPosition := by
  unfold positionAfter; split <;> omega

/-- R31: a sample-period event advances the position by at most one. -/
theorem positionAfter_bounds (p : Nat) : p ≤ positionAfter p ∧ positionAfter p ≤ p + 1 := by
  unfold positionAfter; split <;> omega

/-- R31: all that comes about at the new position leaves the timebase. -/
theorem State.advancePosition_timebase (s : State) :
    s.advancePosition.timebase = { s.timebase with position := positionAfter s.timebase.position } := by
  unfold State.advancePosition
  simp only []
  split
  · simp
  · split <;> simp

end Sys2Proof.Machine
end

section
/-! Every row of the table by what it does to the time, the timebase, the take controller and the rate controller (O6, O9):
the rows that are sample-period events advance the position, reset starts anew, and every other row is steady. -/

namespace Sys2Proof.Machine

/-! ### Steady steps -/

/-- `u` comes from `s` with the time and the performance position as they were, and each controller in a safe run if it was. -/
structure State.Steady (s u : State) : Prop where
  timebase : s.KeepsTimebase u
  take : s.take.Sound → u.take.Sound
  rate : s.rate.Sound → u.rate.Sound
  now : u.now = s.now

theorem State.Steady.trans {s u v : State} (h : s.Steady u) (h' : u.Steady v) : s.Steady v :=
  ⟨h.timebase.trans h'.timebase, fun hs => h'.take (h.take hs), fun hs => h'.rate (h.rate hs), h'.now.trans h.now⟩

/-- A step that leaves the time, the timebase, the take controller and the rate controller alone. -/
theorem State.Steady.of_same {s u : State}
    (h : u.timebase = s.timebase ∧ u.take = s.take ∧ u.rate = s.rate ∧ u.now = s.now) : s.Steady u := by
  obtain ⟨timebase, take, rate, now⟩ := h
  exact ⟨.of_eq timebase, fun hs => take ▸ hs, fun hs => rate ▸ hs, now⟩

theorem State.Steady.refl (s : State) : s.Steady s := .of_same ⟨rfl, rfl, rfl, rfl⟩

/-- A step of the timebase or of a receiver. -/
theorem State.Steady.of_timebase {s u : State} (h : s.KeepsTimebase u)
    (h' : u.take = s.take ∧ u.rate = s.rate ∧ u.now = s.now) : s.Steady u := by
  obtain ⟨take, rate, now⟩ := h'
  exact ⟨h, fun hs => take ▸ hs, fun hs => rate ▸ hs, now⟩

/-- A step of the take controller alone. -/
theorem State.Steady.of_take {s u : State} (h : s.take.Sound → u.take.Sound)
    (h' : u.timebase = s.timebase ∧ u.rate = s.rate ∧ u.now = s.now) : s.Steady u := by
  obtain ⟨timebase, rate, now⟩ := h'
  exact ⟨.of_eq timebase, h, fun hs => rate ▸ hs, now⟩

theorem State.Steady.setPort (s : State) (p : Port) (q : PortState) : s.Steady (s.setPort p q) :=
  .of_same ⟨rfl, rfl, rfl, rfl⟩

/-! ### The rules of the commands -/

/-- The commands whose rules leave the timebase, the take controller and the rate controller alone. -/
def Command.leavesControllers : Command → Bool
  | .linkSetup | .linkRestart | .clockSetup | .arm | .disarm | .roll | .close | .abort | .streamSetup => false
  | .linkStatus | .linkCounters | .trackMapSet | .trackMapGet | .gainSet | .gainApply | .gainDiscard | .gainGet
  | .archiveSetup | .archiveGet | .streamGet | .storeSetup | .subscribe | .unsubscribe | .next | .release | .feedStatus
  | .cueAdd | .cueDelete | .cueList | .portMode | .events | .eventMask | .status => true

/-- 10 §10.5: what those rules leave alone, read off their branches. -/
theorem Command.rule_leaves {c : Command} (h : c.leavesControllers = true) (p : Port) (ps : List Byte) (s : State) :
    (c.rule p ps s).1.timebase = s.timebase ∧ (c.rule p ps s).1.take = s.take ∧ (c.rule p ps s).1.rate = s.rate ∧
    (c.rule p ps s).1.now = s.now := by
  cases c
  case linkSetup | linkRestart | clockSetup | arm | disarm | roll | close | abort | streamSetup => cases h
  all_goals
    simp only [Command.rule, linkStatusRule, linkCountersRule, trackMapSetRule, trackMapGetRule, gainSetRule, gainApplyRule,
      gainDiscardRule, gainGetRule, archiveSetupRule, archiveGetRule, streamGetRule, storeSetupRule, subscribeRule,
      unsubscribeRule, nextRule, releaseRule, feedStatusRule, cueAddRule, cueDeleteRule, cueListRule, portModeRule,
      eventsRule, eventMaskRule, statusRule]
    repeat' split
    all_goals simp

/-- R19: LINK_SETUP. -/
theorem linkSetupRule_steady (ps : List Byte) (s : State) : s.Steady (linkSetupRule ps s).1 := by
  unfold linkSetupRule
  split
  · simp only []
    split
    · split
      · exact .of_timebase (.setupLink s _ _ _ _) (by simp)
      · exact .refl s
    · exact .refl s
  · exact .refl s

/-- R20: LINK_RESTART. -/
theorem linkRestartRule_steady (ps : List Byte) (s : State) : s.Steady (linkRestartRule ps s).1 := by
  unfold linkRestartRule
  split
  · split
    · split
      · exact .refl s
      · exact .of_timebase (.restartLink s _ _) (by simp)
    · exact .refl s
  · exact .refl s

/-- R29: CLOCK_SETUP. -/
theorem clockSetupRule_steady (ps : List Byte) (s : State) : s.Steady (clockSetupRule ps s).1 := by
  unfold clockSetupRule
  split
  · split
    · split
      · exact .refl s
      · exact .of_timebase (.setClock s _ _ _) (by simp)
    · exact .refl s
  · exact .refl s

/-- R33: ARM. -/
theorem armRule_steady (ps : List Byte) (s : State) : s.Steady (armRule ps s).1 := by
  unfold armRule
  split
  · exact .refl s
  · next hi =>
    split
    · refine .of_take (fun hs => ?_) (by simp)
      have idle : s.take.state = .idle := by simpa using hi
      simp only [State.toTake_eq]
      exact hs.moved (by simp [idle]) (by simp [idle]) (by simp) (by simp) s.take.startPosition
    · exact .refl s

/-- R34: DISARM. -/
theorem disarmRule_steady (ps : List Byte) (s : State) : s.Steady (disarmRule ps s).1 := by
  unfold disarmRule
  split
  · next ha =>
    refine .of_take (fun hs => ?_) (by simp)
    simp only [State.toTake_eq]
    exact hs.moved (by simp [ha]) (by simp [ha]) (by simp) (by simp) s.take.startPosition
  · exact .refl s

/-- R35: ROLL. -/
theorem rollRule_steady (ps : List Byte) (s : State) : s.Steady (rollRule ps s).1 := by
  unfold rollRule
  split
  · exact .refl s
  · next ha =>
    split
    · exact .refl s
    · refine .of_take (fun hs => ?_) (by simp)
      have armed : s.take.state = .armed := by simpa using ha
      simp only [State.toTake_eq]
      exact hs.moved (by simp [armed]) (by simp [armed]) (by simp) (by simp) s.nextBoundary

/-- R37: CLOSE. -/
theorem closeRule_steady (ps : List Byte) (s : State) : s.Steady (closeRule ps s).1 := by
  unfold closeRule
  split
  · next hr =>
    refine .of_take (fun hs => ?_) (by simp)
    simp only [State.toTake_eq]
    exact ⟨fun _ => .inr rfl, by simp, by simp, hs.number, fun _ => hs.numbered (.inl hr), hs.sequence, hs.limit⟩
  · exact .refl s

/-- R39: ABORT. -/
theorem abortRule_steady (ps : List Byte) (s : State) : s.Steady (abortRule ps s).1 := by
  have aborts : s.Steady s.abortTake := .of_take State.abortTake_take_sound (by simp)
  unfold abortRule
  cases s.take.state with
  | idle => exact .refl s
  | armed => exact .refl s
  | starting => exact aborts
  | rolling => exact aborts
  | closing => exact aborts

/-- R99: a clamped number lies in its range. -/
theorem clampTo_bounds {lo hi : Nat} (h : lo ≤ hi) (n : Nat) : lo ≤ clampTo lo hi n ∧ clampTo lo hi n ≤ hi := by
  unfold clampTo
  omega

/-- R99: a roster has an entry for each byte that names it. -/
theorem length_of_sources? {ids : List Byte} {roster : List Source} (h : sources? ids = some roster) :
    roster.length = ids.length := by
  induction ids generalizing roster with
  | nil => cases h; rfl
  | cons b rest ih =>
    simp only [sources?] at h
    split at h
    · next c more _ hm => cases h; simp [ih hm]
    · cases h

/-- R98, R99, R101: an accepted roster, rate and factor. -/
theorem RateControl.Sound.setup {rc : RateControl} (h : rc.Sound) {roster : List Source}
    (hl : 1 ≤ roster.length ∧ roster.length ≤ 16) (hd : roster.Nodup) (rate factor : Nat) :
    (rc.setup roster rate factor).Sound :=
  ⟨hl, hd, clampTo_bounds (by omega) rate, clampTo_bounds (by omega) factor, Nat.min_le_right _ _, h.prevShift⟩

/-- R99: STREAM_SETUP. -/
theorem streamSetupRule_steady (p : Port) (ps : List Byte) (s : State) : s.Steady (streamSetupRule p ps s).1 := by
  unfold streamSetupRule
  split
  · next n rest =>
    simp only []
    split
    · next rateHi rateLo factor hdrop =>
      split
      · exact .refl s
      split
      · exact .refl s
      · next roster hroster =>
        split
        · exact .refl s
        · next hn =>
          split
          · next hd =>
            have all := congrArg List.length hdrop
            simp only [List.length_drop, List.length_cons, List.length_nil] at all
            have named := length_of_sources? hroster
            rw [List.length_take, Nat.min_eq_left (by omega)] at named
            exact ⟨.of_eq rfl, fun hs => hs, fun hs => hs.setup (by omega) hd _ _, rfl⟩
          · exact .refl s
    · exact .refl s
  · exact .refl s

/-- 10 §10.5: the rule of every command is steady. -/
theorem Command.rule_steady (c : Command) (p : Port) (ps : List Byte) (s : State) : s.Steady (c.rule p ps s).1 := by
  by_cases h : c.leavesControllers = true
  · exact .of_same (Command.rule_leaves h p ps s)
  · cases c
    case linkSetup => exact linkSetupRule_steady ps s
    case linkRestart => exact linkRestartRule_steady ps s
    case clockSetup => exact clockSetupRule_steady ps s
    case arm => exact armRule_steady ps s
    case disarm => exact disarmRule_steady ps s
    case roll => exact rollRule_steady ps s
    case close => exact closeRule_steady ps s
    case abort => exact abortRule_steady ps s
    case streamSetup => exact streamSetupRule_steady p ps s
    all_goals exact absurd rfl h

/-- R146: the end of a frame is its port's alone. -/
theorem State.Steady.frameEnds {s u : State} {p : Port} {clocks : List Lanes} {f : Frame}
    (h : s.frameEnds p clocks = some (u, f)) : s.Steady u := by
  rw [State.frameEnds_frame h]
  exact .setPort s p _

theorem State.Steady.answer (s : State) (p : Port) (a : Answer) : s.Steady (s.answer p a) := .of_same (by simp)

/-- R146: a command's row is steady as its rule is. -/
theorem State.Steady.runCommand (s : State) (c : Command) (p : Port) (clocks : List Lanes) :
    s.Steady (s.runCommand c (c.rule p) p clocks) := by
  obtain e | ⟨-, -, e⟩ | ⟨s1, f, -, hf, -, -, e⟩ | ⟨s1, f, -, hf, -, -, e⟩ :=
    State.runCommand_cases s c (c.rule p) p clocks
  · rw [e]
    exact .refl s
  · rw [e]
    exact .of_same (by simp)
  · rw [e]
    exact (State.Steady.frameEnds hf).trans (.answer s1 p _)
  · rw [e]
    exact ((State.Steady.frameEnds hf).trans (c.rule_steady p f.params s1)).trans (.answer _ p _)

/-! ### Rows that are no sample-period events -/

/-- R159: a step that RESET holds back. -/
theorem State.Steady.unlessHeld {s u : State} (h : s.Steady u) (held : Bool) : s.Steady (if held then s else u) := by
  split
  · exact .refl s
  · exact h

/-- R159: an event of a block. -/
theorem State.Steady.eventAt {s : State} (t : Nat) {effect : State → State} (h : ∀ u : State, u.Steady (effect u)) :
    (s.advance t).Steady (s.eventAt t effect) := (h _).unlessHeld _

theorem State.Steady.transition (s : State) (l : LinkId) (t : Nat) : s.Steady (s.transition l t) :=
  .of_timebase (.transition s l t) (by simp)

theorem State.Steady.silence (s : State) (l : LinkId) : s.Steady (s.silence l) := by
  refine .of_timebase (.silence s l) ?_
  unfold State.silence
  split <;> simp

/-- R115, R119: the engine's rows. -/
theorem State.Steady.publishNext (s : State) : s.Steady s.publishNext :=
  .of_take State.publishNext_take_sound (by simp)

/-- R146: BAD_COMMAND touches its port alone. -/
theorem execBadCommand_steady {s t : State} {p : Port} {clocks : List Lanes} (h : execBadCommand p clocks s = .next t) :
    s.Steady t := by
  cases h
  refine State.Steady.unlessHeld ?_ _
  split
  · next s1 f hf =>
    split
    · exact (State.Steady.frameEnds hf).trans (.answer s1 p _)
    · exact .refl s
  · exact .of_same (by simp)

/-- 95: a row that is neither a sample-period event nor reset is steady from the moment at which it is taken. -/
theorem exec_steady {i : Instr} {s t : State} (hr : isReset i = false) (hs : isSampleRow i = false)
    (h : exec i s = .next t) : ∃ m, (s.advance m).Steady t := by
  have still : ∀ u : State, s.Steady u → ∃ m, (s.advance m).Steady u := fun u hu =>
    ⟨s.now, by rwa [State.advance_self]⟩
  have command : ∀ {p clocks c}, commandRow? i = some (p, clocks, c) → ∃ m, (s.advance m).Steady t := by
    intro p clocks c row
    rw [exec_command row] at h
    cases h
    exact ⟨_, .runCommand _ c p clocks⟩
  cases i with
  | lineTransition l t => cases h; exact ⟨t, .eventAt t fun u => .transition u l u.now⟩
  | edgeTimeout l t => cases h; exact ⟨t, .eventAt t fun u => .silence u l⟩
  | wclkEdge t =>
    cases h
    refine ⟨t, .eventAt t fun u => ?_⟩
    split
    · exact .of_timebase (.referenceEdge u _) (by simp)
    · exact .refl u
  | latePeriod t =>
    cases h
    refine ⟨t, .eventAt t fun u => ?_⟩
    split
    · exact .of_timebase (.takeLate u _) (by simp)
    · exact .refl u
  | referenceAbsent t =>
    cases h
    refine ⟨t, .eventAt t fun u => ?_⟩
    split
    · exact .of_timebase (.takeAbsence u _) (by simp)
    · exact .refl u
  | recordPlacement => cases h; exact still _ (State.Steady.unlessHeld (.of_same (by simp)) _)
  | recordPublication => cases h; exact still _ (State.Steady.unlessHeld (.publishNext s) _)
  | faultRequestTaken => cases h; exact still _ (State.Steady.unlessHeld (.of_same (by simp)) _)
  | frameStart p clocks ended => cases h; exact still _ (State.Steady.unlessHeld (.of_same (by simp)) _)
  | frameAbandoned p => cases h; exact still _ (State.Steady.unlessHeld (.setPort s p _) _)
  | receiveTimeout x => cases h; exact still _ (State.Steady.unlessHeld (.setPort s x.port _) _)
  | badCommand p clocks => exact still _ (execBadCommand_steady h)
  | read p clocks => cases h; exact still _ (State.Steady.unlessHeld (.of_same (by simp)) _)
  | responseEnd p clocks => cases h; exact still _ (State.Steady.unlessHeld (.of_same (by simp)) _)
  | samplePeriodEvent t => cases hs
  | takeLengthLimit t => cases hs
  | positionLimit t => cases hs
  | nextWaitExpiry p t => cases hs
  | reset t => cases hr
  | resetEnd t => cases hr
  | _ => exact command rfl

/-! ### Sample-period events (R31) -/

/-- `u` comes from `s` by at most one sample-period event: the time as it was, the position at most one further, and each
controller in a safe run if it was. -/
structure State.Samples (s u : State) : Prop where
  timebase : s.timebase.Sound → u.timebase.Sound
  take : s.take.Sound → u.take.Sound
  rate : s.rate.Sound → u.rate.Sound
  now : u.now = s.now
  position : u.timebase.position = s.timebase.position ∨ u.timebase.position = positionAfter s.timebase.position

theorem State.Samples.refl (s : State) : s.Samples s := ⟨id, id, id, rfl, .inl rfl⟩

/-- R25, R27: the sample-period event that has come sets its tick as the last, and takes the edge that was due. -/
theorem State.sampleBy?_some {s u : State} {t : Nat} {refTimed : Bool} (h : s.sampleBy? t = some (refTimed, u)) :
    ∃ last due, u = { s with timebase := { s.timebase with lastSample := last, edgesDue := due } } ∧
      (s.timebase.clock = .locked ∨ due = s.timebase.edgesDue) := by
  unfold State.sampleBy? at h
  simp only [] at h
  split at h
  · next hc =>
    split at h
    · next e due _ => cases h; exact ⟨e, due, rfl, .inl hc⟩
    · cases h
  · split at h
    · cases h; exact ⟨_, _, rfl, .inr rfl⟩
    · cases h

/-- R29: N and the nominal period are those of one rate. -/
theorem Timebase.Sound.sampled {tb : Timebase} (h : tb.Sound) {due : List Nat}
    (hd : tb.clock = .locked ∨ due = tb.edgesDue) (last next : Nat) :
    Timebase.Sound { tb with
      lastSample := last, edgesDue := due, blockLength := blockLengthOf tb.rate, nominal := nominalOf tb.rate
      nextOscillator := next } := by
  refine ⟨h.position, h.goodCount, h.counting, h.free, fun hc => ?_, ?_⟩
  · rcases hd with hd | hd
    · exact absurd hd hc
    · rw [hd]; exact h.due hc
  · cases tb.rate
    · exact .inl ⟨rfl, rfl⟩
    · exact .inr ⟨rfl, rfl⟩

/-- R164: a link step is steady. -/
theorem State.Steady.linkStep (s : State) (a : LinkStep) : s.Steady (s.linkStep a) := by
  cases a with
  | transition l => exact .transition s l s.now
  | timeout l => exact .silence s l
  | restart p clocks => exact .runCommand s .linkRestart p clocks
  | setup p clocks => exact .runCommand s .linkSetup p clocks

theorem State.Steady.linkSteps (s : State) (steps : List LinkStep) : s.Steady (s.linkSteps steps) := by
  induction steps generalizing s with
  | nil => exact .refl s
  | cons a rest ih => exact (State.Steady.linkStep s a).trans (ih _)

/-- R31, R45: a whole sample-period event, with steady link steps before the framer asks. -/
theorem State.Samples.sampleIf (s : State) (wanted : State → Bool) {between : State → State}
    (hb : ∀ u : State, u.Steady (between u)) : s.Samples (s.sampleIf wanted between) := by
  unfold State.sampleIf
  split
  · next r u hu =>
    split
    · obtain ⟨last, due, rfl, hdue⟩ := State.sampleBy?_some hu
      have mid := hb (State.adoptRate { s with
        timebase := { s.timebase with lastSample := last, edgesDue := due } }).advancePosition
      refine ⟨fun hs => ?_, fun hs => ?_, fun hs => ?_, ?_, .inr ?_⟩ <;> unfold State.samplePeriod
      · have sampled := hs.sampled hdue last (last + nominalOf s.timebase.rate)
        have advanced := mid.timebase.sound (by
          rw [State.advancePosition_timebase]
          exact ⟨positionAfter_le sampled.position, sampled.goodCount, sampled.counting, sampled.free, sampled.due,
            sampled.period⟩)
        simpa using advanced
      · simpa using mid.take (State.advancePosition_take_sound (by simpa using hs))
      · simpa using mid.rate (State.advancePosition_rate_sound (by simpa using hs))
      · simp [mid.now]
      · simp only [State.gather_frame, State.askLinks_frame, mid.timebase.position, State.advancePosition_timebase]
        rfl
    · exact .refl s
  · exact .refl s

/-- R159: a row that is a sample-period event. -/
theorem State.Samples.eventAt {s : State} (t : Nat) (wanted : State → Bool) {between : State → State}
    (hb : ∀ u : State, u.Steady (between u)) :
    (s.advance t).Samples (s.eventAt t fun u => u.sampleIf wanted between) := by
  unfold State.eventAt
  simp only []
  split
  · exact .refl _
  · exact .sampleIf _ wanted hb

/-- Log 5: a row of a sample-period event takes at most one, at its moment. -/
theorem exec_sampleRow {i : Instr} {s t : State} (hs : isSampleRow i = true) (h : exec i s = .next t) :
    ∃ m, (s.advance m).Samples t := by
  cases i with
  | samplePeriodEvent x => cases h; exact ⟨x.tick, .eventAt x.tick _ fun u => .linkSteps u x.between⟩
  | takeLengthLimit t => cases h; exact ⟨t, .eventAt t _ .refl⟩
  | positionLimit t => cases h; exact ⟨t, .eventAt t _ .refl⟩
  | nextWaitExpiry p t => cases h; exact ⟨t, .eventAt t _ .refl⟩
  | _ => cases hs

/-! ### Reset (R159) -/

theorem Timebase.resetAt_sound (t : Nat) : (Timebase.resetAt t).Sound :=
  ⟨by simp [Timebase.resetAt], by simp [Timebase.resetAt], by simp [Timebase.resetAt], by simp [Timebase.resetAt],
    fun _ => rfl, .inr ⟨rfl, rfl⟩⟩

theorem Take.reset_sound : Take.reset.Sound :=
  ⟨by simp [Take.reset], by simp [Take.reset], by simp [Take.reset], by simp [Take.reset], by simp [Take.reset],
    by simp [Take.reset], by simp [Take.reset]⟩

theorem RateControl.reset_sound : RateControl.reset.Sound :=
  ⟨by decide, by decide, by decide, by decide, by decide, by decide⟩

/-! ### Every row -/

/-- 95: every row of the table keeps the controllers of a safe run. -/
theorem exec_keepsControllersSound {i : Instr} {s t : State} (h : exec i s = .next t) :
    (s.timebase.Sound → t.timebase.Sound) ∧ (s.take.Sound → t.take.Sound) ∧ (s.rate.Sound → t.rate.Sound) := by
  have fresh : ∀ (m : Nat) (held : Bool), (State.resetAt m held).timebase.Sound ∧ (State.resetAt m held).take.Sound ∧
      (State.resetAt m held).rate.Sound :=
    fun m _ => ⟨Timebase.resetAt_sound m, Take.reset_sound, RateControl.reset_sound⟩
  cases hs : isSampleRow i with
  | true =>
    obtain ⟨m, sampled⟩ := exec_sampleRow hs h
    exact ⟨sampled.timebase, sampled.take, sampled.rate⟩
  | false =>
    cases hr : isReset i with
    | false =>
      obtain ⟨m, steady⟩ := exec_steady hr hs h
      exact ⟨steady.timebase.sound, steady.take, steady.rate⟩
    | true =>
      cases i with
      | reset m =>
        cases h
        obtain ⟨tb, take, rate⟩ := fresh (s.moment m) true
        exact ⟨fun _ => tb, fun _ => take, fun _ => rate⟩
      | resetEnd m =>
        cases h
        obtain ⟨tb, take, rate⟩ := fresh (s.moment m) false
        split
        · exact ⟨fun _ => tb, fun _ => take, fun _ => rate⟩
        · exact ⟨id, id, id⟩
      | _ => cases hr

/-- Settles O6: the row at the front of the queue keeps each controller, and with an empty queue the part idles. -/
theorem stepsKeepControllersSound : Obligations.StepsKeepControllersSound := by
  intro s t hstep
  cases hq : s.pending with
  | nil =>
    simp only [step, hq] at hstep
    cases hstep
    exact ⟨id, id, id⟩
  | cons i rest =>
    simp only [step, hq] at hstep
    exact exec_keepsControllersSound (s := { s with pending := rest }) hstep

/-- R31: the rows but reset, by what they do to time and position. -/
theorem exec_position {i : Instr} {s t : State} (hr : isReset i = false) (h : exec i s = .next t) :
    s.now ≤ t.now ∧ s.timebase.position ≤ t.timebase.position ∧ t.timebase.position ≤ s.timebase.position + 1 ∧
    (isSampleRow i = false → t.timebase.position = s.timebase.position) := by
  have later : ∀ m, s.now ≤ (s.advance m).now := fun m => Nat.le_max_left s.now m
  have bounds := positionAfter_bounds s.timebase.position
  cases hs : isSampleRow i with
  | true =>
    obtain ⟨m, sampled⟩ := exec_sampleRow hs h
    have position := sampled.position
    simp only [State.advance_timebase] at position
    exact ⟨sampled.now ▸ later m, by omega, by omega, fun hn => absurd hn (by simp)⟩
  | false =>
    obtain ⟨m, steady⟩ := exec_steady hr hs h
    have position : t.timebase.position = s.timebase.position := steady.timebase.position
    exact ⟨steady.now ▸ later m, by omega, by omega, fun _ => position⟩

/-- R25, R28: the row SAMPLE_PERIOD_EVENT where the oscillator's event has come. -/
theorem exec_samplePeriodEvent_oscillator {s : State} {t : Nat} (hrun : s.resetHeld = false)
    (hclock : s.timebase.clock ≠ .locked) (hnext : s.timebase.nextOscillator ≤ max s.now t) (steps : List LinkStep) :
    exec (.samplePeriodEvent ⟨t, steps⟩) s =
      let u := (s.advance t).sampleTaken s.timebase.nextOscillator s.timebase.edgesDue
      let v := u.advancePosition.linkSteps steps
      .next (v.askLinks.gather v.linkAnswers false) := by
  simp only [exec, execSamplePeriodEvent, State.eventAt_running hrun]
  rw [State.sampleIf_oscillator (s := s.advance t) hclock hnext]
  rfl

/-- Settles O9: a row is steady but for sample-period events, and outside a take at no boundary such an event only advances
the position and asks the links. -/
theorem positionCountsSamplePeriods : Obligations.PositionCountsSamplePeriods := by
  refine ⟨fun i s t hr h => exec_position hr h, fun t s hrun hclock hnext hg hlast hin => ?_⟩
  rw [exec_samplePeriodEvent_oscillator hrun hclock hnext]
  simp only [State.linkSteps_nil]
  rw [State.advancePosition_inside (by exact hlast) (by exact hin), State.askLinks_none (by exact hg),
    State.gather_none (by exact hg)]
  rfl

end Sys2Proof.Machine
end

section
/-! Reference edges, silences of the reference and CLOCK_SETUP (02 §2.3, §2.4; R23 to R30): the judgement of an edge by what it
ends, and the rows of the timebase by what they find. -/

namespace Sys2Proof.Machine

/-! ### The judgement of an edge (R23, R24) -/

section
variable {s : State} {d e : Nat}

/-- R23: without a last edge there is no period to judge. -/
theorem State.judgeEdge_first (h : s.timebase.lastEdge = none) (e : Nat) : s.judgeEdge e = s := by
  simp only [State.judgeEdge, h]

/-- R24: a period below nominal - 16 ticks is early bad. -/
theorem State.judgeEdge_early (h : s.timebase.lastEdge = some d) (he : e - d < s.timebase.nominal - 16) :
    s.judgeEdge e = s.badPeriod e := by
  simp only [State.judgeEdge, h, if_pos he]

/-- R24: a period of at least nominal - 16 ticks is good, a late one having been taken before. -/
theorem State.judgeEdge_good (h : s.timebase.lastEdge = some d) (he : s.timebase.nominal - 16 ≤ e - d) :
    s.judgeEdge e = s.goodPeriod e := by
  simp only [State.judgeEdge, h, if_neg (Nat.not_lt.2 he)]

/-! ### Good periods (R26 to R28) -/

/-- R26: a good period counts toward lock. -/
theorem State.goodPeriod_counts (hc : s.timebase.clock = .acquire) (hg : s.timebase.goodCount < 63) (e : Nat) :
    s.goodPeriod e = { s with timebase := { s.timebase with goodCount := s.timebase.goodCount + 1 } } := by
  simp only [State.goodPeriod, hc, if_pos (show s.timebase.goodCount + 1 < 64 by omega)]

/-- R26, R27: the 64th good period locks, and its edge is a sample-period event if half a nominal period has passed. -/
theorem State.goodPeriod_locks (hc : s.timebase.clock = .acquire) (hg : s.timebase.goodCount = 63) (e : Nat) :
    s.goodPeriod e = { s with
      ports := s.portsRaised .clockChange
      timebase := { s.timebase with
        clock := .locked, goodCount := 0
        edgesDue := if s.timebase.nominal / 2 ≤ e - s.timebase.lastSample then s.timebase.edgesDue ++ [e]
          else s.timebase.edgesDue } } := by
  simp only [State.goodPeriod, hc, hg, Nat.lt_irrefl, if_false, State.enterLocked,
    State.toClock_change (s := s) (c := .locked) (by simp [hc]), State.edgeIsSample]
  split <;> rfl

/-- R27: a good period in LOCKED is a sample-period event. -/
theorem State.goodPeriod_locked (hc : s.timebase.clock = .locked) (e : Nat) : s.goodPeriod e = s.edgeIsSample e := by
  simp only [State.goodPeriod, hc]

/-- R28: a good period ends HOLDOVER. -/
theorem State.goodPeriod_holdover (hc : s.timebase.clock = .holdover) (e : Nat) :
    s.goodPeriod e = { s with
      timebase := { s.timebase with clock := .acquire, goodCount := 1 }, ports := s.portsRaised .clockChange } := by
  simp only [State.goodPeriod, hc, State.toClock_change (s := s) (c := .acquire) (by simp [hc])]

/-! ### Edges (R23) -/

/-- R24: after a bad period the last edge is what it was. -/
theorem State.badPeriod_lastEdge (s : State) (t : Nat) : (s.badPeriod t).timebase.lastEdge = s.timebase.lastEdge := by
  cases hc : s.timebase.clock with
  | free => rw [State.badPeriod_idle (.inl hc)]
  | holdover => rw [State.badPeriod_idle (.inr hc)]
  | acquire => rw [State.badPeriod_acquire hc]
  | locked => rw [State.badPeriod_locked hc, State.enterHoldover_locked hc]

/-- Log 9: an edge after a late period not yet taken takes it at its own moment, and then only starts measurement. -/
theorem State.referenceEdge_late {m : Nat} (h : s.timebase.lateBy? e = some m) :
    s.referenceEdge e =
      { s.takeLate m with timebase := { (s.takeLate m).timebase with lastEdge := some e, absenceStart := e } } := by
  simp only [State.referenceEdge, h, State.judgeEdge_first (s := s.takeLate m) (State.badPeriod_lastEdge _ m)]

end

/-- R23: WCLK_EDGE where WCLK is the reference. -/
theorem exec_wclkEdge {s : State} (hrun : s.resetHeld = false) (href : s.timebase.reference = .wclk) (t : Nat) :
    exec (.wclkEdge t) s = .next ((s.advance t).referenceEdge (max s.now t)) := by
  simp only [exec, execWclkEdge, State.eventAt_running hrun]
  rw [if_pos (by exact href)]
  rfl

/-- Settles O29: an edge by whether a late period has come before it, and by how long its period was. -/
theorem wclkEdgesAreJudged : Obligations.WclkEdgesAreJudged := by
  intro t s hrun
  refine ⟨fun href => ?_, fun href hd => ?_, fun d href hd hlt => ?_, fun d href hd hle => ?_⟩
  · simp only [exec, execWclkEdge, State.eventAt_running hrun]
    rw [if_neg (by exact href)]
    rfl
  · rw [exec_wclkEdge hrun href, State.referenceEdge_eq (s := s.advance t) (Timebase.lateBy?_none_of_noEdge hd _),
      State.judgeEdge_first (by exact hd)]
    rfl
  · have edge : exec (.wclkEdge t) s = .next { (s.advance t).judgeEdge (max s.now t) with
        timebase := { ((s.advance t).judgeEdge (max s.now t)).timebase with
          lastEdge := some (max s.now t), absenceStart := max s.now t } } := by
      rw [exec_wclkEdge hrun href, State.referenceEdge_eq (s := s.advance t) (Timebase.lateBy?_none_of_lt hd hlt)]
    have early := fun he => edge.trans (by rw [State.judgeEdge_early (s := s.advance t) hd he])
    have good := fun he => edge.trans (by rw [State.judgeEdge_good (s := s.advance t) hd he])
    refine ⟨fun he hc => ?_, fun he hc => ?_, fun he hc => ?_, fun he hc hg => ?_, fun he hc hg => ?_, fun he hc => ?_,
      fun he hc => ?_⟩
    · rw [early he, State.badPeriod_acquire (s := s.advance t) hc]
      rfl
    · rw [early he, State.badPeriod_idle (s := s.advance t) (.inr hc)]
      rfl
    · rw [early he, State.badPeriod_locked (s := s.advance t) hc, State.enterHoldover_locked (s := s.advance t) hc]
      rfl
    · rw [good he, State.goodPeriod_counts (s := s.advance t) hc hg]
      rfl
    · rw [good he, State.goodPeriod_locks (s := s.advance t) hc hg]
      by_cases half : s.timebase.nominal / 2 ≤ max s.now t - s.timebase.lastSample
      · simp only [State.advance_timebase, half, ↓reduceIte]
        rfl
      · simp only [State.advance_timebase, half, ↓reduceIte]
        rfl
    · rw [good he, State.goodPeriod_locked (s := s.advance t) hc]
      rfl
    · rw [good he, State.goodPeriod_holdover (s := s.advance t) hc]
      rfl
  · have late : (s.advance t).timebase.lateBy? (max s.now t) = some (d + s.timebase.nominal + 17) :=
      Timebase.lateBy?_eq_some.2 ⟨d, hd, by simp [href], rfl, hle⟩
    have edge := (exec_wclkEdge hrun href t).trans (by rw [State.referenceEdge_late late, State.takeLate])
    refine ⟨fun hc => ?_, fun hc => ?_, fun hc => ?_⟩
    · rw [edge, State.badPeriod_acquire (by exact hc)]
      rfl
    · rw [edge, State.badPeriod_idle (by exact .inr hc)]
      rfl
    · rw [edge, State.badPeriod_locked (by exact hc), State.enterHoldover_locked (by exact hc)]
      rfl

/-! ### Silences (R24) -/

section
variable {s : State} {t m : Nat} (hrun : s.resetHeld = false)
include hrun

/-- R24: LATE_PERIOD where its moment has come. -/
theorem exec_latePeriod (h : s.timebase.lateBy? (max s.now t) = some m) :
    exec (.latePeriod t) s = .next ((s.advance t).takeLate m) := by
  have come : (s.advance t).timebase.lateBy? (s.advance t).now = some m := h
  simp only [exec, execLatePeriod, State.eventAt_running hrun, come]

/-- Log 2: LATE_PERIOD before its moment. -/
theorem exec_latePeriod_early (h : s.timebase.lateBy? (max s.now t) = none) :
    exec (.latePeriod t) s = .next (s.advance t) := by
  have early : (s.advance t).timebase.lateBy? (s.advance t).now = none := h
  simp only [exec, execLatePeriod, State.eventAt_running hrun, early]

/-- R24: REFERENCE_ABSENT where its moment has come. -/
theorem exec_referenceAbsent (h : s.timebase.absentBy? (max s.now t) = some m) :
    exec (.referenceAbsent t) s = .next ((s.advance t).takeAbsence m) := by
  have come : (s.advance t).timebase.absentBy? (s.advance t).now = some m := h
  simp only [exec, execReferenceAbsent, State.eventAt_running hrun, come]

/-- Log 2: REFERENCE_ABSENT before its moment. -/
theorem exec_referenceAbsent_early (h : max s.now t < s.timebase.absenceStart + 2 * s.timebase.nominal) :
    exec (.referenceAbsent t) s = .next (s.advance t) := by
  have early : (s.advance t).timebase.absentBy? (s.advance t).now = none :=
    if_neg fun come => Nat.not_le.2 h come.2
  simp only [exec, execReferenceAbsent, State.eventAt_running hrun, early]

/-- R28: LATE_PERIOD in LOCKED. -/
theorem exec_latePeriod_locked {d : Nat} (href : s.timebase.reference ≠ .none) (hd : s.timebase.lastEdge = some d)
    (hle : d + s.timebase.nominal + 17 ≤ max s.now t) (hc : s.timebase.clock = .locked) :
    exec (.latePeriod t) s = .next { s with
      now := max s.now t, cues := s.cuesAsked s.cues clockHoldLabel, ports := s.portsRaised .clockChange
      timebase := { s.timebase with
        lastEdge := none, clock := .holdover, goodCount := 0, edgesDue := []
        nextOscillator := max (s.timebase.lastSample + s.timebase.nominal) (d + s.timebase.nominal + 17) } } := by
  rw [exec_latePeriod hrun (Timebase.lateBy?_eq_some.2 ⟨d, hd, href, rfl, hle⟩), State.takeLate,
    State.badPeriod_locked (by exact hc), State.enterHoldover_locked (by exact hc)]
  rfl

end

/-! ### CLOCK_SETUP (R29) -/

section
variable {s : State} {p : Port} {clocks : List Lanes} {t : Nat} {e : PortState} {fb rb : Byte} {ref : Reference}
  {rate : SessionRate}

/-- R29: CLOCK_SETUP refuses a reference or a rate code that is none. -/
theorem clockSetupRule_range (h : 5 < fb.toNat ∨ 1 < rb.toNat) (u : State) :
    clockSetupRule [fb, rb] u = (u, .refuse .range) := by
  rcases h with h | h
  · simp only [clockSetupRule, reference?_eq_none h]
  · simp only [clockSetupRule, sessionRate?_eq_none h]
    cases reference? fb <;> rfl

section
variable (hf : fb.toNat = referenceCode ref) (hb : rb.toNat = rateCode rate)
include hf hb

/-- R29, R41: CLOCK_SETUP refuses a change of rate in a take. -/
theorem clockSetupRule_busy {u : State} (hr : rate ≠ u.timebase.rate) (ht : u.take.state ≠ .idle) :
    clockSetupRule [fb, rb] u = (u, .refuse .busy) := by
  simp only [clockSetupRule, reference?_eq_some hf, sessionRate?_eq_some hb]
  exact if_pos ⟨hr, ht⟩

/-- R29: CLOCK_SETUP accepted. -/
theorem clockSetupRule_ok {u : State} (h : rate = u.timebase.rate ∨ u.take.state = .idle) :
    clockSetupRule [fb, rb] u = (u.setClock ref rate u.now, .ok []) := by
  simp only [clockSetupRule, reference?_eq_some hf, sessionRate?_eq_some hb]
  exact if_neg (by tauto)

end

/-- R146, log 1: CLOCK_SETUP in hand is taken by its rule, at the moment reached. -/
theorem exec_clockSetup (h : s.commandAt p clocks .clockSetup [fb, rb] e) {u : State} {a : Answer}
    (rule : clockSetupRule [fb, rb] (s.taking t p e) = (u, a)) :
    exec (.clockSetup p clocks t) s = .next (u.answer p a) :=
  exec_answers (i := .clockSetup p clocks t) rfl h rfl (by simp)
    (by simp only [commandMoment, State.advance_moment]; exact rule)

end

/-! ### Answers after a command's effect -/

section
variable {s u : State} {p : Port} {e : PortState}

/-- R146, R149: the answer after an effect that raised nothing. -/
theorem State.answer_quiet (h : u.ports = s.ports.set p e) (data : List Byte) :
    u.answer p (.ok data) = { u with ports := s.portsAfter p (e.holds .ok data) id } := by
  cases u; cases h
  cases p <;> rfl

/-- R146, R149, R154: the answer after an effect that raised an event at every port. -/
theorem State.answer_raised {k : EventKind} (h : u.ports = (s.setPort p e).portsRaised k) (data : List Byte) :
    u.answer p (.ok data) =
      { u with ports := s.portsAfter p ((e.raise k).holds .ok data) fun q => q.raise k } := by
  cases u; cases h
  cases p <;> rfl

end

/-! ### The table of CLOCK_SETUP (R29) -/

section
variable {s : State} {p : Port} {clocks : List Lanes} {t : Nat} {e : PortState} {fb rb : Byte} {ref : Reference}
  {rate : SessionRate} (h : s.commandAt p clocks .clockSetup [fb, rb] e) (hf : fb.toNat = referenceCode ref)
  (hb : rb.toNat = rateCode rate) (ok : rate = s.timebase.rate ∨ s.take.state = .idle)
  (change : ¬ (ref = s.timebase.reference ∧ rate = s.timebase.rate))
include h hf hb ok change

/-- R29: an accepted CLOCK_SETUP that leaves the timebase state. -/
theorem exec_clockSetup_stays (hc : s.timebase.clock ≠ .locked)
    (hs : s.timebase.clock.afterSetup ref = s.timebase.clock) :
    exec (.clockSetup p clocks t) s = .next { s.clockStored ref rate (max s.now t) with
      now := max s.now t
      timebase := { (s.clockStored ref rate (max s.now t)).timebase with goodCount := 0 }
      ports := s.portsAfter p (e.holds .ok []) id } := by
  have same : ∀ x y : PerPort PortState, (if s.timebase.clock = s.timebase.clock.afterSetup ref then x else y) = x :=
    fun x y => if_pos hs.symm
  rw [exec_clockSetup h (clockSetupRule_ok (u := s.taking t p e) hf hb ok),
    State.setClock_unlocked (s := s.taking t p e) change _ hc, State.answer_quiet (same ..)]
  simp only [show (s.taking t p e).timebase = s.timebase from rfl, hs]
  rfl

/-- R29, R30: an accepted CLOCK_SETUP that changes the timebase state outside LOCKED. -/
theorem exec_clockSetup_moves (hc : s.timebase.clock ≠ .locked)
    (hs : s.timebase.clock.afterSetup ref ≠ s.timebase.clock) :
    exec (.clockSetup p clocks t) s = .next { s.clockStored ref rate (max s.now t) with
      now := max s.now t
      timebase := { (s.clockStored ref rate (max s.now t)).timebase with
        clock := s.timebase.clock.afterSetup ref, goodCount := 0 }
      ports := s.portsAfter p ((e.raise .clockChange).holds .ok []) fun q => q.raise .clockChange } := by
  have moved : ∀ x y : PerPort PortState, (if s.timebase.clock = s.timebase.clock.afterSetup ref then x else y) = y :=
    fun x y => if_neg hs.symm
  rw [exec_clockSetup h (clockSetupRule_ok (u := s.taking t p e) hf hb ok),
    State.setClock_unlocked (s := s.taking t p e) change _ hc, State.answer_raised (s := s) (e := e) (moved ..)]
  rfl

/-- R28, R29: an accepted CLOCK_SETUP in LOCKED. -/
theorem exec_clockSetup_locked (hc : s.timebase.clock = .locked) :
    exec (.clockSetup p clocks t) s = .next { s.clockStored ref rate (max s.now t) with
      now := max s.now t, cues := s.cuesAsked s.cues clockHoldLabel
      timebase := { (s.clockStored ref rate (max s.now t)).timebase with
        clock := s.timebase.clock.afterSetup ref, goodCount := 0, edgesDue := []
        nextOscillator := max (s.timebase.lastSample + s.timebase.nominal) (max s.now t) }
      ports := s.portsAfter p ((e.raise .clockChange).holds .ok []) fun q => q.raise .clockChange } := by
  rw [exec_clockSetup h (clockSetupRule_ok (u := s.taking t p e) hf hb ok),
    State.setClock_locked (s := s.taking t p e) change _ hc, State.answer_raised (s := s) (e := e) rfl]
  rfl

end

/-- Settles O31: CLOCK_SETUP by its codes, by what they change, and by the timebase state. -/
theorem clockSetupActsOnTheChange : Obligations.ClockSetupActsOnTheChange := by
  intro s p clocks t e fb rb h
  refine ⟨fun hr => ?_, fun ref rate hf hb => ⟨fun hr ht => ?_, fun ok => ⟨fun h1 h2 => ?_, fun hchange => ?_⟩⟩⟩
  · rw [exec_clockSetup h (clockSetupRule_range hr _), State.refuse_taking]
  · rw [exec_clockSetup h (clockSetupRule_busy (u := s.taking t p e) hf hb hr ht), State.refuse_taking]
  · rw [exec_clockSetup h (clockSetupRule_ok (u := s.taking t p e) hf hb ok),
      State.setClock_same (s := s.taking t p e) ⟨h1, h2⟩]
    exact congrArg _ (State.ok_setPort (s.advance t) p e [])
  · have change : ¬ (ref = s.timebase.reference ∧ rate = s.timebase.rate) := by tauto
    refine ⟨fun hc hn => ?_, fun hc hn => ?_, fun hc hn => ?_, fun hc hn => ?_, fun hc => ?_⟩
    · rw [exec_clockSetup_stays h hf hb ok change (by simp [hc]) (by simp [ClockState.afterSetup, hc, hn])]
      rfl
    · have acquires : s.timebase.clock.afterSetup ref = .acquire := by simp [ClockState.afterSetup, hc, hn]
      rw [exec_clockSetup_moves h hf hb ok change (by simp [hc]) (by rw [acquires, hc]; decide), acquires]
      rfl
    · have frees : s.timebase.clock.afterSetup ref = .free := (ClockState.afterSetup_free _ _).2 hn
      have unlocked : s.timebase.clock ≠ .locked ∧ s.timebase.clock ≠ .free := by rcases hc with hc | hc <;> simp [hc]
      rw [exec_clockSetup_moves h hf hb ok change unlocked.1 (by rw [frees]; exact unlocked.2.symm), frees]
      rfl
    · have stays : s.timebase.clock ≠ .locked ∧ s.timebase.clock.afterSetup ref = s.timebase.clock := by
        rcases hc with hc | hc <;> simp [ClockState.afterSetup, hc, hn]
      rw [exec_clockSetup_stays h hf hb ok change stays.1 stays.2]
      rfl
    · have holds : s.timebase.clock.afterSetup ref = if ref = .none then .free else .holdover := by
        simp only [ClockState.afterSetup, hc]
      rw [exec_clockSetup_locked h hf hb ok change hc, holds]
      rfl

end Sys2Proof.Machine
end

section
/-! The take commands ARM, DISARM, ROLL and CLOSE (R33 to R37), and the settings of the track map, the archive and the
stream (R43, R44, R82, R83, R99). -/

namespace Sys2Proof.Machine

/-! ### The next boundary (R35) -/

/-- R35: the next boundary is the one multiple of N above the position and at most N above it. -/
theorem boundaryAfter_unique {n p b : Nat} (above : p < b) (near : b ≤ p + n) (multiple : n ∣ b) :
    boundaryAfter n p = b := by
  obtain ⟨k, rfl⟩ := multiple
  have hn : 0 < n := Nat.pos_of_ne_zero (by rintro rfl; omega)
  have low : p / n < k := (Nat.div_lt_iff_lt_mul hn).2 (by rwa [Nat.mul_comm])
  have high : k ≤ p / n + 1 := by
    by_contra far
    have step : n * (p / n + 2) ≤ n * k := Nat.mul_le_mul_left n (by omega)
    have rest : p < n * (p / n) + n := by
      exact Nat.lt_mul_div_succ p hn
    rw [Nat.mul_add] at step
    omega
  rw [boundaryAfter, show p / n + 1 = k by omega, Nat.mul_comm]

/-! ### ARM, DISARM, ROLL, CLOSE -/

section
variable {s : State} {p : Port} {clocks : List Lanes} {e : PortState} {st : TakeState} {data : List Byte}

/-- R40, R146, R154: an effect that changes the take state, and its answer. -/
theorem State.answer_toTake {u : State} (h : u.ports = s.ports.set p e) (moves : u.take.state ≠ st) :
    (u.toTake st).answer p (.ok data) = { u with
      take := { u.take with state := st }
      ports := s.portsAfter p ((e.raise .takeChange).holds .ok data) fun q => q.raise .takeChange } := by
  rw [State.toTake_eq, State.answer_raised (s := s) (e := e) (k := .takeChange)]
  cases u; cases h
  exact if_neg moves

/-- R33: a roster passes when it names no disabled track. -/
theorem roster_passes_iff {map : Vector TrackEntry 64} {roster : List Source} :
    roster.all (rosterEntryPasses map) = true ↔ ∀ x : Fin 64, Source.track x ∈ roster → map[x].enabled = true := by
  rw [List.all_eq_true]
  refine ⟨fun h x hx => h _ hx, fun h c hc => ?_⟩
  cases c with
  | track x => exact h x hc
  | bus i => rfl

end

/-- Settles O37, by the rule of ARM. -/
theorem armTakesTheRoster : Obligations.ArmTakesTheRoster := by
  intro s p clocks e h
  refine ⟨fun hi => ?_, fun hi hdis => ?_, fun hi hen => ?_⟩
  · exact exec_refuses (i := .arm p clocks) rfl h rfl (by simp) rfl (if_pos hi)
  · have fails : ¬ s.rate.roster.all (rosterEntryPasses s.framer.map) = true := by
      obtain ⟨x, hx, hoff⟩ := hdis
      exact fun all => Bool.noConfusion (hoff.symm.trans (roster_passes_iff.1 all x hx))
    exact exec_refuses (i := .arm p clocks) rfl h rfl (by simp) rfl ((if_neg (not_not.2 hi)).trans (if_neg fails))
  · rw [exec_answersNow (i := .arm p clocks) rfl h rfl (by simp) rfl
      ((if_neg (not_not.2 hi)).trans (if_pos (roster_passes_iff.2 hen))),
      State.answer_toTake (s := s) rfl (by simp [hi])]
    rfl

/-- Settles O38, by the rule of DISARM. -/
theorem disarmReturnsToIdle : Obligations.DisarmReturnsToIdle := by
  intro s p clocks e h
  by_cases ha : s.take.state = .armed
  · refine ⟨_, exec_answersNow (i := .disarm p clocks) rfl h rfl (by simp) rfl (if_pos ha), fun _ => ?_, (absurd ha ·)⟩
    rw [State.answer_toTake (s := s) rfl (by simp [ha])]
    simp [State.port, State.portsAfter_get, PortState.holds]
  · refine ⟨_, exec_refuses (i := .disarm p clocks) rfl h rfl (by simp) rfl (if_neg ha), (absurd · ha), fun _ => ?_⟩
    simp [State.port, State.portsAfter_get, PortState.holds]

/-- Settles O39: a boundary at or below `2^48 - 1` lies ahead, so the position has not stopped. -/
theorem rollAndCloseNameABoundary : Obligations.RollAndCloseNameABoundary := by
  intro s p clocks e n
  refine ⟨fun h ha => ?_, fun h hr => ?_, fun b above near multiple small => ?_⟩
  · exact exec_refuses (i := .roll p clocks) rfl h rfl (by simp) rfl (if_pos ha)
  · exact exec_refuses (i := .close p clocks) rfl h rfl (by simp) rfl (if_neg hr)
  · have next : s.nextBoundary = b := boundaryAfter_unique above near multiple
    have runs : s.timebase.position ≠ lastPosition := by simp only [lastPosition]; omega
    refine ⟨positionBytes b, ?_, length_positionBytes b, fun h ha => ?_, fun h hr => ?_⟩
    · rw [positionBytes_of_lt small, numberOf_bytesOf_of_lt (by omega)]
    · rw [← next, exec_answersNow (i := .roll p clocks) rfl h rfl (by simp) rfl
        ((if_neg (not_not.2 ha)).trans (if_neg runs)), State.answer_toTake (s := s) rfl (by simp [ha])]
      rfl
    · rw [← next, exec_answersNow (i := .close p clocks) rfl h rfl (by simp) rfl (if_pos hr),
        State.answer_toTake (s := s) rfl (by simp [hr])]
      rfl

/-! ### Settings that raise CONFIG_CHANGE -/

section
variable {s u : State} {p : Port} {e : PortState}

/-- R146, R154: the answer after a setting that raised an event at the other two ports. -/
theorem State.answer_others (h : u.ports = s.ports.set p e) (k : EventKind) (st : Status) (data : List Byte) :
    (u.raiseOthers k p).answer p (.response (Response.of st data)) =
      { u with ports := s.portsAfter p (e.holds st data) fun q => q.raise k } := by
  cases u; cases h
  cases p <;> rfl

end

/-! ### The track map (R43, R44) -/

section
variable {a b c d : Byte}

/-- R43: TRACK_MAP_SET's parameters out of range. -/
theorem trackEntry?_eq_none (h : 63 < a.toNat ∨ 1 < b.toNat ∨ 3 < c.toNat ∨ 15 < d.toNat) : trackEntry? a b c d = none := by
  rcases h with h | h | h | h
  · simp only [trackEntry?, if_neg (show ¬ a.toNat < 64 by omega)]
    split
    · split <;> rfl
    · rfl
  · simp only [trackEntry?, flag?_eq_none h]
  · simp only [trackEntry?, link?_eq_none h]
    cases flag? b <;> rfl
  · simp only [trackEntry?, dif_neg (show ¬ d.toNat < 16 by omega)]
    split <;> rfl

/-- R43: the entry of parameters in range. -/
theorem trackEntry?_eq_some {l : LinkId} {j : Fin 16} (ha : a.toNat < 64) (hb : b = 0 ∨ b = 1)
    (hc : c.toNat = linkNumber l) (hd : d.toNat = j) : trackEntry? a b c d = some ⟨decide (b = 1), l, j⟩ := by
  have hj : (⟨d.toNat, by omega⟩ : Fin 16) = j := Fin.ext hd
  rcases hb with rfl | rfl <;>
    simp only [trackEntry?, flag?_zero, flag?_one, link?_eq_some hc, dif_pos (show d.toNat < 16 by omega), if_pos ha, hj] <;>
    rfl

end

/-- R43: another enabled track names the source position. -/
theorem sourceTaken_iff {map : Vector TrackEntry 64} {x : Nat} {l : LinkId} {j : Fin 16} :
    sourceTaken map x l j = true ↔ ∃ y : Fin 64, y.val ≠ x ∧ map[y] = ⟨true, l, j⟩ := by
  have entry : ∀ y : Nat, ∀ t : TrackEntry,
      (t.enabled && decide (y ≠ x) && decide (t.link = l) && decide (t.slot = j)) = true ↔ y ≠ x ∧ t = ⟨true, l, j⟩ := by
    rintro y ⟨on, l', j'⟩
    simp only [Bool.and_eq_true, decide_eq_true_eq, TrackEntry.mk.injEq]
    tauto
  simp only [sourceTaken, List.any_eq_true, id_eq, exists_eq_right, List.mem_mapIdx]
  constructor
  · rintro ⟨y, hy, h⟩
    exact ⟨⟨y, by simpa using hy⟩, (entry y _).1 h⟩
  · rintro ⟨y, h⟩
    exact ⟨y, by simp, (entry y _).2 h⟩

/-- R43: the map with one entry replaced. -/
theorem getElem_setTrack (map : Vector TrackEntry 64) (x y : Fin 64) (t : TrackEntry) :
    (setTrack map x t)[y] = if y = x then t else map[y] := by
  simp only [setTrack, getElem_mapEntries, Fin.ext_iff]

/-- A part of a text of parts of equal length. -/
theorem take_drop_flatten {α : Type} {w : Nat} {parts : List (List α)} (even : ∀ part ∈ parts, part.length = w) {i : Nat}
    (hi : i < parts.length) : (parts.flatten.drop (w * i)).take w = parts[i] := by
  induction parts generalizing i with
  | nil => simp at hi
  | cons part rest ih =>
    obtain ⟨first, others⟩ := List.forall_mem_cons.1 even
    cases i with
    | zero => simp [← first]
    | succ i =>
      rw [List.flatten_cons, Nat.mul_succ, Nat.add_comm, ← List.drop_drop, ← first, List.drop_left, first]
      exact ih others (Nat.lt_of_succ_lt_succ hi)

/-- The length of a text of parts of equal length. -/
theorem length_flatten_even {α : Type} {w : Nat} {parts : List (List α)} (even : ∀ part ∈ parts, part.length = w) :
    parts.flatten.length = w * parts.length := by
  rw [List.length_flatten, List.map_eq_replicate_iff.2 even, List.sum_replicate, smul_eq_mul, Nat.mul_comm]

/-- R44: the bytes of the map entries from `first` on. -/
def trackEntriesFrom (map : Vector TrackEntry 64) (first count : Nat) : List (List Byte) :=
  ((map.toList.mapIdx trackEntryBytes).drop first).take count

/-- R44: four bytes an entry. -/
theorem length_of_mem_trackEntriesFrom {map : Vector TrackEntry 64} {first count : Nat} :
    ∀ part ∈ trackEntriesFrom map first count, part.length = 4 := by
  intro part h
  obtain ⟨y, hy, rfl⟩ := List.mem_mapIdx.1 (List.mem_of_mem_drop (List.mem_of_mem_take h))
  simp [trackEntryBytes]

/-- R44: the bytes of one map entry, as numbers. -/
theorem trackEntryBytes_toNat (x : Fin 64) (t : TrackEntry) :
    (trackEntryBytes x t).map BitVec.toNat = [x.val, t.enabled.toNat, linkNumber t.link, t.slot.val] := by
  have hx : x.val < 256 := by omega
  have hl : linkNumber t.link < 256 := by cases t.link <;> decide
  have hj : t.slot.val < 256 := by omega
  simp [trackEntryBytes, bytesOf, flagByte_toNat, Nat.mod_eq_of_lt, hx, hl, hj]

/-- R44: TRACK_MAP_GET refuses tracks that are none. -/
theorem tracksInRange_iff {a n : Byte} :
    tracksInRange a n = true ↔ a.toNat ≤ 63 ∧ 1 ≤ n.toNat ∧ n.toNat ≤ 64 ∧ a.toNat + n.toNat ≤ 64 := by
  simp only [tracksInRange, Bool.and_eq_true, decide_eq_true_eq, and_assoc]

/-! ### TRACK_MAP_SET -/

section
variable {s : State} {p : Port} {a b c d : Byte}

/-- R41: TRACK_MAP_SET in a take. -/
theorem trackMapSetRule_busy (h : s.take.state ≠ .idle) : trackMapSetRule p [a, b, c, d] s = (s, .refuse .busy) := if_pos h

/-- R43: TRACK_MAP_SET out of range. -/
theorem trackMapSetRule_range (h : s.take.state = .idle) (hr : trackEntry? a b c d = none) :
    trackMapSetRule p [a, b, c, d] s = (s, .refuse .range) := by
  simp only [trackMapSetRule, h, hr, ne_eq, not_true_eq_false, ↓reduceIte]

section
variable {t : TrackEntry} (h : s.take.state = .idle) (ht : trackEntry? a b c d = some t)
include h ht

/-- R43: TRACK_MAP_SET of a source position that another enabled track has. -/
theorem trackMapSetRule_conflict (hc : t.enabled = true ∧ sourceTaken s.framer.map a.toNat t.link t.slot = true) :
    trackMapSetRule p [a, b, c, d] s = (s, .refuse .conflict) := by
  simp only [trackMapSetRule, h, ht, hc, ne_eq, not_true_eq_false, ↓reduceIte, Bool.and_self]

/-- R43: TRACK_MAP_SET accepted. -/
theorem trackMapSetRule_ok (hc : ¬ (t.enabled = true ∧ sourceTaken s.framer.map a.toNat t.link t.slot = true)) :
    trackMapSetRule p [a, b, c, d] s =
      ({ s with framer := { s.framer with map := setTrack s.framer.map a.toNat t } }.raiseOthers .configChange p, .ok []) := by
  simp only [trackMapSetRule, h, ht, ne_eq, not_true_eq_false, ↓reduceIte]
  exact if_neg (by rwa [Bool.and_eq_true])

end

end

/-- Settles O41, by the entry that the parameters give and the source positions taken. -/
theorem trackMapCommands : Obligations.TrackMapCommands := by
  refine ⟨fun s p clocks e a b c d h => ⟨fun hb => ?_, fun hi hr => ?_, fun x l j hi ha hb hc hd => ?_⟩,
    fun s p clocks e a n h => ⟨fun hr => ?_, fun hn ht => ?_⟩⟩
  · exact exec_refuses (i := .trackMapSet p clocks) rfl h rfl (by simp) rfl (trackMapSetRule_busy hb)
  · exact exec_refuses (i := .trackMapSet p clocks) rfl h rfl (by simp) rfl
      (trackMapSetRule_range hi (trackEntry?_eq_none hr))
  · have entry := trackEntry?_eq_some (a := a) (by omega) (byte_of_toNat_le_one hb) hc hd
    have taken : sourceTaken s.framer.map a.toNat l j = true ↔ ∃ y : Fin 64, y ≠ x ∧ s.framer.map[y] = ⟨true, l, j⟩ := by
      rw [sourceTaken_iff, ha]
      simp only [ne_eq, Fin.ext_iff]
    refine ⟨fun on other => ?_, fun free => ⟨setTrack s.framer.map x ⟨decide (b = 1), l, j⟩, ?_, fun y =>
      getElem_setTrack ..⟩⟩
    · exact exec_refuses (i := .trackMapSet p clocks) rfl h rfl (by simp) rfl
        (trackMapSetRule_conflict (s := s.setPort p e) hi entry ⟨decide_eq_true on, taken.2 other⟩)
    · have unclaimed : ¬ (decide (b = 1) = true ∧ sourceTaken s.framer.map a.toNat l j = true) := by
        rintro ⟨on, claimed⟩
        obtain ⟨y, hy, same⟩ := taken.1 claimed
        rcases free with rfl | others
        · simp at on
        · exact others y hy same
      rw [exec_answersNow (i := .trackMapSet p clocks) rfl h rfl (by simp) rfl (trackMapSetRule_ok hi entry unclaimed), ha]
      exact congrArg _ (State.answer_others (s := s) (e := e) rfl ..)
  · refine exec_refuses (i := .trackMapGet p clocks) rfl h rfl (by simp) rfl (if_neg ?_)
    rw [tracksInRange_iff]
    omega
  · refine ⟨(trackEntriesFrom s.framer.map a.toNat n.toNat).flatten,
      exec_reads (i := .trackMapGet p clocks) rfl h rfl (by simp) rfl (if_pos (tracksInRange_iff.2 (by omega))), ?_,
      fun x low high => ?_⟩
    · rw [length_flatten_even length_of_mem_trackEntriesFrom]
      simp [trackEntriesFrom]
      omega
    · rw [take_drop_flatten length_of_mem_trackEntriesFrom (by simp [trackEntriesFrom]; omega), ← trackEntryBytes_toNat]
      simp [trackEntriesFrom, Nat.add_sub_cancel' low]

/-! ### The archive setting (R82, R83) -/

/-- R81: the number of archive channels. -/
theorem length_archiveChannels (map : Vector TrackEntry 64) (mixes : Bool) :
    (archiveChannels map mixes).length =
      (List.finRange 64).countP (fun x => map[x].enabled) + if mixes then 4 else 0 := by
  cases mixes <;> simp [archiveChannels, List.countP_eq_length_filter]

/-- Settles O45, by the rules of ARCHIVE_SETUP and ARCHIVE_GET. -/
theorem archiveCommands : Obligations.ArchiveCommands := by
  refine ⟨fun s p clocks e a h => ⟨fun hb => ?_, fun hi hr => ?_, fun hi hr => ?_⟩, fun s p clocks e h => ?_⟩
  · exact exec_refuses (i := .archiveSetup p clocks) rfl h rfl (by simp) rfl (if_pos hb)
  · refine exec_refuses (i := .archiveSetup p clocks) rfl h rfl (by simp) rfl ((if_neg (not_not.2 hi)).trans ?_)
    rw [flag?_eq_none hr]
  · have stored : archiveSetupRule p [a] (s.setPort p e) =
        ({ s.setPort p e with engine := { s.engine with includeMixes := decide (a = 1) } }.raiseOthers .configChange p,
          .ok [a]) := by
      refine (if_neg (not_not.2 hi)).trans ?_
      rcases byte_of_toNat_le_one hr with rfl | rfl
      · rw [flag?_zero]; rfl
      · rw [flag?_one]; rfl
    rw [exec_answersNow (i := .archiveSetup p clocks) rfl h rfl (by simp) rfl stored]
    exact congrArg _ (State.answer_others (s := s) (e := e) rfl ..)
  · refine ⟨_, _, exec_reads (i := .archiveGet p clocks) rfl h rfl (by simp) rfl rfl, flagByte_toNat _, ?_⟩
    have few : (List.finRange 64).countP (fun x => (s.framer.map[x]).enabled) ≤ 64 := by
      have all := List.countP_le_length (l := List.finRange 64) (p := fun x => (s.framer.map[x]).enabled)
      rwa [List.length_finRange] at all
    have fits : (archiveChannels s.framer.map s.engine.includeMixes).length < 256 := by
      rw [length_archiveChannels]; split <;> omega
    rw [← length_archiveChannels]
    simpa using Nat.mod_eq_of_lt fits

/-! ### The stream setting (R99) -/

/-- R99: a roster is the one whose identifiers the bytes are. -/
theorem sources?_eq_some {ids : List Byte} {roster : List Source} (h : roster.map sourceId = ids.map BitVec.toNat) :
    sources? ids = some roster := by
  induction ids generalizing roster with
  | nil => rw [List.map_eq_nil_iff.1 h]; rfl
  | cons b rest ih =>
    obtain ⟨c, more, rfl, hc, hm⟩ := List.map_eq_cons_iff.1 h
    rw [sources?, source?_sourceId hc.symm, ih hm]

/-- R99: a source identifier above 67. -/
theorem sources?_eq_none {ids : List Byte} (h : ∃ b ∈ ids, 67 < b.toNat) : sources? ids = none := by
  induction ids with
  | nil => simp at h
  | cons b rest ih =>
    rcases List.exists_mem_cons_iff .. |>.1 h with hb | hr
    · rw [sources?, source?_eq_none hb]
    · rw [sources?, ih hr]
      cases source? b <;> rfl

/-- R99: source identifiers of 0 to 67 name a roster. -/
theorem exists_roster {ids : List Byte} (h : ∀ b ∈ ids, b.toNat ≤ 67) :
    ∃ roster : List Source, roster.map sourceId = ids.map BitVec.toNat := by
  induction ids with
  | nil => exact ⟨[], rfl⟩
  | cons b rest ih =>
    obtain ⟨hb, hrest⟩ := List.forall_mem_cons.1 h
    obtain ⟨more, hm⟩ := ih hrest
    rcases Nat.lt_or_ge b.toNat 64 with track | bus
    · exact ⟨.track ⟨b.toNat, track⟩ :: more, by simp [hm, sourceId]⟩
    · exact ⟨.bus ⟨b.toNat - 64, by omega⟩ :: more, by simp [hm, sourceId]; omega⟩

/-- R99: a source named twice is one identifier twice. -/
theorem roster_nodup_iff {ids : List Byte} {roster : List Source} (h : roster.map sourceId = ids.map BitVec.toNat) :
    roster.Nodup ↔ ids.Nodup := by
  rw [← List.nodup_map_iff sourceId_injective, h, List.nodup_map_iff BitVec.toNat_injective]

/-- R99: a number brought into a range. -/
theorem clampTo_eq {lo hi : Nat} (h : lo ≤ hi) (n : Nat) :
    clampTo lo hi n = if n < lo then lo else if hi < n then hi else n := by
  unfold clampTo
  split
  · omega
  · split <;> omega

section
variable {s : State} {p : Port} {n hi lo k : Byte} {ids : List Byte} (hn : n.toNat = ids.length)
include hn

/-- R41: STREAM_SETUP in a take. -/
theorem streamSetupRule_busy (h : s.take.state ≠ .idle) :
    streamSetupRule p (n :: ids ++ [hi, lo, k]) s = (s, .refuse .busy) := by
  simp [streamSetupRule, hn, h]

section
variable (h : s.take.state = .idle)
include h

/-- R99: STREAM_SETUP with an identifier that is no source. -/
theorem streamSetupRule_noSource (hs : sources? ids = none) :
    streamSetupRule p (n :: ids ++ [hi, lo, k]) s = (s, .refuse .range) := by
  simp [streamSetupRule, hn, h, hs]

section
variable {roster : List Source} (hs : sources? ids = some roster)
include hs

/-- R99: STREAM_SETUP with a roster too short or too long. -/
theorem streamSetupRule_length (hl : n.toNat = 0 ∨ 16 < n.toNat) :
    streamSetupRule p (n :: ids ++ [hi, lo, k]) s = (s, .refuse .range) := by
  rw [hn] at hl
  simp only [streamSetupRule, hn, h, List.cons_append, List.take_left', List.drop_left', hs, hl, ne_eq,
    not_true_eq_false, ↓reduceIte]

section
variable (hl : 1 ≤ n.toNat ∧ n.toNat ≤ 16)
include hl

/-- R99: STREAM_SETUP with a source named twice. -/
theorem streamSetupRule_conflict (hd : ¬ roster.Nodup) :
    streamSetupRule p (n :: ids ++ [hi, lo, k]) s = (s, .refuse .conflict) := by
  have inside : ¬ (ids.length = 0 ∨ 16 < ids.length) := by omega
  simp only [streamSetupRule, hn, h, List.cons_append, List.take_left', List.drop_left', hs, hd, inside, ne_eq,
    not_true_eq_false, ↓reduceIte]

/-- R99: STREAM_SETUP accepted. -/
theorem streamSetupRule_ok (hd : roster.Nodup) :
    streamSetupRule p (n :: ids ++ [hi, lo, k]) s =
      ({ s with rate := s.rate.setup roster (numberOf [hi, lo]) k.toNat }.raiseOthers .configChange p,
        .response (Response.of
          (if (s.rate.setup roster (numberOf [hi, lo]) k.toNat).rate = numberOf [hi, lo] ∧
            (s.rate.setup roster (numberOf [hi, lo]) k.toNat).factor = k.toNat then .ok else .okClamped)
          (streamSetupData (s.rate.setup roster (numberOf [hi, lo]) k.toNat)))) := by
  have inside : ¬ (ids.length = 0 ∨ 16 < ids.length) := by omega
  simp only [streamSetupRule, hn, h, List.cons_append, List.take_left', List.drop_left', hs, hd, inside, ne_eq,
    not_true_eq_false, ↓reduceIte]

end
end
end
end

/-- Settles O51, by the roster that the identifiers name and the two ranges. -/
theorem streamSetupClamps : Obligations.StreamSetupClamps := by
  intro s p clocks e n ids hi lo k h hn h246
  have required : requiredLength .streamSetup (n :: ids ++ [hi, lo, k]) = some (n :: ids ++ [hi, lo, k]).length := by
    simp [requiredLength, hn]
    omega
  have short : (n :: ids ++ [hi, lo, k]).length ≤ 250 := by simp; omega
  have refuses := fun {st} => exec_refuses (i := .streamSetup p clocks) (st := st) rfl h required short rfl
  refine ⟨fun hb => refuses (streamSetupRule_busy hn hb), fun hidle hr => ?_, fun hidle h1 h16 hs => ?_⟩
  · cases named : sources? ids with
    | none => exact refuses (streamSetupRule_noSource hn hidle named)
    | some roster =>
      refine refuses (streamSetupRule_length hn hidle named ?_)
      rcases hr with hr | hr | hr
      · exact .inl hr
      · exact .inr hr
      · rw [sources?_eq_none hr] at named; cases named
  · refine ⟨fun hd => ?_, fun hd roster named => ?_⟩
    · obtain ⟨roster, named⟩ := exists_roster hs
      exact refuses (streamSetupRule_conflict hn hidle (sources?_eq_some named) ⟨h1, h16⟩
        fun nodup => hd ((roster_nodup_iff named).1 nodup))
    · intro rate r f level
      have setup : s.rate.setup roster (numberOf [hi, lo]) k.toNat = ⟨roster, r, f, level, s.rate.prevShift⟩ := by
        simp only [RateControl.setup, RateControl.capacity, RateControl.budget, clampTo_eq (show 128 ≤ 16000 by decide),
          clampTo_eq (show 1 ≤ 16 by decide)]
        rfl
      rw [exec_answersNow (i := .streamSetup p clocks) rfl h required short rfl (streamSetupRule_ok
        (s := s.setPort p e) hn hidle (sources?_eq_some named) ⟨h1, h16⟩ ((roster_nodup_iff named).2 hd)),
        State.answer_others (s := s) (e := e) rfl]
      simp only [show (s.setPort p e).rate = s.rate from rfl, setup]
      rfl

end Sys2Proof.Machine
end

section
/-! NEXT (R121, R122) and STORE_SETUP (R111, R112). -/

namespace Sys2Proof.Machine

/-! ### Events raised (R154) -/

/-- R154: a raised event is waiting. -/
theorem PortState.raise_raises (q : PortState) (k : EventKind) : (q.raise k).events.getLsbD (eventBit k) = true := by
  rw [PortState.raise_events, BitVec.getLsbD_or]
  cases k <;> simp [eventOf, eventBit]

/-- R154: an event that waits keeps waiting when another is raised. -/
theorem PortState.raise_keeps {q : PortState} {b : Nat} (h : q.events.getLsbD b = true) (k : EventKind) :
    (q.raise k).events.getLsbD b = true := by
  rw [PortState.raise_events, BitVec.getLsbD_or, h, Bool.true_or]

/-! ### NEXT (R121, R122, R124) -/

section
variable {s : State} {p : Port} {w : Byte}

/-- R121: NEXT without a subscription. -/
theorem nextRule_state (h : (s.feed p).subscription = none) : nextRule p [w] s = (s, .refuse .state) := by
  simp only [nextRule, h]

section
variable {f : Feed} (h : (s.feed p).subscription = some f)
include h

/-- R121: NEXT with a cursor record. -/
theorem nextRule_record {r : RecordId} (hc : (s.feed p).cursor = some r) :
    nextRule p [w] s = (s.setFeed p { s.feed p with
      arming := true, lost := 0, wait := none, transfer := some ⟨r, s.storedSize r, 0, false⟩ },
      .response ⟨.ok, .record (s.feed p).lost r (s.storedSize r)⟩) := by
  simp only [nextRule, h, hc]
  rfl

/-- R121, R31: NEXT without a cursor record that does not wait. -/
theorem nextRule_none (hc : (s.feed p).cursor = none) (hw : w.toNat = 0 ∨ s.timebase.position = lastPosition) :
    nextRule p [w] s = (s.setFeed p { s.feed p with arming := true, lost := 0 },
      .response (Response.of .none (bytesOf 2 (s.feed p).lost))) := by
  simp only [nextRule, h, hc, if_pos hw]
  rfl

/-- R122: NEXT without a cursor record that waits. -/
theorem nextRule_waits (hc : (s.feed p).cursor = none) (hw : ¬ (w.toNat = 0 ∨ s.timebase.position = lastPosition)) :
    nextRule p [w] s = (s.setFeed p { s.feed p with arming := true, wait := some (min w.toNat 15) }, .waits) := by
  simp only [nextRule, h, hc, if_neg hw]

end

/-- R146: a response after a change of the port's own feed state. -/
theorem State.answer_setFeed (s : State) (p : Port) (e : PortState) (x : FeedState) (r : Response) :
    ((s.setPort p e).setFeed p x).answer p (.response r) =
      { s with feeds := s.feeds.set p x, ports := s.portsAfter p (e.respond r) id } := by
  cases p <;> rfl

/-- R148: a wait begun after a change of the port's own feed state. -/
theorem State.waits_setFeed (s : State) (p : Port) (e : PortState) (x : FeedState) :
    ((s.setPort p e).setFeed p x).answer p .waits = { s with
      feeds := s.feeds.set p x
      ports := s.portsAfter p { e with phase := .waiting, readyHigh := false, rx := ReceiveBuffer.empty } id } := by
  cases p <;> rfl

/-- R121: NEXT in hand with a cursor record. -/
theorem exec_next_record {clocks : List Lanes} {e : PortState} {f : Feed} {r : RecordId}
    (h : s.commandAt p clocks .next [w] e) (hf : (s.feed p).subscription = some f) (hc : (s.feed p).cursor = some r) :
    exec (.next p clocks) s = .next { s with
      feeds := s.feeds.set p { s.feed p with
        arming := true, lost := 0, wait := none, transfer := some ⟨r, s.storedSize r, 0, false⟩ }
      ports := s.portsAfter p { e with
        phase := .responseReady, readyHigh := true, sent := 0, rx := ReceiveBuffer.empty
        response := some ⟨.ok, .record (s.feed p).lost r (s.storedSize r)⟩ } id } := by
  rw [exec_answersNow (i := .next p clocks) rfl h rfl (by simp) rfl (nextRule_record (s := s.setPort p e) hf hc),
    State.answer_setFeed]
  rfl

end

/-- Settles O57, by the subscription, the cursor and the wait that NEXT finds. -/
theorem nextFetchesTheCursor : Obligations.NextFetchesTheCursor := by
  intro s p clocks e w h answered
  refine ⟨fun hf => ?_, fun f r hf hc => exec_next_record h hf hc, fun f before after r hf hc hr first => ?_,
    fun f hf hc => ⟨fun hw => ?_, fun hw hl => ?_⟩⟩
  · exact exec_refuses (i := .next p clocks) rfl h rfl (by simp) rfl (nextRule_state (s := s.setPort p e) hf)
  · rw [exec_next_record h hf hc, State.storedSize_of_ring hr first]
  · have now : w.toNat = 0 ∨ s.timebase.position = lastPosition := hw.imp_left fun zero => by rw [zero]; rfl
    rw [exec_answersNow (i := .next p clocks) rfl h rfl (by simp) rfl (nextRule_none (s := s.setPort p e) hf hc now),
      State.answer_setFeed]
    rfl
  · have later : ¬ (w.toNat = 0 ∨ s.timebase.position = lastPosition) := by
      rintro (zero | last)
      · exact hw (BitVec.eq_of_toNat_eq zero)
      · exact hl last
    rw [exec_answersNow (i := .next p clocks) rfl h rfl (by simp) rfl (nextRule_waits (s := s.setPort p e) hf hc later),
      State.waits_setFeed]
    rfl

/-! ### New region sizes (R112) -/

/-- R118: the records a port holds in the two regions, those of the archive first. -/
def State.held (s : State) (q : Port) : List Record := heldBy s.store.archive.ring q ++ heldBy s.store.stream.ring q

/-- R112: a port that held nothing loses nothing. -/
@[simp] theorem FeedState.loseAll_nil (f : FeedState) : f.loseAll [] = f := rfl

/-- R112, R123: what a port that held records keeps. -/
theorem FeedState.loseAll_eq (f : FeedState) {held : List Record} (h : held ≠ []) :
    f.loseAll held = { f with
      cursor := none, lost := min (f.lost + held.length) 65535, lastTaken := held.getLast?.map Record.id
      transfer := f.transfer.map fun x =>
        if x.id ∈ held.map Record.id ∧ x.reached < x.size then { x with cut := true } else x } := by
  rw [← foldl_cutTransfer]
  simp only [FeedState.loseAll, List.getLast?_eq_getLast_of_ne_nil h]
  rfl

section
variable (s : State) (p q : Port) (held : List Record)

/-- R112: the feed state of each port after the losses of one. -/
theorem State.loseAllAt_feed : (s.loseAllAt p held).feed q = if q = p then (s.feed q).loseAll held else s.feed q := by
  cases held with
  | nil => simp [State.loseAllAt]
  | cons r rest =>
    rw [State.loseAllAt, if_neg (by simp), State.raiseAt, State.setPort_feed, State.feed_setFeed]
    split
    · next same => rw [same]
    · rfl

/-- R112, R154: a port after the losses it is told of. -/
def PortState.lagging (q : PortState) (held : List Record) : PortState := if held = [] then q else q.raise .lagged

/-- R112, R154: each port after the losses of one. -/
theorem State.loseAllAt_port : (s.loseAllAt p held).port q = if q = p then (s.port q).lagging held else s.port q := by
  cases held with
  | nil => simp [State.loseAllAt, PortState.lagging]
  | cons r rest =>
    rw [State.loseAllAt, if_neg (by simp), State.raiseAt, State.port_setPort]
    split
    · next same => rw [same]; exact (if_neg (by simp)).symm
    · rfl

/-- R112: the losses of one port leave all but the feed states and the ports. -/
theorem State.loseAllAt_eq :
    s.loseAllAt p held = { s with feeds := (s.loseAllAt p held).feeds, ports := (s.loseAllAt p held).ports } := by
  unfold State.loseAllAt
  split <;> rfl

variable (ra rs : Nat)

/-- R112: each port's feed state after the two regions are formed anew. -/
theorem State.reformRegions_feed : (s.reformRegions ra rs).feed q = (s.feed q).loseAll (s.held q) := by
  simp only [State.reformRegions, State.loseAllAt_feed]
  cases q <;> rfl

/-- R112, R154: each port after the two regions are formed anew. -/
theorem State.reformRegions_port : (s.reformRegions ra rs).port q = (s.port q).lagging (s.held q) := by
  simp only [State.reformRegions, State.loseAllAt_port]
  cases q <;> rfl

/-- R112: regions formed anew are empty, and the rest but the feed states and the ports is left. -/
theorem State.reformRegions_eq : s.reformRegions ra rs = { s with
    store := ⟨⟨ra, [], none, 0, s.store.archive.lastPublished⟩, ⟨rs, [], none, ra, s.store.stream.lastPublished⟩⟩
    feeds := (s.reformRegions ra rs).feeds, ports := (s.reformRegions ra rs).ports } := by
  rw [State.reformRegions, State.loseAllAt_eq, State.loseAllAt_eq (p := .p1), State.loseAllAt_eq (p := .p0)]

/-- R118, R127: the number of records a port holds. -/
theorem State.heldCount_eq : s.heldCount q = (s.held q).length := List.length_append.symm

/-- R118: the records a port holds, of both regions together. -/
theorem State.held_eq : s.held q = (s.store.archive.ring ++ s.store.stream.ring).filter fun x => x.holders.get q :=
  (List.filter_append ..).symm

end

/-! ### STORE_SETUP (R111) -/

section
variable {s : State} {p : Port} {a b c d : Byte}

/-- R41: STORE_SETUP in a take. -/
theorem storeSetupRule_busy (h : s.take.state ≠ .idle) : storeSetupRule p [a, b, c, d] s = (s, .refuse .busy) := if_pos h

section
variable (h : s.take.state = .idle)
include h

/-- R111: STORE_SETUP of sizes outside their limits. -/
theorem storeSetupRule_range (hr : numberOf [a, b] < 64 ∨ numberOf [c, d] < 16 ∨ 2048 < numberOf [a, b] + numberOf [c, d]) :
    storeSetupRule p [a, b, c, d] s = (s, .refuse .range) := by
  have outside : ¬ sizesAccepted (numberOf [a, b]) (numberOf [c, d]) = true := by
    simp only [sizesAccepted, Bool.and_eq_true, decide_eq_true_eq]
    omega
  exact (if_neg (not_not.2 h)).trans (if_neg outside)

section
variable (hr : 64 ≤ numberOf [a, b] ∧ 16 ≤ numberOf [c, d] ∧ numberOf [a, b] + numberOf [c, d] ≤ 2048)
include hr

/-- R111: STORE_SETUP accepted, answered with the sizes as they came. -/
theorem storeSetupRule_ok : storeSetupRule p [a, b, c, d] s =
    ((if numberOf [a, b] = s.store.archive.size ∧ numberOf [c, d] = s.store.stream.size then s
      else s.reformRegions (numberOf [a, b]) (numberOf [c, d])).raiseOthers .configChange p, .ok [a, b, c, d]) := by
  have inside : sizesAccepted (numberOf [a, b]) (numberOf [c, d]) = true := by
    simp only [sizesAccepted, Bool.and_eq_true, decide_eq_true_eq]
    omega
  have sizes : bytesOf 2 (numberOf [a, b]) ++ bytesOf 2 (numberOf [c, d]) = [a, b, c, d] := by
    have first := bytesOf_numberOf [a, b]
    have second := bytesOf_numberOf [c, d]
    simp only [List.length_cons, List.length_nil] at first second
    rw [first, second]
    rfl
  exact ((if_neg (not_not.2 h)).trans (if_pos inside)).trans (by rw [sizes])

/-- R111: STORE_SETUP of the present sizes. -/
theorem storeSetupRule_same (hs : numberOf [a, b] = s.store.archive.size ∧ numberOf [c, d] = s.store.stream.size) :
    storeSetupRule p [a, b, c, d] s = (s.raiseOthers .configChange p, .ok [a, b, c, d]) := by
  rw [storeSetupRule_ok h hr, if_pos hs]

/-- R112: STORE_SETUP of other sizes. -/
theorem storeSetupRule_reforms
    (hs : ¬ (numberOf [a, b] = s.store.archive.size ∧ numberOf [c, d] = s.store.stream.size)) :
    storeSetupRule p [a, b, c, d] s =
      ((s.reformRegions (numberOf [a, b]) (numberOf [c, d])).raiseOthers .configChange p, .ok [a, b, c, d]) := by
  rw [storeSetupRule_ok h hr, if_neg hs]

end

end

/-- R112: an event raised and an answer leave every feed state. -/
theorem State.answer_raiseOthers_feed (u : State) (p q : Port) (a : Answer) (k : EventKind) :
    ((u.raiseOthers k p).answer p a).feed q = u.feed q := by
  cases a <;> rfl

/-- R154: CONFIG_CHANGE at a port other than the one of the command, after its answer. -/
theorem State.answer_raiseOthers_port (u : State) (p q : Port) (r : Response) (k : EventKind) :
    ((u.raiseOthers k p).answer p (.response r)).port q =
      if q = p then (u.port p).respond r else (u.port q).raise k := by
  cases p <;> cases q <;> rfl

end

/-- Settles O55: each port loses what it held, and then the command is answered. -/
theorem storeSetupReformsTheRegions : Obligations.StoreSetupReformsTheRegions := by
  intro s p clocks e a b c d h ra rs
  refine ⟨fun hb => ?_, fun hi hr => ?_, fun hi hra hrs hsum => ⟨fun hA hS => ?_, fun change => ?_⟩⟩
  · exact exec_refuses (i := .storeSetup p clocks) rfl h rfl (by simp) rfl (storeSetupRule_busy (s := s.setPort p e) hb)
  · exact exec_refuses (i := .storeSetup p clocks) rfl h rfl (by simp) rfl (storeSetupRule_range (s := s.setPort p e) hi hr)
  · rw [exec_answersNow (i := .storeSetup p clocks) rfl h rfl (by simp) rfl
      (storeSetupRule_same (s := s.setPort p e) hi ⟨hra, hrs, hsum⟩ ⟨hA, hS⟩)]
    exact congrArg _ (State.answer_others (s := s) (e := e) rfl ..)
  · have feeds : ∀ q, ((s.setPort p e).reformRegions ra rs).feed q = (s.feed q).loseAll (s.held q) :=
      fun q => State.reformRegions_feed ..
    have ports : ∀ q, ((s.setPort p e).reformRegions ra rs).port q = ((s.setPort p e).port q).lagging (s.held q) :=
      fun q => State.reformRegions_port ..
    refine ⟨_, exec_answersNow (i := .storeSetup p clocks) rfl h rfl (by simp) rfl
      (storeSetupRule_reforms (s := s.setPort p e) hi ⟨hra, hrs, hsum⟩ (not_and_or.2 change)), ?_, ?_,
      fun q => ⟨fun other => ?_, ?_, fun empty => ?_, fun some => ?_⟩⟩
    · rw [State.reformRegions_eq]
      rfl
    · rw [Answer.ok, State.answer_raiseOthers_port, if_pos rfl]
      rfl
    · rw [Answer.ok, State.answer_raiseOthers_port, if_neg other]
      exact PortState.raise_raises ..
    · rw [State.heldCount_eq, State.held_eq]
    · have nothing : s.held q = [] := List.length_eq_zero_iff.1 (by rwa [← State.heldCount_eq])
      rw [State.answer_raiseOthers_feed, feeds, nothing, FeedState.loseAll_nil]
    · have held : s.held q ≠ [] := fun nothing => some (by rw [State.heldCount_eq, nothing]; rfl)
      rw [State.answer_raiseOthers_feed, feeds, FeedState.loseAll_eq _ held, ← State.held_eq]
      refine ⟨rfl, by rw [State.heldCount_eq], rfl, rfl, rfl, rfl, rfl, ?_⟩
      have told : (((s.setPort p e).reformRegions ra rs).port q).events.getLsbD (eventBit .lagged) = true := by
        rw [ports, PortState.lagging, if_neg held]
        exact PortState.raise_raises ..
      rw [Answer.ok, State.answer_raiseOthers_port]
      split
      · next same => subst same; exact told
      · exact PortState.raise_keeps told _

end Sys2Proof.Machine
end

section
/-! Publication of the record being written, what the engine goes on with (R119, R78, R80), and RECORD_PUBLICATION. -/

namespace Sys2Proof.Machine

/-! ### Publication (R119, R122, R124) -/

/-- A state that differs from another in the store, the feed states and the ports alone. -/
theorem State.eq_of_leaves {s u : State} (h : u.links = s.links ∧ u.timebase = s.timebase ∧ u.take = s.take ∧
    u.framer = s.framer ∧ u.mix = s.mix ∧ u.engine = s.engine ∧ u.rate = s.rate ∧ u.cues = s.cues ∧ u.now = s.now ∧
    u.resetHeld = s.resetHeld ∧ u.pending = s.pending) :
    u = { s with store := u.store, feeds := u.feeds, ports := u.ports } := by
  obtain ⟨links, timebase, take, framer, mix, engine, rate, cues, now, resetHeld, pending⟩ := h
  cases u
  simp only at links timebase take framer mix engine rate cues now resetHeld pending
  subst links timebase take framer mix engine rate cues now resetHeld pending
  rfl

section
variable {s : State} {f : Feed}

/-- R119: no port is subscribed to the feed. -/
theorem State.noHolders_iff : noHolders (s.holdersOf f) = true ↔ ∀ p, (s.feed p).subscription ≠ some f := by
  simp only [noHolders, Bool.and_eq_true, Bool.not_eq_true', State.holdersOf, PerPort.of, decide_eq_false_iff_not]
  refine ⟨fun ⟨⟨h0, h1⟩, h2⟩ p => ?_, fun h => ⟨⟨h .p0, h .p1⟩, h .p2⟩⟩
  cases p
  · exact h0
  · exact h1
  · exact h2

variable (s) in
/-- R119: a record published to the three ports in turn. -/
def State.publishToAll (id : RecordId) (size : Nat) : State :=
  ((s.publishTo .p0 id size).publishTo .p1 id size).publishTo .p2 id size

variable (s) in
/-- R119, R122, R124: each port's feed state after a record is published to the three. -/
theorem State.publishToAll_feed (q : Port) (id : RecordId) (size : Nat) : (s.publishToAll id size).feed q =
    (s.publishTo q id size).feed q := by
  simp only [State.publishToAll, State.publishTo_feed]
  cases q <;> simp

variable (s) in
/-- R119, R122, R124: each port after a record is published to the three. -/
theorem State.publishToAll_port (q : Port) (id : RecordId) (size : Nat) : (s.publishToAll id size).port q =
    (s.publishTo q id size).port q := by
  simp only [State.publishToAll, State.publishTo_port, State.publishTo_feed]
  cases q <;> simp

/-- R119: the publication of the FILLING record of a region. -/
theorem State.publish_publishes {r : Record} (hr : (s.region r.id.feed).filling = some r) :
    s.Publishes (s.publish r.id.feed) r := by
  have frame := State.eq_of_leaves (s.publish_frame r.id.feed)
  cases empty : noHolders (s.holdersOf r.id.feed) with
  | true =>
    have dropped := State.publish_dropped hr empty
    have none := State.noHolders_iff.1 empty
    exact ⟨frame, fun _ => dropped, fun ⟨p, hp⟩ => absurd hp (none p), fun p _ => by simp [dropped],
      fun p hp => absurd hp (none p)⟩
  | false =>
    have held : s.publish r.id.feed = (s.setRegion r.id.feed { s.region r.id.feed with
        filling := none, lastPublished := some r.id
        ring := (s.region r.id.feed).ring ++ [{ r with state := .held, holders := s.holdersOf r.id.feed }] }).publishToAll
          r.id r.bytes.length := State.publish_held hr empty
    refine ⟨frame, fun h => ?_, fun _ => ?_, fun p hp => ?_, fun p hp => ?_⟩
    · rw [State.noHolders_iff.2 h] at empty
      cases empty
    · simp only [held, State.publishToAll, State.publishTo_frame]
      rfl
    · rw [held, State.publishToAll_feed, State.publishToAll_port, State.publishTo_other (by exact hp)]
      exact ⟨rfl, rfl⟩
    · simp only [held, State.publishToAll_feed, State.publishToAll_port, State.publishTo_feed, State.publishTo_port,
        State.setRegion_feed, State.setRegion_port, hp, and_self, ↓reduceIte]
      refine ⟨fun hw => ⟨?_, ?_⟩, fun k hw => ⟨?_, ?_⟩⟩
      · simp only [hw, Option.isSome_none, Bool.false_eq_true, ↓reduceIte]
        cases (s.feed p).cursor <;> rfl
      · simp only [hw, Option.isSome_none, Bool.false_eq_true, ↓reduceIte]
      · simp only [hw, Option.isSome_some, ↓reduceIte]
        cases (s.feed p).cursor <;> rfl
      · simp only [hw, Option.isSome_some, ↓reduceIte]
        rfl

/-- R119: the publication of the FILLING record of the region of feed `f`. -/
theorem State.publish_publishes_of {r : Record} (feed : r.id.feed = f) (hr : (s.region f).filling = some r) :
    s.Publishes (s.publish f) r := by
  subst feed
  exact State.publish_publishes hr

end

/-! ### The engine after a publication (R78, R80) -/

section
variable {s u : State} {r : Record}

/-- R96, R119: the record being written, of either feed, is published and the engine's job goes on. -/
theorem State.publishNext_eq (stream : s.store.stream.filling = if r.id.feed = .stream then some r else none)
    (archive : r.id.feed = .archive → s.store.archive.filling = some r) :
    (s.region r.id.feed).filling = some r ∧ s.publishNext = (s.publish r.id.feed).jobPublished r.id.feed := by
  cases hf : r.id.feed with
  | stream =>
    rw [hf, if_pos rfl] at stream
    exact ⟨stream, by rw [State.publishNext, if_pos (by rw [stream]; rfl)]⟩
  | archive =>
    rw [hf, if_neg (by decide)] at stream
    have filling := archive hf
    exact ⟨filling, by
      rw [State.publishNext, if_neg (by rw [stream]; simp), if_pos (by rw [filling]; rfl)]⟩

/-- R78: the archive job follows the stream job. -/
theorem State.jobPublished_stream (h : u.engine.state = .stream) (f : Feed) :
    u.jobPublished f = { u with engine := { u.engine with state := .archive } } := by
  simp only [State.jobPublished, h]

/-- R80: the archive END follows the stream END. -/
theorem State.jobPublished_endStream {j : EndJob} (h : u.engine.state = .ending) (hj : u.engine.endJob = some j) :
    u.jobPublished .stream = { u with engine := { u.engine with endJob := some { j with streamDone := true } } } := by
  simp only [State.jobPublished, h, hj]
  rfl

/-- R38: the take ends with its archive END. -/
theorem State.jobPublished_endArchive (h : u.engine.state = .ending) : u.jobPublished .archive = u.endTake := by
  simp only [State.jobPublished, h]

/-- R38, R40: a take in progress becomes IDLE. -/
theorem State.endTake_eq (h : u.take.state ≠ .idle) : u.endTake = { u with
    engine := { u.engine with state := .idle, endJob := none }
    take := { u.take with state := .idle, gathering := false, endRequest := .none }
    ports := u.portsRaised .takeChange } := by
  rw [State.endTake, State.toTake_eq, if_neg h]
  rfl

/-- R38, R80: the END records are requested of a CLOSING take that gathers nothing, with no block in coding. -/
theorem State.requestEnd_due (h : u.take.state = .closing ∧ u.take.gathering = false) (hb : u.engine.block = none)
    (hs : u.engine.state = .idle) : u.requestEnd = { u with engine := { u.engine with
      state := .ending, endJob := some ⟨decide (u.take.endRequest = .abort), false⟩ } } :=
  if_pos ⟨h.1, h.2, hb, hs⟩

/-- R38: the END records are not requested of a take that gathers, or is not CLOSING. -/
theorem State.requestEnd_notDue (h : ¬ (u.take.state = .closing ∧ u.take.gathering = false)) : u.requestEnd = u :=
  if_neg fun due => h ⟨due.1, due.2.1⟩

/-- R78: the archive job of a block completes. -/
theorem State.jobPublished_archive {i : BufferId} (h : u.engine.state = .archive) (hi : u.engine.block = some i) (f : Feed) :
    u.jobPublished f = State.requestEnd { u with
      framer := u.framer.setBuffer i { u.framer.buffer i with state := .free }
      engine := { u.engine with state := .idle, block := none, archiveQueued := false, cueCopy := [] } } := by
  simp only [State.jobPublished, h, State.completeArchive, hi]
  rfl

end

/-- Settles O54, by the publication and what the engine does after it. -/
theorem recordsArePublished : Obligations.RecordsArePublished := by
  intro s r hrun stream archive
  obtain ⟨filling, next⟩ := State.publishNext_eq stream archive
  have row : exec .recordPublication s = .next ((s.publish r.id.feed).jobPublished r.id.feed) := by
    rw [← next]
    exact congrArg Host.Outcome.next (if_neg (by simp [hrun]))
  obtain ⟨-, -, htake, hframer, -, hengine, -⟩ := s.publish_frame r.id.feed
  refine ⟨s.publish r.id.feed, State.publish_publishes filling, fun hs _ => ?_, fun i hs hi hf => ?_, fun j hs hj => ?_⟩
  · rw [row, State.jobPublished_stream (by rwa [hengine]), hengine]
  · rw [row, State.jobPublished_archive (i := i) (by rwa [hengine]) (by rwa [hengine]), hengine, hframer]
    exact ⟨fun due => by rw [State.requestEnd_due (by rwa [htake]) rfl rfl, htake],
      fun due => by rw [State.requestEnd_notDue (by rwa [htake])]⟩
  · refine ⟨fun hf => ?_, fun hf closing => ?_⟩
    · rw [row, hf, State.jobPublished_endStream (j := j) (by rw [← hf, hengine]; exact hs) (by rw [← hf, hengine]; exact hj),
        ← hf, hengine]
    · rw [row, hf, State.jobPublished_endArchive (by rw [← hf, hengine]; exact hs),
        State.endTake_eq (by rw [← hf, htake, closing]; decide), ← hf, hengine, htake]

end Sys2Proof.Machine
end

section
/-! The END records of a take that follow at once (R38, R39, R80), and ABORT. -/

namespace Sys2Proof.Machine

/-! ### One END record, written and published -/

/-- R116: a removal touches the region of its feed alone. -/
theorem State.removeHead_region_ne (s : State) {f g : Feed} (h : g ≠ f) : (s.removeHead f).region g = s.region g := by
  cases hr : (s.region f).ring with
  | nil => simp only [State.removeHead, hr]
  | cons a rest =>
    rw [← State.store_region, State.removeHead_store hr]
    exact State.region_setRegion_ne s _ h

/-- R115: room is made in the region of the feed alone. -/
theorem State.makeRoom_region_ne {f g : Feed} (h : g ≠ f) (pages steps : Nat) (s : State) :
    (s.makeRoom f pages steps).region g = s.region g := by
  induction steps generalizing s with
  | zero => rfl
  | succ n ih =>
    rw [State.makeRoom]
    split
    · rw [ih, State.removeHead_region_ne s h]
    · rfl

/-- R115: a placement touches the region of its feed alone. -/
theorem State.place_region_ne (s : State) (kind : RecordKind) {id : RecordId} (bytes : List Byte) {g : Feed}
    (h : g ≠ id.feed) : (s.place kind id bytes).region g = s.region g := by
  rw [State.place, State.region_setRegion_ne _ _ h, State.makeRoom_region_ne h]

/-- R115: the record that a placement leaves FILLING. -/
theorem State.place_filling (s : State) (kind : RecordKind) (id : RecordId) (bytes : List Byte) :
    ∃ r : Record, ((s.place kind id bytes).region id.feed).filling = some r ∧ r.id = id := by
  rw [State.place_region]
  exact ⟨_, rfl, rfl⟩

/-- R80, R115, R119: the END record of feed `f` placed and published. -/
def State.writeEnd (s : State) (f : Feed) (aborted : Bool) : State :=
  (s.place .ending ⟨f, s.take.number, s.take.sequence⟩ (s.endRecord f aborted).bytes).publish f

section
variable (s : State) (f : Feed) (aborted : Bool)

/-- R80, R161: an END record is its header. -/
theorem length_endRecord : (s.endRecord f aborted).bytes.length = 32 := length_headerBytes _

/-- R80: an END record leaves all but the store, the feed states and the ports. -/
theorem State.writeEnd_frame : (s.writeEnd f aborted).links = s.links ∧ (s.writeEnd f aborted).timebase = s.timebase ∧
    (s.writeEnd f aborted).take = s.take ∧ (s.writeEnd f aborted).framer = s.framer ∧
    (s.writeEnd f aborted).mix = s.mix ∧ (s.writeEnd f aborted).engine = s.engine ∧ (s.writeEnd f aborted).rate = s.rate ∧
    (s.writeEnd f aborted).cues = s.cues ∧ (s.writeEnd f aborted).now = s.now ∧
    (s.writeEnd f aborted).resetHeld = s.resetHeld ∧ (s.writeEnd f aborted).pending = s.pending := by
  simp [State.writeEnd]

/-- R119: the publication of a record of feed `f`, as it stands after its placement. -/
theorem State.writeEnd_publishes : ∃ r : Record, r.id = ⟨f, s.take.number, s.take.sequence⟩ ∧
    (s.place .ending ⟨f, s.take.number, s.take.sequence⟩ (s.endRecord f aborted).bytes).Publishes
      (s.writeEnd f aborted) r := by
  obtain ⟨r, filling, hid⟩ := s.place_filling .ending ⟨f, s.take.number, s.take.sequence⟩ (s.endRecord f aborted).bytes
  have feed : r.id.feed = f := by rw [hid]
  refine ⟨r, hid, ?_⟩
  exact State.publish_publishes_of feed filling

/-- R119: nothing of the feed is FILLING after its END record, which is the last published. -/
theorem State.writeEnd_region : ((s.writeEnd f aborted).region f).filling = none ∧
    ((s.writeEnd f aborted).region f).lastPublished = some ⟨f, s.take.number, s.take.sequence⟩ := by
  obtain ⟨r, hid, published⟩ := s.writeEnd_publishes f aborted
  have feed : r.id.feed = f := by rw [hid]
  obtain ⟨-, dropped, kept, -, -⟩ := published
  rw [feed, hid] at dropped kept
  by_cases held : ∃ p, ((s.place .ending ⟨f, s.take.number, s.take.sequence⟩ (s.endRecord f aborted).bytes).feed
      p).subscription = some f
  · have after := congrArg (fun st => Store.region st f) (kept held)
    rw [← State.store_region]
    dsimp only at after
    rw [after]
    cases f <;> exact ⟨rfl, rfl⟩
  · rw [dropped (not_exists.1 held), State.region_setRegion_self]
    exact ⟨rfl, rfl⟩

/-- R115, R119: the other feed's region is left. -/
theorem State.writeEnd_region_ne {g : Feed} (h : g ≠ f) : (s.writeEnd f aborted).region g = s.region g := by
  have placed := s.place_region_ne .ending (id := ⟨f, s.take.number, s.take.sequence⟩) (s.endRecord f aborted).bytes h
  obtain ⟨r, hid, published⟩ := s.writeEnd_publishes f aborted
  have feed : r.id.feed = f := by rw [hid]
  obtain ⟨-, dropped, kept, -, -⟩ := published
  rw [feed] at dropped kept
  rw [← placed]
  by_cases held : ∃ p, ((s.place .ending ⟨f, s.take.number, s.take.sequence⟩ (s.endRecord f aborted).bytes).feed
      p).subscription = some f
  · rw [← State.store_region, kept held]
    exact State.region_setRegion_ne _ _ h
  · rw [dropped (not_exists.1 held)]
    exact State.region_setRegion_ne _ _ h

end

/-! ### The END records at once (R38, R39) -/

/-- R80: the engine with an END job. -/
def State.ending (s : State) (j : EndJob) : State :=
  { s with engine := { s.engine with state := .ending, endJob := some j } }

/-- R80: an END job that goes on. -/
theorem State.ending_eq {s : State} (h : s.engine.state = .ending) (j : EndJob) :
    s.ending j = { s with engine := { s.engine with endJob := some j } } := by
  rw [State.ending, ← h]

/-- R80: the feed of the END record that comes next. -/
def EndJob.feed (j : EndJob) : Feed := if j.streamDone then .archive else .stream

section
variable {s : State} (hA : s.store.archive.filling = none) (hS : s.store.stream.filling = none)
include hA hS

/-- R80: the END job places and publishes its next record, and goes on. -/
theorem State.ending_publishNext (j : EndJob) :
    (s.ending j).placeNext.publishNext = ((s.ending j).writeEnd j.feed j.aborted).jobPublished j.feed := by
  have placed : (s.ending j).placeNext =
      (s.ending j).place .ending ⟨j.feed, s.take.number, s.take.sequence⟩ ((s.ending j).endRecord j.feed j.aborted).bytes :=
    if_neg (by simp [State.ending, hA, hS])
  obtain ⟨r, filling, hid⟩ := (s.ending j).place_filling .ending ⟨j.feed, s.take.number, s.take.sequence⟩
    ((s.ending j).endRecord j.feed j.aborted).bytes
  have feed : r.id.feed = j.feed := by rw [hid]
  have filled : ∀ g, (((s.ending j).place .ending ⟨j.feed, s.take.number, s.take.sequence⟩
      ((s.ending j).endRecord j.feed j.aborted).bytes).region g).filling = if r.id.feed = g then some r else none := by
    intro g
    rw [feed]
    split
    · next same => subst same; exact filling
    · next other =>
      rw [State.place_region_ne _ _ _ (Ne.symm other)]
      cases g
      · exact hA
      · exact hS
  rw [placed, (State.publishNext_eq (r := r) (filled .stream) fun archive => (filled .archive).trans (if_pos archive)).2,
    feed]
  rfl

end

/-! ### What an END record does to its feed (R119, R122, R124) -/

/-- R80, R119, R122, R124: `w` is `s` after the END record `id` of feed `f`, with these bytes, as the feed's region and its
subscribers have it: no subscriber, and only the identity last published changes; else the record is the newest of the
ring, each subscriber has it as its cursor if it had none, an armed one has REC_READY and one that waited has the answer. -/
structure State.EndsFeed (s w : State) (f : Feed) (id : RecordId) (bytes : List Byte) : Prop where
  spent : (∀ q, (s.feed q).subscription ≠ some f) → w.region f = { s.region f with lastPublished := some id }
  kept : (∃ q, (s.feed q).subscription = some f) → ∃ r : Record,
    (w.region f).ring = (s.region f).ring ++ [r] ∧ (w.region f).lastPublished = some id ∧ (w.region f).filling = none ∧
    r.id = id ∧ r.kind = .ending ∧ r.state = .held ∧ r.pages = 1 ∧ r.bytes = bytes ∧
    ∀ q, r.holders.get q = decide ((s.feed q).subscription = some f)
  told : ∀ q, (s.feed q).subscription = some f →
    (w.feed q).arming = false ∧ (w.feed q).wait = none ∧ (w.feed q).cursor = some ((s.feed q).cursor.getD id) ∧
    ((s.feed q).arming = true → (w.port q).events.getLsbD (eventBit .recReady) = true) ∧
    ∀ k, (s.feed q).wait = some k → (w.port q).phase = .responseReady ∧
      (w.port q).response = some ⟨.ok, .record (s.feed q).lost id bytes.length⟩

section
variable {s v w : State} {f : Feed} {id : RecordId} {bytes : List Byte}

/-- An END record of a feed, seen from a state before it with the same region and the same subscribers. -/
theorem State.EndsFeed.before (h : v.EndsFeed w f id bytes) (hr : v.region f = s.region f)
    (subs : ∀ q, (v.feed q).subscription = (s.feed q).subscription)
    (feeds : ∀ q, (s.feed q).subscription = some f → v.feed q = s.feed q) : s.EndsFeed w f id bytes := by
  obtain ⟨spent, kept, told⟩ := h
  simp only [subs, hr] at spent kept told
  exact ⟨spent, kept, fun q hq => by simpa only [feeds q hq] using told q hq⟩

/-- R154: an event stays at a port at which only events are raised. -/
theorem PortState.sameTransaction.keeps {a b : PortState} (h : a.sameTransaction b) {n : Nat}
    (hn : a.events.getLsbD n = true) : b.events.getLsbD n = true := by
  have both := congrArg (fun e => BitVec.getLsbD e n) h.2
  simp only [BitVec.getLsbD_and, hn, Bool.true_and] at both
  exact both

/-- An END record of a feed, seen from a state after it with the same region, the same subscribers, and events raised at
most. -/
theorem State.EndsFeed.after (h : s.EndsFeed v f id bytes) (hr : w.region f = v.region f)
    (same : ∀ q, (s.feed q).subscription = some f → w.feed q = v.feed q ∧ (v.port q).sameTransaction (w.port q)) :
    s.EndsFeed w f id bytes := by
  obtain ⟨spent, kept, told⟩ := h
  refine ⟨by rwa [hr], by rwa [hr], fun q hq => ?_⟩
  obtain ⟨hfeed, hport⟩ := same q hq
  obtain ⟨arming, wait, cursor, recReady, answered⟩ := told q hq
  rw [hfeed]
  refine ⟨arming, wait, cursor, fun armed => hport.keeps (recReady armed), fun k hk => ?_⟩
  rw [hport.1]
  exact answered k hk

end

section
variable {s : State} {f : Feed} (free : 1 ≤ (s.region f).free) (aborted : Bool)
include free

/-- R96, R115: an END record is one page, placed without a removal. -/
theorem State.writeEnd_held : ∃ r : Record, ∃ next : Nat, r.id = ⟨f, s.take.number, s.take.sequence⟩ ∧ r.kind = .ending ∧
    r.bytes = (s.endRecord f aborted).bytes ∧ r.pages = 1 ∧ r.firstPage = (s.region f).writePoint ∧
    (s.setRegion f { s.region f with filling := some r, writePoint := next }).Publishes (s.writeEnd f aborted) r := by
  have one : pagesFor (s.endRecord f aborted).bytes.length = 1 := congrArg pagesFor (length_endRecord ..)
  have placed := State.place_enough (id := ⟨f, s.take.number, s.take.sequence⟩) (by rw [one]; exact free)
    (bytes := (s.endRecord f aborted).bytes) .ending
  refine ⟨⟨⟨f, s.take.number, s.take.sequence⟩, .ending, (s.endRecord f aborted).bytes,
    pagesFor (s.endRecord f aborted).bytes.length, (s.region f).writePoint, .filling, PerPort.of fun _ => false⟩,
    wrapPage (s.store.base f) (s.region f).size (s.region f).writePoint (pagesFor (s.endRecord f aborted).bytes.length),
    rfl, rfl, rfl, one, rfl, ?_⟩
  rw [State.writeEnd, placed]
  refine State.publish_publishes_of (f := f) rfl ?_
  rw [State.region_setRegion_self]

/-- R119: a port that is not subscribed to the feed is not told of its END record. -/
theorem State.writeEnd_other {q : Port} (h : (s.feed q).subscription ≠ some f) :
    (s.writeEnd f aborted).feed q = s.feed q ∧ (s.writeEnd f aborted).port q = s.port q := by
  obtain ⟨r, next, hid, -, -, -, -, published⟩ := State.writeEnd_held free aborted
  exact published.others q (by rw [hid]; exact h)

/-- R119: an END record leaves the subscriptions. -/
theorem State.writeEnd_subscription (q : Port) : ((s.writeEnd f aborted).feed q).subscription = (s.feed q).subscription := by
  by_cases h : (s.feed q).subscription = some f
  · obtain ⟨r, next, hid, -, -, -, -, published⟩ := State.writeEnd_held free aborted
    have told := published.holders q (by rw [hid]; exact h)
    cases hw : (s.feed q).wait with
    | none => rw [(told.1 hw).1]; rfl
    | some k => rw [(told.2 k hw).1]; rfl
  · rw [(State.writeEnd_other free aborted h).1]

/-- R80, R119: an END record, as its feed has it. -/
theorem State.writeEnd_endsFeed (empty : (s.region f).filling = none) :
    s.EndsFeed (s.writeEnd f aborted) f ⟨f, s.take.number, s.take.sequence⟩ (s.endRecord f aborted).bytes := by
  obtain ⟨r, next, hid, kind, bytes, pages, first, published⟩ := State.writeEnd_held free aborted
  have feed : r.id.feed = f := by rw [hid]
  obtain ⟨-, dropped, kept, -, holders⟩ := published
  simp only [feed, State.setRegion_feed, State.setRegion_port, State.region_setRegion_self] at dropped kept holders
  refine ⟨fun none => ?_, fun some => ⟨{ r with
      state := .held, holders := PerPort.of fun p => decide ((s.feed p).subscription = .some f) },
    ?_, ?_, ?_, hid, kind, rfl, pages, bytes, fun q => PerPort.get_of ..⟩, fun q hq => ?_⟩
  · rw [dropped none, State.region_setRegion_self, ← hid, first, ← empty]
  · rw [← State.store_region, kept some]
    cases f <;> rfl
  · rw [← State.store_region, kept some, ← hid]
    cases f <;> rfl
  · rw [← State.store_region, kept some]
    cases f <;> rfl
  · obtain ⟨idle, waiting⟩ := holders q hq
    have cursor : (match (s.feed q).cursor with
        | none => some r.id
        | some c => some c) = some ((s.feed q).cursor.getD r.id) := by cases (s.feed q).cursor <;> rfl
    rw [← hid, ← bytes]
    cases hw : (s.feed q).wait with
    | none =>
      obtain ⟨hfeed, hport⟩ := idle hw
      rw [hfeed, hport]
      refine ⟨rfl, hw, cursor, fun armed => ?_, fun k hk => nomatch hk⟩
      simp only [armed, ↓reduceIte]
      exact PortState.raise_raises ..
    | some k =>
      obtain ⟨hfeed, hport⟩ := waiting k hw
      rw [hfeed, hport]
      refine ⟨rfl, rfl, cursor, fun armed => ?_, fun j _ => ?_⟩
      · simp only [armed, ↓reduceIte]
        exact PortState.raise_raises ..
      · by_cases armed : (s.feed q).arming = true
        · simp only [armed, ↓reduceIte]
          exact ⟨rfl, rfl⟩
        · simp only [armed]
          exact ⟨rfl, rfl⟩

end

/-! ### Both END records (R38, R80) -/

section
variable (s : State) (aborted : Bool)

/-- R80: the stream END written. -/
def State.streamEnd : State := (s.ending ⟨aborted, false⟩).writeEnd .stream aborted

/-- R80: the archive END written after the stream END. -/
def State.bothEnds : State := ((s.streamEnd aborted).ending ⟨aborted, true⟩).writeEnd .archive aborted

/-- R80: the stream END leaves the take, the framer and the rates. -/
theorem State.streamEnd_leaves : (s.streamEnd aborted).take = s.take ∧ (s.streamEnd aborted).framer = s.framer ∧
    (s.streamEnd aborted).timebase = s.timebase ∧ (s.streamEnd aborted).rate = s.rate := by
  obtain ⟨-, timebase, take, framer, -, -, rate, -⟩ := (s.ending ⟨aborted, false⟩).writeEnd_frame .stream aborted
  exact ⟨take, framer, timebase, rate⟩

/-- R80: both END records leave the take and the framer. -/
theorem State.bothEnds_leaves : (s.bothEnds aborted).take = s.take ∧ (s.bothEnds aborted).framer = s.framer := by
  obtain ⟨-, -, take, framer, -⟩ := ((s.streamEnd aborted).ending ⟨aborted, true⟩).writeEnd_frame .archive aborted
  obtain ⟨take', framer', -⟩ := s.streamEnd_leaves aborted
  exact ⟨take.trans take', framer.trans framer'⟩

/-- R80, R119: nothing is FILLING after both END records, which are the last published. -/
theorem State.bothEnds_region (f : Feed) : ((s.bothEnds aborted).region f).filling = none ∧
    ((s.bothEnds aborted).region f).lastPublished = some ⟨f, s.take.number, s.take.sequence⟩ := by
  cases f with
  | archive =>
    obtain ⟨take, -⟩ := s.streamEnd_leaves aborted
    rw [← take]
    exact ((s.streamEnd aborted).ending ⟨aborted, true⟩).writeEnd_region .archive aborted
  | stream =>
    rw [State.bothEnds, State.writeEnd_region_ne _ _ _ (show Feed.stream ≠ .archive by decide)]
    exact (s.ending ⟨aborted, false⟩).writeEnd_region .stream aborted

/-- R80: an END record is that of the take, the feed and the rate. -/
theorem State.endRecord_congr {s u : State} (take : u.take = s.take) (timebase : u.timebase = s.timebase)
    (rate : u.rate = s.rate) (f : Feed) (aborted : Bool) : u.endRecord f aborted = s.endRecord f aborted := by
  simp only [State.endRecord, take, timebase, rate]

section
variable {s} (empty : ∀ f, (s.region f).filling = none) (free : ∀ f, 1 ≤ (s.region f).free)
include free

/-- R80, R119: a port without a subscription is not told of the END records. -/
theorem State.bothEnds_other {q : Port} (h : (s.feed q).subscription = none) : (s.bothEnds aborted).feed q = s.feed q := by
  have stream := State.writeEnd_other (s := s.ending ⟨aborted, false⟩) (q := q) (free .stream) aborted
    (by rw [show (s.ending _).feed q = s.feed q from rfl, h]; exact nofun)
  have roomy : 1 ≤ ((s.streamEnd aborted).region .archive).free := by
    rw [State.streamEnd, State.writeEnd_region_ne _ _ _ (show Feed.archive ≠ .stream by decide)]
    exact free .archive
  have archive := State.writeEnd_other (s := (s.streamEnd aborted).ending ⟨aborted, true⟩) (q := q) roomy aborted
    (by rw [show ((s.streamEnd aborted).ending _).feed q = (s.streamEnd aborted).feed q from rfl, State.streamEnd,
      stream.1, show (s.ending _).feed q = s.feed q from rfl, h]; exact nofun)
  exact archive.1.trans stream.1

include empty

/-- R80, R119: each feed has its own END record. -/
theorem State.bothEnds_endsFeed (f : Feed) :
    s.EndsFeed (s.bothEnds aborted) f ⟨f, s.take.number, s.take.sequence⟩ (s.endRecord f aborted).bytes := by
  have archiveLeft := (s.ending ⟨aborted, false⟩).writeEnd_region_ne .stream aborted (g := .archive) (by decide)
  have roomy : 1 ≤ ((s.streamEnd aborted).region .archive).free := by
    rw [State.streamEnd, archiveLeft]
    exact free .archive
  have streamTold : s.EndsFeed (s.streamEnd aborted) .stream ⟨.stream, s.take.number, s.take.sequence⟩
      (s.endRecord .stream aborted).bytes :=
    (State.writeEnd_endsFeed (s := s.ending ⟨aborted, false⟩) (free .stream) aborted (empty .stream)).before rfl
      (fun _ => rfl) fun _ _ => rfl
  have subs : ∀ q, ((s.streamEnd aborted).feed q).subscription = (s.feed q).subscription :=
    State.writeEnd_subscription (s := s.ending ⟨aborted, false⟩) (free .stream) aborted
  cases f with
  | stream =>
    refine streamTold.after (((s.streamEnd aborted).ending ⟨aborted, true⟩).writeEnd_region_ne .archive aborted
      (g := .stream) (by decide)) fun q hq => ?_
    have left := State.writeEnd_other (s := (s.streamEnd aborted).ending ⟨aborted, true⟩) (q := q) roomy aborted
      (by rw [show ((s.streamEnd aborted).ending _).feed q = (s.streamEnd aborted).feed q from rfl, subs, hq]; decide)
    exact ⟨left.1, left.2 ▸ PortState.sameTransaction_refl _⟩
  | archive =>
    have told := State.writeEnd_endsFeed (s := (s.streamEnd aborted).ending ⟨aborted, true⟩) roomy aborted
      ((congrArg Region.filling archiveLeft).trans (empty .archive))
    obtain ⟨take, -, timebase, rate⟩ := s.streamEnd_leaves aborted
    rw [State.endRecord_congr (s := s) (u := (s.streamEnd aborted).ending ⟨aborted, true⟩) take timebase rate] at told
    have named : ((s.streamEnd aborted).ending ⟨aborted, true⟩).take = s.take := take
    rw [named] at told
    exact told.before archiveLeft subs fun q hq =>
      (State.writeEnd_other (s := s.ending ⟨aborted, false⟩) (q := q) (free .stream) aborted
        (by rw [show (s.ending _).feed q = s.feed q from rfl, hq]; decide)).1

end
end

section
variable {s : State} (empty : ∀ f, (s.region f).filling = none)
  (due : s.take.state = .closing ∧ s.take.gathering = false) (hb : s.engine.block = none) (hs : s.engine.state = .idle)
include empty due hb hs

/-- R38, R80: both END records at once: that of the stream, then that of the archive, and the take ends. -/
theorem State.endAtOnce_due : s.endAtOnce = (s.bothEnds (decide (s.take.endRequest = .abort))).endTake := by
  generalize flag : decide (s.take.endRequest = .abort) = aborted
  have requested : s.requestEnd = s.ending ⟨aborted, false⟩ := flag ▸ State.requestEnd_due due hb hs
  obtain ⟨-, -, -, -, -, engine, -⟩ := (s.ending ⟨aborted, false⟩).writeEnd_frame .stream aborted
  have first : (s.ending ⟨aborted, false⟩).placeNext.publishNext = (s.streamEnd aborted).ending ⟨aborted, true⟩ := by
    rw [State.ending_publishNext (empty .archive) (empty .stream)]
    refine (State.jobPublished_endStream (congrArg Engine.state engine) (congrArg Engine.endJob engine)).trans ?_
    exact (State.ending_eq (congrArg Engine.state engine) _).symm
  have archive := (s.ending ⟨aborted, false⟩).writeEnd_region_ne .stream aborted (g := .archive) (by decide)
  obtain ⟨stream, -⟩ := (s.ending ⟨aborted, false⟩).writeEnd_region .stream aborted
  have second := State.ending_publishNext (s := s.streamEnd aborted)
    ((congrArg Region.filling archive).trans (empty .archive)) stream ⟨aborted, true⟩
  obtain ⟨-, -, -, -, -, engine', -⟩ := ((s.streamEnd aborted).ending ⟨aborted, true⟩).writeEnd_frame .archive aborted
  rw [State.endAtOnce, if_pos hs, requested]
  refine (if_pos rfl).trans ?_
  rw [first, second]
  exact State.jobPublished_endArchive (congrArg Engine.state engine')

/-- R38, R40, R80: what stands after both END records at once. -/
theorem State.endAtOnce_ended :
    let aborted := decide (s.take.endRequest = .abort)
    s.endAtOnce.take = { s.take with state := .idle, gathering := false, endRequest := .none } ∧
    s.endAtOnce.engine.state = .idle ∧ s.endAtOnce.framer = s.framer ∧
    s.endAtOnce.store = (s.bothEnds aborted).store ∧ s.endAtOnce.feeds = (s.bothEnds aborted).feeds ∧
    ∀ q, s.endAtOnce.port q = ((s.bothEnds aborted).port q).raise .takeChange := by
  intro aborted
  obtain ⟨take, framer⟩ := s.bothEnds_leaves aborted
  rw [State.endAtOnce_due empty due hb hs, State.endTake_eq (by rw [take, due.1]; decide), take]
  exact ⟨rfl, rfl, framer, rfl, rfl, fun q => PerPort.get_of ..⟩

end

/-! ### ABORT (R39) -/

section
variable {s : State}

/-- R58: there is no block to discard. -/
theorem State.discardGathering_nothing (h : s.take.gathering = false) : s.discardGathering = s := by
  rw [State.discardGathering, h]
  rfl

/-- R39, R58: the block being gathered is discarded. -/
theorem State.discardGathering_block {i : BufferId} (h : s.take.gathering = true) (hi : s.framer.filling? = some i) :
    s.discardGathering = { s with
      framer := s.framer.setBuffer i { s.framer.buffer i with state := .free }
      take := { s.take with gathering := false, endPosition := (s.framer.buffer i).start } } := by
  simp only [State.discardGathering, if_pos h, hi]
  rfl

/-- R38: while a block is in coding, or an END record, none follows at once. -/
theorem State.endAtOnce_busy (h : s.engine.state ≠ .idle) : s.endAtOnce = s := if_neg h

variable (s) in
/-- R39: the take asked to end as ABORTED, gathering nothing. -/
def State.aborting : State :=
  { s.discardGathering with take := { s.discardGathering.take with endRequest := .abort } }.toTake .closing

/-- R39: ABORT of a take in STARTING. -/
theorem State.abortTake_starting (h : s.take.state = .starting) : s.abortTake = s.toTake .idle := by
  simp only [State.abortTake, h]

/-- R39: ABORT of a take in ROLLING or CLOSING. -/
theorem State.abortTake_running (h : s.take.state = .rolling ∨ s.take.state = .closing) :
    s.abortTake = s.aborting.endAtOnce := by
  rcases h with h | h
  · simp only [State.abortTake, h, State.aborting]
  · obtain ⟨p, hp⟩ := s.discardGathering_take
    have stays : ∀ u : State, u.take.state = .closing → u.toTake .closing = u := fun u hu => if_pos hu
    simp only [State.abortTake, h, State.aborting]
    rw [stays _ (by rw [hp]; exact h)]

/-- R39, R40, R58: a take asked to end while it gathers. -/
theorem State.aborting_block {i : BufferId} (h : s.take.gathering = true) (hi : s.framer.filling? = some i) :
    s.aborting = { s with
      take := { s.take with
        state := .closing, gathering := false, endRequest := .abort, endPosition := (s.framer.buffer i).start }
      framer := s.framer.setBuffer i { s.framer.buffer i with state := .free }
      ports := if s.take.state = .closing then s.ports else s.portsRaised .takeChange } := by
  rw [State.aborting, State.discardGathering_block h hi, State.toTake_eq]
  rfl

/-- R39, R40: a take asked to end while it gathers nothing. -/
theorem State.aborting_nothing (h : s.take.gathering = false) : s.aborting = { s with
      take := { s.take with state := .closing, endRequest := .abort }
      ports := if s.take.state = .closing then s.ports else s.portsRaised .takeChange } := by
  rw [State.aborting, State.discardGathering_nothing h, State.toTake_eq]
  rfl

end

/-- R39: the rule of ABORT in IDLE and ARMED. -/
theorem abortRule_state {s : State} (h : s.take.state = .idle ∨ s.take.state = .armed) :
    abortRule [] s = (s, .refuse .state) := by
  rcases h with h | h <;> simp only [abortRule, h]

/-- R39: the rule of ABORT elsewhere. -/
theorem abortRule_ok {s : State} (h : s.take.state = .starting ∨ s.take.state = .rolling ∨ s.take.state = .closing) :
    abortRule [] s = (s.abortTake, .ok []) := by
  rcases h with h | h | h <;> simp only [abortRule, h]

end Sys2Proof.Machine
end

section
/-! ABORT in each take state (R38 to R40). -/

namespace Sys2Proof.Machine

section
variable {s : State} {p : Port} {clocks : List Lanes} {e : PortState} (h : s.commandAt p clocks .abort [] e)
include h

/-- R39: ABORT in hand in a take that has begun. -/
theorem exec_abort (running : s.take.state = .rolling ∨ s.take.state = .closing) :
    exec (.abort p clocks) s = .next ((s.setPort p e).aborting.endAtOnce.answer p (.ok [])) := by
  rw [exec_answersNow (i := .abort p clocks) rfl h rfl (by simp) rfl (abortRule_ok (s := s.setPort p e) (.inr running)),
    State.abortTake_running (s := s.setPort p e) running]

/-- R39: ABORT in hand in ROLLING while the engine is at work. -/
theorem exec_abort_rolling {a : State} (state : s.take.state = .rolling) (busy : s.engine.state ≠ .idle)
    (aborting : (s.setPort p e).aborting = a) (engine : a.engine = s.engine)
    (ports : a.ports = (s.setPort p e).portsRaised .takeChange) : exec (.abort p clocks) s = .next { a with
      ports := s.portsAfter p ((e.raise .takeChange).holds .ok []) fun q => q.raise .takeChange } := by
  rw [exec_abort h (.inl state), aborting, State.endAtOnce_busy (by rwa [engine]), State.answer_raised ports]

/-- R39: ABORT in hand in CLOSING while the engine is at work. -/
theorem exec_abort_closing {a : State} (state : s.take.state = .closing) (busy : s.engine.state ≠ .idle)
    (aborting : (s.setPort p e).aborting = a) (engine : a.engine = s.engine) (ports : a.ports = s.ports.set p e) :
    exec (.abort p clocks) s = .next { a with ports := s.portsAfter p (e.holds .ok []) id } := by
  rw [exec_abort h (.inr state), aborting, State.endAtOnce_busy (by rwa [engine]), State.answer_quiet ports]

end

/-- R146: each port after an answer at port `p`. -/
theorem State.answer_port (u : State) (p q : Port) (r : Response) :
    (u.answer p (.response r)).port q = if q = p then (u.port q).respond r else u.port q := by
  cases p <;> cases q <;> rfl

/-- R146, R154: an answer leaves the events. -/
theorem State.answer_events (u : State) (p q : Port) (r : Response) :
    ((u.answer p (.response r)).port q).events = (u.port q).events := by
  rw [State.answer_port]
  split <;> rfl

/-- R38, R39, R58, R80, R119: what an aborted take leaves where its END records follow at once. -/
theorem State.aborting_endAtOnce {s : State} {i : BufferId} (hg : s.take.gathering = true)
    (hi : s.framer.filling? = some i) (hs : s.engine.state = .idle) (hb : s.engine.block = none)
    (empty : ∀ f, (s.region f).filling = none) :
    s.aborting.endAtOnce.take = { s.take with
      state := .idle, gathering := false, endRequest := .none, endPosition := (s.framer.buffer i).start } ∧
    s.aborting.endAtOnce.engine.state = .idle ∧ (s.aborting.endAtOnce.framer.buffer i).state = .free ∧
    s.aborting.endAtOnce.store = (s.aborting.bothEnds true).store ∧
    s.aborting.endAtOnce.feeds = (s.aborting.bothEnds true).feeds ∧
    ∀ q, s.aborting.endAtOnce.port q = ((s.aborting.bothEnds true).port q).raise .takeChange := by
  have ended := State.endAtOnce_ended (s := s.aborting)
  rw [State.aborting_block hg hi] at ended ⊢
  obtain ⟨take, engine, framer, rest⟩ := ended empty ⟨rfl, rfl⟩ hb hs
  refine ⟨take, engine, ?_, rest⟩
  rw [framer, Framer.buffer_setBuffer_self]

section
variable {s : State} {i : BufferId} (hg : s.take.gathering = true) (hi : s.framer.filling? = some i)
  (free : ∀ f, 1 ≤ (s.region f).free)
include hg hi free

/-- R119: an aborted take's END records are not told to a port without a subscription. -/
theorem State.aborting_bothEnds_other {q : Port} (h : (s.feed q).subscription = none) :
    (s.aborting.bothEnds true).feed q = s.feed q := by
  rw [State.aborting_block hg hi]
  exact State.bothEnds_other true (by exact free) h

/-- R80, R119: an aborted take's END records are flagged ABORTED and carry the start of the block discarded. -/
theorem State.aborting_bothEnds (empty : ∀ f, (s.region f).filling = none) (f : Feed) :
    s.EndsFeed (s.aborting.bothEnds true) f ⟨f, s.take.number, s.take.sequence⟩
      ({ s with take := { s.take with endPosition := (s.framer.buffer i).start } }.endRecord f true).bytes := by
  rw [State.aborting_block hg hi]
  exact (State.bothEnds_endsFeed true (by exact empty) (by exact free) f).before rfl (fun _ => rfl) fun _ _ => rfl

end

/-- Settles O40: an ABORT discards the block being gathered, and with no block in coding writes both END records. -/
theorem abortEndsTheTake : Obligations.AbortEndsTheTake := by
  intro s p clocks e h
  refine ⟨fun idle => ?_, fun starting => ?_, fun i rolling hg hi busy => ?_, fun i closing hg hi busy => ?_,
    fun closing hg busy => ?_, fun i running hg hi hs hb hA hS freeA freeS => ?_⟩
  · exact exec_refuses (i := .abort p clocks) rfl h rfl (by simp) rfl (abortRule_state (s := s.setPort p e) idle)
  · rw [exec_answersNow (i := .abort p clocks) rfl h rfl (by simp) rfl
      (abortRule_ok (s := s.setPort p e) (.inl starting)), State.abortTake_starting (s := s.setPort p e) starting,
      State.answer_toTake (s := s) rfl (by simp [starting])]
    rfl
  · exact exec_abort_rolling h rolling busy (State.aborting_block (s := s.setPort p e) hg hi) rfl
      (if_neg (by simp [rolling]))
  · rw [exec_abort_closing h closing busy (State.aborting_block (s := s.setPort p e) hg hi) rfl (if_pos closing)]
    rw [← closing]
    rfl
  · rw [exec_abort_closing h closing busy (State.aborting_nothing (s := s.setPort p e) hg) rfl (if_pos closing)]
    rw [← closing]
    rfl
  · have empty : ∀ f, (s.region f).filling = none := fun f => by
      cases f
      · exact hA
      · exact hS
    have free : ∀ f, 1 ≤ (s.region f).free := fun f => by
      cases f
      · exact freeA
      · exact freeS
    obtain ⟨take, engine, framer, store, feeds, ports⟩ :=
      State.aborting_endAtOnce (s := s.setPort p e) hg hi hs hb empty
    have told : ∀ f, (s.setPort p e).EndsFeed (s.setPort p e).aborting.endAtOnce f ⟨f, s.take.number, s.take.sequence⟩
        ({ s with take := { s.take with endPosition := (s.framer.buffer i).start } }.endRecord f true).bytes := fun f =>
      (State.aborting_bothEnds (s := s.setPort p e) hg hi free empty f).after (congrArg (Store.region · f) store)
        fun q _ => ⟨congrArg (PerPort.get · q) feeds, ports q ▸ PortState.sameTransaction_raise ..⟩
    obtain ⟨-, -, -, rate, cues, -⟩ := (s.setPort p e).abortTake_frame
    rw [State.abortTake_running (s := s.setPort p e) running] at rate cues
    refine ⟨_, exec_abort h running, take, engine, framer, ?_, ?_, fun q => ?_, fun q hq => ?_, fun f => ?_⟩
    · exact rate
    · exact cues
    · rw [Answer.ok, State.answer_events, ports]
      exact PortState.raise_raises ..
    · exact (congrArg (PerPort.get · q) feeds).trans (State.aborting_bothEnds_other (s := s.setPort p e) hg hi free hq)
    · obtain ⟨spent, kept, told⟩ := told f
      refine ⟨spent, kept, fun q hq => ?_⟩
      obtain ⟨arming, wait, cursor, recReady, answered⟩ := told q hq
      refine ⟨arming, wait, cursor, fun armed => ?_, fun k other hk => ?_⟩
      · rw [Answer.ok, State.answer_events]
        exact recReady armed
      · rw [Answer.ok, State.answer_port, if_neg other]
        obtain ⟨phase, response⟩ := answered k hk
        exact ⟨phase, response.trans (by rw [length_endRecord]; rfl)⟩

end Sys2Proof.Machine
end

section
/-! The position stops at 2^48 - 1 (R31): every wait ends, and a take that has begun ends as by an ABORT. -/

namespace Sys2Proof.Machine

/-! ### An answered port stays answered -/

/-- R148: a port without a NEXT wait keeps its phase and its response, and begins no wait. -/
structure State.KeepsAnswers (s u : State) : Prop where
  keeps : ∀ q, (s.feed q).wait = none →
    (u.feed q).wait = none ∧ (u.port q).phase = (s.port q).phase ∧ (u.port q).response = (s.port q).response

section
variable {s u v : State}

theorem State.KeepsAnswers.refl (s : State) : s.KeepsAnswers s := ⟨fun _ h => ⟨h, rfl, rfl⟩⟩

theorem State.KeepsAnswers.trans (h : s.KeepsAnswers u) (h' : u.KeepsAnswers v) : s.KeepsAnswers v := by
  refine ⟨fun q hq => ?_⟩
  obtain ⟨wait, phase, response⟩ := h.keeps q hq
  obtain ⟨wait', phase', response'⟩ := h'.keeps q wait
  exact ⟨wait', phase'.trans phase, response'.trans response⟩

/-- What leaves the feed states and the ports leaves the answers. -/
theorem State.KeepsAnswers.of_same (feeds : u.feeds = s.feeds) (ports : u.ports = s.ports) : s.KeepsAnswers u := by
  refine ⟨fun q h => ?_⟩
  rw [← State.feeds_get, ← State.ports_get, feeds, ports]
  exact ⟨h, rfl, rfl⟩

/-- R40, R154: a change of the take state leaves the answers. -/
theorem State.KeepsAnswers.toTake (s : State) (st : TakeState) : s.KeepsAnswers (s.toTake st) := by
  refine ⟨fun q h => ?_⟩
  rw [State.toTake_eq]
  refine ⟨h, ?_⟩
  simp only [State.port_mk]
  split
  · exact ⟨rfl, rfl⟩
  · cases q <;> exact ⟨rfl, rfl⟩

/-- R116: a removal leaves the answers. -/
theorem State.KeepsAnswers.removeHead (s : State) (f : Feed) : s.KeepsAnswers (s.removeHead f) := by
  refine ⟨fun q h => ?_⟩
  cases hr : (s.region f).ring with
  | nil => simp only [State.removeHead, hr]; exact ⟨h, trivial, trivial⟩
  | cons a rest =>
    rw [State.removeHead_feed hr, State.removeHead_port hr]
    split <;> exact ⟨h, rfl, rfl⟩

/-- R115: the making of room leaves the answers. -/
theorem State.KeepsAnswers.makeRoom (f : Feed) (pages steps : Nat) (s : State) :
    s.KeepsAnswers (s.makeRoom f pages steps) := by
  induction steps generalizing s with
  | zero => exact .refl s
  | succ n ih =>
    rw [State.makeRoom]
    split
    · exact (State.KeepsAnswers.removeHead s f).trans (ih _)
    · exact .refl s

/-- R115: a placement leaves the answers. -/
theorem State.KeepsAnswers.placeNext (s : State) : s.KeepsAnswers s.placeNext := by
  unfold State.placeNext
  split
  · exact .refl s
  · split
    · exact .trans (.makeRoom ..) (.of_same rfl rfl)
    · exact .refl s

/-- R119: a record is told to a port that does not wait without an answer. -/
theorem State.KeepsAnswers.publishTo (s : State) (p : Port) (id : RecordId) (size : Nat) :
    s.KeepsAnswers (s.publishTo p id size) := by
  refine ⟨fun q h => ?_⟩
  rw [State.publishTo_feed, State.publishTo_port]
  split
  · next told =>
    obtain ⟨rfl, -⟩ := told
    simp only [h, Option.isSome_none, Bool.false_eq_true, ↓reduceIte]
    split <;> exact ⟨trivial, rfl, rfl⟩
  · exact ⟨h, rfl, rfl⟩

/-- R119: a publication leaves the answers of the ports that do not wait. -/
theorem State.KeepsAnswers.publish (s : State) (f : Feed) : s.KeepsAnswers (s.publish f) := by
  unfold State.publish
  dsimp only
  split
  · exact .refl s
  · split
    · exact .of_same rfl rfl
    · refine .trans (.trans (.trans ?_ (.publishTo ..)) (.publishTo ..)) (.publishTo ..)
      exact .of_same rfl rfl

/-- R78, R80: what the engine goes on with leaves the answers. -/
theorem State.KeepsAnswers.jobPublished (s : State) (f : Feed) : s.KeepsAnswers (s.jobPublished f) := by
  unfold State.jobPublished
  split
  · exact .refl s
  · exact .of_same rfl rfl
  · exact .of_same (by simp) (by simp)
  · split
    · exact .of_same rfl rfl
    · refine .trans ?_ (.toTake ..)
      exact .of_same rfl rfl

/-- R119: the publication of the record being written leaves the answers of the ports that do not wait. -/
theorem State.KeepsAnswers.publishNext (s : State) : s.KeepsAnswers s.publishNext := by
  unfold State.publishNext
  split
  · exact .trans (.publish ..) (.jobPublished ..)
  · split
    · exact .trans (.publish ..) (.jobPublished ..)
    · exact .refl s

/-- R38: the END records at once leave the answers of the ports that do not wait. -/
theorem State.KeepsAnswers.endAtOnce (s : State) : s.KeepsAnswers s.endAtOnce := by
  have requested : s.KeepsAnswers s.requestEnd := .of_same (by simp) (by simp)
  have written : ∀ u : State, u.KeepsAnswers u.placeNext.publishNext := fun u =>
    (State.KeepsAnswers.placeNext u).trans (.publishNext _)
  unfold State.endAtOnce
  dsimp only
  split
  · split
    · exact requested.trans ((written _).trans (written _))
    · exact requested
  · exact .refl s

/-- R39: an ABORT leaves the answers of the ports that do not wait. -/
theorem State.KeepsAnswers.abortTake (h : s.take.state = .rolling ∨ s.take.state = .closing) :
    s.KeepsAnswers s.abortTake := by
  rw [State.abortTake_running h]
  refine State.KeepsAnswers.trans ?_ (.endAtOnce _)
  refine .trans ?_ (.toTake ..)
  exact .of_same (by simp) (by simp)

end

/-! ### The take after it is asked to end (R38, R39) -/

/-- R39: a take asked to end gathers nothing. -/
theorem State.aborting_take (s : State) :
    ∃ p, s.aborting.take = { s.take with state := .closing, gathering := false, endRequest := .abort, endPosition := p } := by
  obtain ⟨p, hp⟩ := s.discardGathering_take
  exact ⟨p, by rw [State.aborting, State.toTake_eq, hp]⟩

/-- R39: an aborted take gathers nothing. -/
theorem State.abortTake_gathering {s : State} (h : s.take.state = .rolling ∨ s.take.state = .closing) :
    s.abortTake.take.gathering = false := by
  have published : ∀ u : State, u.take.gathering = false → u.placeNext.publishNext.take.gathering = false := by
    intro u hu
    rcases u.placeNext.publishNext_take with e | e <;> rw [e]
    simpa using hu
  obtain ⟨p, hp⟩ := s.aborting_take
  rw [State.abortTake_running h, State.endAtOnce]
  split
  · dsimp only
    split
    · exact published _ (published _ (by simp [hp]))
    · simp [hp]
  · rw [hp]

/-- R39: a take asked to end leaves the engine and the store. -/
theorem State.aborting_leaves (s : State) : s.aborting.engine = s.engine ∧ s.aborting.store = s.store := by
  simp [State.aborting]

/-! ### Every wait ends (R31, R122) -/

/-- R31: the three waits answered NONE. -/
def State.endWaits (s : State) : State := ((s.endWait .p0).endWait .p1).endWait .p2

section
variable (s : State)

/-- R31: the end of the waits leaves all but the feed states and the ports. -/
theorem State.endWaits_eq : s.endWaits = { s with feeds := s.endWaits.feeds, ports := s.endWaits.ports } := by
  have one : ∀ (u : State) (p : Port), u.endWait p =
      { u with feeds := (u.endWait p).feeds, ports := (u.endWait p).ports } := by
    intro u p
    unfold State.endWait
    split <;> rfl
  rw [State.endWaits, one, one (p := .p1), one (p := .p0)]

variable {s} {q : Port}

/-- R31: a port that does not wait is left. -/
theorem State.endWaits_none (h : (s.feed q).wait = none) : s.endWaits.feed q = s.feed q ∧ s.endWaits.port q = s.port q := by
  simp only [State.endWaits, State.endWait_feed, State.endWait_port]
  cases q <;> simp [h]

/-- R31, R122: a wait is answered NONE with the lost count, which becomes 0. -/
theorem State.endWaits_some {k : Nat} (h : (s.feed q).wait = some k) :
    s.endWaits.feed q = { s.feed q with lost := 0, wait := none } ∧
      s.endWaits.port q = (s.port q).holds .none (bytesOf 2 (s.feed q).lost) := by
  simp only [State.endWaits, State.endWait_feed, State.endWait_port]
  cases q <;> simp [h]

end

end Sys2Proof.Machine
end

section
/-! POSITION_LIMIT and the events after it (R31, R122). -/

namespace Sys2Proof.Machine

/-! ### The event at which the position stops -/

/-- R25, R31: the state as the oscillator's event brings the position to 2^48 - 1, before what comes about there. -/
def State.stopped (s : State) (t : Nat) : State :=
  let u := (s.advance t).sampleTaken s.timebase.nextOscillator s.timebase.edgesDue
  { u with timebase := { u.timebase with position := lastPosition } }

/-- R17, R45: the receivers after each has been asked for a frame. -/
def State.linksAsked (s : State) : PerLink LinkRx :=
  ⟨s.links.l0.request.1, s.links.l1.request.1, s.links.l2.request.1, s.links.l3.request.1⟩

/-- R31: POSITION_LIMIT at its moment: the waits end, the take ends, and the links are asked. -/
theorem exec_positionLimit {s : State} {t : Nat} (hrun : s.resetHeld = false) (hclock : s.timebase.clock ≠ .locked)
    (hnext : s.timebase.nextOscillator ≤ max s.now t) (hlast : s.timebase.position + 1 = lastPosition)
    (nothing : (s.stopped t).endWaits.abortTake.take.gathering = false) :
    exec (.positionLimit t) s = .next { (s.stopped t).endWaits.abortTake with
      links := (s.stopped t).endWaits.abortTake.linksAsked } := by
  have reached : ((s.advance t).sampleTaken s.timebase.nextOscillator s.timebase.edgesDue).advancePosition =
      (s.stopped t).endWaits.abortTake := State.advancePosition_last hlast
  have wanted : State.reachesLast ((s.advance t).sampleTaken s.timebase.nextOscillator s.timebase.edgesDue) = true :=
    decide_eq_true hlast
  simp only [exec, execPositionLimit, State.eventAt_running hrun]
  rw [State.sampleIf_oscillator (s := s.advance t) hclock hnext]
  simp only [State.advance_timebase, wanted, ↓reduceIte, id, reached]
  rw [State.askLinks_none nothing, State.gather_none (by exact nothing)]
  rfl

/-- R31: from the stop on a sample-period event outside a take asks the links and moves its own tick. -/
theorem State.sampleIf_stopped {s : State} (hlast : s.timebase.position = lastPosition) (hg : s.take.gathering = false)
    (last : Nat) (due : List Nat) (refTimed : Bool) :
    let u := s.sampleTaken last due
    u.advancePosition.askLinks.gather u.advancePosition.linkAnswers refTimed = { u with links := s.linksAsked } := by
  intro u
  rw [State.advancePosition_stopped (by exact hlast), State.askLinks_none (by exact hg), State.gather_none (by exact hg)]
  rfl

/-- R31: a sample-period event after the stop, at its moment or before it. -/
theorem State.sampled_after_stop {s : State} (hlast : s.timebase.position = lastPosition) (hg : s.take.gathering = false) :
    let u := s.sampleIf (fun _ => true) (State.linkSteps · [])
    u.timebase.position = lastPosition ∧ u.mix = s.mix ∧ u.take = s.take ∧ u.feeds = s.feeds ∧ u.framer = s.framer ∧
    ((s.timebase.clock = .locked ∧ s.timebase.edgesDue ≠ []) ∨
      (s.timebase.clock ≠ .locked ∧ s.timebase.nextOscillator ≤ s.now) → u.links = s.linksAsked) := by
  have asked := State.sampleIf_stopped hlast hg
  intro u
  by_cases hclock : s.timebase.clock = .locked
  · cases hdue : s.timebase.edgesDue with
    | nil =>
      have early : u = s := State.sampleIf_none hclock hdue ..
      rw [early]
      exact ⟨hlast, rfl, rfl, rfl, rfl, fun come => by tauto⟩
    | cons edge due =>
      have event : u = { s.sampleTaken edge due with links := s.linksAsked } :=
        (State.sampleIf_reference hclock hdue ..).trans (asked edge due true)
      rw [event]
      exact ⟨hlast, rfl, rfl, rfl, rfl, fun _ => rfl⟩
  · by_cases hnext : s.timebase.nextOscillator ≤ s.now
    · have event : u = { s.sampleTaken s.timebase.nextOscillator s.timebase.edgesDue with links := s.linksAsked } :=
        (State.sampleIf_oscillator hclock hnext ..).trans (asked _ _ false)
      rw [event]
      exact ⟨hlast, rfl, rfl, rfl, rfl, fun _ => rfl⟩
    · have early : u = s := State.sampleIf_early hclock (Nat.lt_of_not_le hnext) ..
      rw [early]
      exact ⟨hlast, rfl, rfl, rfl, rfl, fun come => by tauto⟩

/-! ### A take at the stop -/

section
variable {s : State} {t : Nat}

/-- R31, R40: a take in STARTING at the stop. -/
theorem State.stopped_starting (h : s.take.state = .starting) : (s.stopped t).endWaits.abortTake = { s.stopped t with
    feeds := (s.stopped t).endWaits.feeds, take := { s.take with state := .idle }
    ports := (s.stopped t).endWaits.portsRaised .takeChange } := by
  rw [State.endWaits_eq]
  rw [State.abortTake_starting (by exact h), State.toTake_eq, if_neg (by simp [show (s.stopped t).take = s.take from rfl, h])]
  rfl

/-- R31, R122: the waits at the stop are answered, and stay so when the take ends. -/
theorem State.stopped_answered (running : s.take.state = .rolling ∨ s.take.state = .closing) {q : Port} {k : Nat}
    (hk : (s.feed q).wait = some k) :
    ((s.stopped t).endWaits.abortTake.feed q).wait = none ∧
    ((s.stopped t).endWaits.abortTake.port q).phase = .responseReady ∧
    ((s.stopped t).endWaits.abortTake.port q).response = some ⟨.none, .bytes (bytesOf 2 (s.feed q).lost)⟩ := by
  have stands : (s.stopped t).endWaits.take = s.take := by rw [State.endWaits_eq]; rfl
  obtain ⟨hfeed, hport⟩ := State.endWaits_some (s := s.stopped t) (q := q) hk
  obtain ⟨wait, phase, response⟩ := (State.KeepsAnswers.abortTake (by rw [stands]; exact running)).keeps q
    (by rw [hfeed] : ((s.stopped t).endWaits.feed q).wait = none)
  rw [hport] at phase response
  exact ⟨wait, phase, response⟩

end

/-- Settles O35: the waits end first, then the take as by an ABORT; from then on the position stays. -/
theorem positionLimitEndsTheCount : Obligations.PositionLimitEndsTheCount := by
  refine ⟨fun t s hrun hclock hnext hlast starting hg => ?_, fun t s hrun hclock hnext hlast running => ?_,
    fun t s u hlast hg hu => ?_, fun s p clocks e hlast => ⟨fun h ha => ?_, fun h => ?_⟩⟩
  · have ended := State.stopped_starting (t := t) starting
    refine ⟨_, exec_positionLimit hrun hclock hnext hlast (by rw [ended]; exact hg), ?_⟩
    rw [ended]
    refine ⟨rfl, rfl, rfl, rfl, rfl, rfl, rfl, rfl, fun p hp => ?_, fun p k hp => ?_⟩
    · obtain ⟨hfeed, hport⟩ := State.endWaits_none (s := s.stopped t) (q := p) hp
      exact ⟨hfeed, (PerPort.get_of ..).trans (congrArg (PortState.raise · .takeChange) hport)⟩
    · obtain ⟨hfeed, hport⟩ := State.endWaits_some (s := s.stopped t) (q := p) hp
      exact ⟨hfeed, (PerPort.get_of ..).trans (congrArg (PortState.raise · .takeChange) hport)⟩
  · have waits := State.endWaits_eq (s.stopped t)
    have stands : (s.stopped t).endWaits.take = s.take := by rw [waits]; rfl
    have running' : (s.stopped t).endWaits.take.state = .rolling ∨ (s.stopped t).endWaits.take.state = .closing := by
      rwa [stands]
    have nothing := State.abortTake_gathering running'
    obtain ⟨-, timebase, mix, rate, cues, -⟩ := (s.stopped t).endWaits.abortTake_frame
    have ends := State.abortTake_running running'
    obtain ⟨engine, store⟩ := (s.stopped t).endWaits.aborting_leaves
    refine ⟨_, exec_positionLimit hrun hclock hnext hlast nothing, ?_, ?_, ?_, ?_, nothing, fun p k hk => ?_,
      fun busy => ?_, fun i hg hi hs hb hA hS => ?_⟩
    · rw [timebase, waits]; rfl
    · rw [cues, waits]; rfl
    · rw [rate, waits]; rfl
    · rw [mix, waits]; rfl
    · exact State.stopped_answered running hk
    · have stops : (s.stopped t).endWaits.abortTake = (s.stopped t).endWaits.aborting :=
        ends.trans (State.endAtOnce_busy (by rw [engine, waits]; exact busy))
      rw [stops]
      refine ⟨engine.trans (by rw [waits]; rfl), store.trans (by rw [waits]; rfl), fun hg => ?_, fun i hg hi => ?_⟩
      · rw [State.aborting_nothing (by rw [stands]; exact hg), waits]
        exact ⟨rfl, by rw [← hg]; rfl⟩
      · rw [State.aborting_block (by rw [stands]; exact hg) (by rw [waits]; exact hi), waits]
        exact ⟨rfl, rfl⟩
    · obtain ⟨take, idle, framer, endStore, -⟩ := State.aborting_endAtOnce (s := (s.stopped t).endWaits) (i := i)
        (by rw [stands]; exact hg) (by rw [waits]; exact hi) (by rw [waits]; exact hs) (by rw [waits]; exact hb)
        (by rw [waits]; exact fun f => by cases f; exacts [hA, hS])
      rw [ends]
      refine ⟨framer, idle, take.trans (by rw [waits]; rfl), fun f => ?_⟩
      obtain ⟨p, hp⟩ := (s.stopped t).endWaits.aborting_take
      have both := (s.stopped t).endWaits.aborting.bothEnds_region true f
      rw [hp, stands] at both
      exact ⟨(congrArg (fun st => (Store.region st f).filling) endStore).trans both.1,
        (congrArg (fun st => (Store.region st f).lastPublished) endStore).trans both.2⟩
  · cases hrun : s.resetHeld with
    | true =>
      have same : u = s.advance t := by
        simp only [exec, execSamplePeriodEvent, State.eventAt_held hrun] at hu
        cases hu; rfl
      rw [same]
      exact ⟨hlast, rfl, rfl, rfl, rfl, nofun⟩
    | false =>
      have event : u = (s.advance t).sampleIf (fun _ => true) (State.linkSteps · []) := by
        simp only [exec, execSamplePeriodEvent, State.eventAt_running hrun] at hu
        cases hu; rfl
      obtain ⟨position, mix, take, feeds, framer, links⟩ := State.sampled_after_stop (s := s.advance t) hlast hg
      rw [event]
      exact ⟨position, mix, take, feeds, framer, fun _ => links⟩
  · exact exec_refuses (i := .roll p clocks) rfl h rfl (by simp) rfl ((if_neg (not_not.2 ha)).trans (if_pos hlast))
  · exact exec_refuses (i := .gainApply p clocks) rfl h rfl (by simp) rfl (if_pos hlast)

end Sys2Proof.Machine
end

section
/-! A gathered sample period (R45 to R54, R62 to R64): the four links are asked, SLIP marks set, and one row joins the filling
buffer. -/

namespace Sys2Proof.Machine

/-! ### The links asked while a block is gathered (R17, R45, R52) -/

/-- The receivers and the marks of filling buffer `i` replaced. -/
def State.asking (s : State) (i : BufferId) (links : PerLink LinkRx) (marks : Vector TrackMarks 64) : State :=
  { s with links := links, framer := s.framer.setBuffer i { s.framer.buffer i with marks := marks } }

/-- R52: the marks after link `l`, as it stands, has been asked. -/
def slipIfRepeats (map : Vector TrackEntry 64) (links : PerLink LinkRx) (l : LinkId) (marks : Vector TrackMarks 64) :
    Vector TrackMarks 64 :=
  if (links.get l).ready = true ∧ (links.get l).fifo = [] then slipMarks map l marks else marks

/-- R52: the marks of buffer `i` after the four links have been asked. -/
def State.marksAsked (s : State) (i : BufferId) : Vector TrackMarks 64 :=
  slipIfRepeats s.framer.map s.links .l3 (slipIfRepeats s.framer.map s.links .l2
    (slipIfRepeats s.framer.map s.links .l1 (slipIfRepeats s.framer.map s.links .l0 (s.framer.buffer i).marks)))

section
variable {s : State} {i : BufferId}

@[simp] theorem Framer.filling?_setMarks (fr : Framer) (i : BufferId) (marks : Vector TrackMarks 64) :
    (fr.setBuffer i { fr.buffer i with marks := marks }).filling? = fr.filling? := by cases i <;> rfl

@[simp] theorem Framer.setBuffer_setBuffer (fr : Framer) (i : BufferId) (g h : GatherBuffer) :
    (fr.setBuffer i g).setBuffer i h = fr.setBuffer i h := by cases i <;> rfl

@[simp] theorem Framer.setBuffer_buffer (fr : Framer) (i : BufferId) : fr.setBuffer i (fr.buffer i) = fr := by
  cases i <;> rfl

@[simp] theorem Framer.setBuffer_map (fr : Framer) (i : BufferId) (g : GatherBuffer) : (fr.setBuffer i g).map = fr.map := by
  cases i <;> rfl

@[simp] theorem Framer.setBuffer_lastGood (fr : Framer) (i : BufferId) (g : GatherBuffer) :
    (fr.setBuffer i g).lastGood = fr.lastGood := by cases i <;> rfl

/-- R17, R52: one link asked while a block is gathered. -/
theorem State.asking_askLink (hg : s.take.gathering = true) (hi : s.framer.filling? = some i) (links : PerLink LinkRx)
    (marks : Vector TrackMarks 64) (l : LinkId) :
    (s.asking i links marks).askLink l =
      s.asking i (links.set l (links.get l).request.1) (slipIfRepeats s.framer.map links l marks) := by
  rw [State.askLink_eq, slipIfRepeats]
  change (if (links.get l).ready = true ∧ (links.get l).fifo = [] then _ else _) = _
  split
  · rw [State.reportSlip_gathering (i := i) (by exact hg) ((Framer.filling?_setMarks ..).trans hi)]
    simp [State.asking, State.setLink]
  · rfl

/-- R45, R52: the four links asked while a block is gathered. -/
theorem State.askLinks_gathering (hg : s.take.gathering = true) (hi : s.framer.filling? = some i) :
    s.askLinks = s.asking i s.linksAsked (s.marksAsked i) := by
  have start : s = s.asking i s.links (s.framer.buffer i).marks := by
    change s = { s with framer := s.framer.setBuffer i (s.framer.buffer i) }
    rw [Framer.setBuffer_buffer]
  have ask := State.asking_askLink hg hi
  rw [State.askLinks]
  conv_lhs => rw [start]
  rw [ask, ask, ask, ask]
  rfl

end

/-- R52: the mark of one track after link `l` has been asked. -/
theorem getElem_slipIfRepeats (map : Vector TrackEntry 64) (links : PerLink LinkRx) (l : LinkId)
    (marks : Vector TrackMarks 64) (x : Fin 64) : (slipIfRepeats map links l marks)[x] =
      if map[x].link = l ∧ map[x].enabled = true ∧ (links.get l).ready = true ∧ (links.get l).fifo = [] then
        { marks[x] with slip := true } else marks[x] := by
  by_cases repeats : (links.get l).ready = true ∧ (links.get l).fifo = []
  · rw [slipIfRepeats, if_pos repeats, getElem_slipMarks]
    exact if_congr (by tauto) rfl rfl
  · rw [slipIfRepeats, if_neg repeats, if_neg (by tauto)]

/-- R52: SLIP is set on the enabled tracks whose link repeated a frame. -/
theorem State.getElem_marksAsked (s : State) (i : BufferId) (x : Fin 64) : (s.marksAsked i)[x] =
    if (s.framer.map[x]).enabled = true ∧ (s.link (s.framer.map[x]).link).ready = true ∧
        (s.link (s.framer.map[x]).link).fifo = [] then
      { (s.framer.buffer i).marks[x] with slip := true } else (s.framer.buffer i).marks[x] := by
  simp only [State.marksAsked, getElem_slipIfRepeats, State.links_get]
  cases (s.framer.map[x]).link <;> simp only [reduceCtorEq, false_and, true_and, ↓reduceIte]

/-! ### One track (R47 to R51) -/

section
variable {e : TrackEntry} {answers : PerLink (Option LinkFrame)} {good : Sample} {m : TrackMarks}

/-- R47: a disabled track. -/
theorem formTrack_disabled (h : e.enabled = false) : formTrack e answers good m = ⟨0, good, m⟩ := if_neg (by simp [h])

/-- R51: a track whose link gave no frame. -/
theorem formTrack_absent (h : e.enabled = true) (ha : answers.get e.link = none) :
    formTrack e answers good m = ⟨0, good, { m with absent := true }⟩ := by
  rw [formTrack, if_pos h, ha]

/-- R48: a track whose link gave a frame looks at its slot. -/
theorem formTrack_frame {frame : LinkFrame} (h : e.enabled = true) (ha : answers.get e.link = some frame) :
    formTrack e answers good m = trackFromSlot (frame.getD e.slot.val SlotEntry.blank) good m := by
  rw [formTrack, if_pos h, ha]

/-- R48 to R50: the sample and the last-good sample of a slot do not depend on the marks. -/
theorem trackFromSlot_samples (slot : SlotEntry) (good : Sample) (m m' : TrackMarks) :
    (trackFromSlot slot good m).sample = (trackFromSlot slot good m').sample ∧
      (trackFromSlot slot good m).lastGood = (trackFromSlot slot good m').lastGood := by
  unfold trackFromSlot
  split
  · exact ⟨rfl, rfl⟩
  · dsimp only
    split <;> exact ⟨rfl, rfl⟩

/-- R47 to R51: the sample and the last-good sample of a track do not depend on its marks. -/
theorem formTrack_samples (e : TrackEntry) (answers : PerLink (Option LinkFrame)) (good : Sample) (m m' : TrackMarks) :
    (formTrack e answers good m).sample = (formTrack e answers good m').sample ∧
      (formTrack e answers good m).lastGood = (formTrack e answers good m').lastGood := by
  cases enabled : e.enabled with
  | false =>
    rw [formTrack_disabled enabled, formTrack_disabled enabled]
    exact ⟨rfl, rfl⟩
  | true =>
    cases ha : answers.get e.link with
    | none =>
      rw [formTrack_absent enabled ha, formTrack_absent enabled ha]
      exact ⟨rfl, rfl⟩
    | some frame =>
      rw [formTrack_frame enabled ha, formTrack_frame enabled ha]
      exact trackFromSlot_samples ..

/-- R50: a slot whose parity failed. -/
theorem trackFromSlot_failed {slot : SlotEntry} (h : slot.parityFailed = true) :
    trackFromSlot slot good m = ⟨good, good, { m with held := true }⟩ := if_pos h

/-- R48, R49: a slot whose parity held. -/
theorem trackFromSlot_read {slot : SlotEntry} (h : slot.parityFailed = false) :
    trackFromSlot slot good m =
      if slot.valid then ⟨slot.sample, slot.sample, { m with overload := m.overload || slot.overload }⟩
      else ⟨0, good, { m with invalid := true, overload := m.overload || slot.overload }⟩ := by
  rw [trackFromSlot, if_neg (by simp [h])]
  cases slot.overload <;> simp

end

/-- R47 to R51: the outcome of one of the 64 tracks. -/
theorem getElem_formTracks (fr : Framer) (g : GatherBuffer) (answers : PerLink (Option LinkFrame)) (x : Fin 64) :
    (formTracks fr g answers)[x] = formTrack fr.map[x] answers fr.lastGood[x] g.marks[x] := by
  rw [formTracks, getElem_mapEntries]
  simp

/-! ### The row that joins the buffer (R45, R53, R54, R62 to R64) -/

/-- R62: the value of bus `b` at the present position, over these tracks, for the block that began at `start`. -/
def State.busValue (s : State) (tracks : Vector Sample 64) (start : Nat) (b : Fin 4) : Int :=
  roundHalfUp (busSum s.mix.active[b] s.mix.ramps[b] tracks (s.timebase.position - start) s.timebase.blockLength)

/-- R62: the values of the four buses. -/
theorem getElem_busValues (s : State) (tracks : Vector Sample 64) (start : Nat) (b : Fin 4) :
    (s.mix.busValues tracks (s.timebase.position - start) s.timebase.blockLength)[b] = s.busValue tracks start b := by
  rw [Mix.busValues, getElem_mapEntries]
  simp
  rfl

/-- R45 to R54, R62 to R64: `u` is `s` with `row` gathered into the filling buffer `i` from the links' answers. -/
structure State.Gathers (s u : State) (i : BufferId) (answers : PerLink (Option LinkFrame)) (refTimed : Bool)
    (row : SampleRow) : Prop where
  frame : u = { s with framer := u.framer, mix := u.mix, ports := u.ports }
  mix : u.mix = { s.mix with clipFlags := u.mix.clipFlags }
  buffer : u.framer.buffer i = { s.framer.buffer i with
    rows := (s.framer.buffer i).rows ++ [row], marks := (u.framer.buffer i).marks, clips := (u.framer.buffer i).clips
    holdover := (s.framer.buffer i).holdover || !refTimed }
  map : u.framer.map = s.framer.map
  others : ∀ j, j ≠ i → u.framer.buffer j = s.framer.buffer j
  tracks : ∀ x : Fin 64, row.tracks[x] =
    (formTrack s.framer.map[x] answers s.framer.lastGood[x] (s.framer.buffer i).marks[x]).sample
  lastGood : ∀ x : Fin 64, u.framer.lastGood[x] =
    (formTrack s.framer.map[x] answers s.framer.lastGood[x] (s.framer.buffer i).marks[x]).lastGood
  marks : ∀ x : Fin 64, (u.framer.buffer i).marks[x] =
    (formTrack s.framer.map[x] answers s.framer.lastGood[x] (s.framer.buffer i).marks[x]).marks
  buses : ∀ b : Fin 4, row.buses[b] = saturate (s.busValue row.tracks (s.framer.buffer i).start b) ∧
    u.mix.clipFlags[b] = (s.mix.clipFlags[b] || saturates (s.busValue row.tracks (s.framer.buffer i).start b)) ∧
    (u.framer.buffer i).clips[b] = ((s.framer.buffer i).clips[b] ||
      (saturates (s.busValue row.tracks (s.framer.buffer i).start b) && !s.mix.clipFlags[b]))
  told : (∀ b : Fin 4, s.mix.clipFlags[b] = false) →
    (∃ b : Fin 4, saturates (s.busValue row.tracks (s.framer.buffer i).start b) = true) → u.ports = s.portsRaised .mixClip
  quiet : (∃ b : Fin 4, s.mix.clipFlags[b] = true) ∨
    (∀ b : Fin 4, saturates (s.busValue row.tracks (s.framer.buffer i).start b) = false) → u.ports = s.ports

/-- A flag of a table is set. -/
theorem toList_any_iff {n : Nat} (v : Vector Bool n) : v.toList.any id = true ↔ ∃ b : Fin n, v[b] = true := by
  simp [Fin.exists_iff, Vector.any_eq_true]

/-- No flag of a table is set. -/
theorem toList_all_not_iff {n : Nat} (v : Vector Bool n) :
    v.toList.all (!·) = true ↔ ∀ b : Fin n, v[b] = false := by
  simp [Fin.forall_iff]

/-- R53: the samples of the 64 tracks. -/
def gatheredTracks (fr : Framer) (g : GatherBuffer) (answers : PerLink (Option LinkFrame)) : Vector Sample 64 :=
  mapEntries (fun _ (o : TrackOutcome) => o.sample) (formTracks fr g answers)

/-- R54, R64: the buses that saturate with their clip flag clear. -/
def State.newClips (s : State) (tracks : Vector Sample 64) (start : Nat) : Vector Bool 4 :=
  mapEntries (fun b (v : Int) => saturates v && !(s.mix.clipFlags[b]?.getD false))
    (s.mix.busValues tracks (s.timebase.position - start) s.timebase.blockLength)

section
variable (s : State) (i : BufferId) (answers : PerLink (Option LinkFrame)) (refTimed : Bool)

/-- R53: the row of the sample period at the present position. -/
def State.gatheredRow : SampleRow where
  tracks := gatheredTracks s.framer (s.framer.buffer i) answers
  buses := mapEntries (fun _ (v : Int) => saturate v) (s.mix.busValues
    (gatheredTracks s.framer (s.framer.buffer i) answers) (s.timebase.position - (s.framer.buffer i).start)
    s.timebase.blockLength)

/-- R54, R64: the buses that newly clip in the sample period at the present position. -/
def State.clipped : Vector Bool 4 :=
  s.newClips (s.gatheredRow i answers).tracks (s.framer.buffer i).start

/-- R45 to R54, R62 to R64: what a gathered sample period replaces. -/
theorem State.gatherInto_eq : s.gatherInto i answers refTimed = { s with
    framer := { s.framer with
      lastGood := mapEntries (fun _ (o : TrackOutcome) => o.lastGood) (formTracks s.framer (s.framer.buffer i) answers)
      }.setBuffer i { s.framer.buffer i with
        rows := (s.framer.buffer i).rows ++ [s.gatheredRow i answers]
        marks := mapEntries (fun _ (o : TrackOutcome) => o.marks) (formTracks s.framer (s.framer.buffer i) answers)
        clips := mapEntries (fun b c => c || ((s.clipped i answers)[b]?.getD false)) (s.framer.buffer i).clips
        holdover := (s.framer.buffer i).holdover || !refTimed }
    mix := { s.mix with
      clipFlags := mapEntries (fun b c => c || ((s.clipped i answers)[b]?.getD false)) s.mix.clipFlags }
    ports := if (s.mix.clipFlags.toList.all (!·) && (s.clipped i answers).toList.any id) = true then
      s.portsRaised .mixClip else s.ports } := by
  unfold State.gatherInto
  dsimp only
  split
  · next told =>
    rw [if_pos (by exact told)]
    rfl
  · next quiet =>
    rw [if_neg (by exact quiet)]
    rfl

/-- R64: a bus newly clips when it saturates with its flag clear. -/
theorem State.getElem_clipped (b : Fin 4) : (s.clipped i answers)[b] =
    (saturates (s.busValue (s.gatheredRow i answers).tracks (s.framer.buffer i).start b) && !s.mix.clipFlags[b]) := by
  rw [State.clipped, State.newClips, getElem_mapEntries, getElem_busValues]
  simp

/-- R45 to R54, R62 to R64: the sample period at the present position is gathered into buffer `i`. -/
theorem State.gatherInto_gathers :
    s.Gathers (s.gatherInto i answers refTimed) i answers refTimed (s.gatheredRow i answers) := by
  have others : ∀ (fr : Framer) (g : GatherBuffer) (j : BufferId), j ≠ i → (fr.setBuffer i g).buffer j = fr.buffer j :=
    fun fr g j h => Framer.buffer_setBuffer_ne fr g h
  have clipped : ∀ b : Fin 4, ((s.clipped i answers)[b.val]?).getD false =
      (saturates (s.busValue (s.gatheredRow i answers).tracks (s.framer.buffer i).start b) && !s.mix.clipFlags[b]) :=
    fun b => (by simp : ((s.clipped i answers)[b.val]?).getD false = (s.clipped i answers)[b]).trans
      (s.getElem_clipped i answers b)
  rw [State.gatherInto_eq]
  refine ⟨rfl, rfl, ?_, ?_, fun j h => ?_, fun x => ?_, fun x => ?_, fun x => ?_, fun b => ⟨?_, ?_, ?_⟩,
    fun clear some => if_pos ?_, fun none => if_neg ?_⟩
  · simp only [Framer.buffer_setBuffer_self]
  · exact Framer.setBuffer_map ..
  · rw [others _ _ j h]
    cases j <;> rfl
  · exact (getElem_mapEntries ..).trans (congrArg TrackOutcome.sample (getElem_formTracks ..))
  · rw [Framer.setBuffer_lastGood]
    exact (getElem_mapEntries ..).trans (congrArg TrackOutcome.lastGood (getElem_formTracks ..))
  · rw [Framer.buffer_setBuffer_self]
    exact (getElem_mapEntries ..).trans (congrArg TrackOutcome.marks (getElem_formTracks ..))
  · exact (getElem_mapEntries ..).trans (congrArg saturate (getElem_busValues ..))
  · refine (getElem_mapEntries ..).trans ?_
    rw [clipped]
    cases s.mix.clipFlags[b] <;> simp
  · rw [Framer.buffer_setBuffer_self]
    exact (getElem_mapEntries ..).trans (by rw [clipped])
  · rw [Bool.and_eq_true, toList_all_not_iff, toList_any_iff]
    obtain ⟨b, hb⟩ := some
    exact ⟨clear, b, by rw [State.getElem_clipped, hb, clear b]; rfl⟩
  · rw [Bool.and_eq_true, toList_all_not_iff, toList_any_iff]
    rintro ⟨clear, b, hb⟩
    rw [State.getElem_clipped] at hb
    rcases none with ⟨c, hc⟩ | none
    · simp [clear c] at hc
    · simp [none b] at hb

end

end Sys2Proof.Machine
end

section
/-! The sample-period event inside a gathered block (R25, R27 to R31, R45 to R54). -/

namespace Sys2Proof.Machine

/-! ### Which event has come (R25, R27, R28) -/

/-- R25, R27, R28: a sample-period event has come by tick `t`: in LOCKED the oldest edge due, else the oscillator's; it is of
tick `last` and leaves the edges `due`. -/
def State.sampleDue (s : State) (t : Nat) (refTimed : Bool) (last : Nat) (due : List Nat) : Prop :=
  (refTimed = true ∧ s.timebase.clock = .locked ∧ s.timebase.edgesDue = last :: due) ∨
    (refTimed = false ∧ s.timebase.clock ≠ .locked ∧ s.timebase.nextOscillator ≤ max s.now t ∧
      last = s.timebase.nextOscillator ∧ due = s.timebase.edgesDue)

/-- R31: the state in which the position has advanced by the event of tick `last`, before what comes about there. -/
def State.advanced (s : State) (t last : Nat) (due : List Nat) : State :=
  let u := (s.advance t).sampleTaken last due
  { u with timebase := { u.timebase with position := s.timebase.position + 1 } }

section
variable {s : State} {t last : Nat} {due : List Nat} {refTimed : Bool} (hrun : s.resetHeld = false)
  (come : s.sampleDue t refTimed last due)
include hrun come

/-- R25, R27: the row SAMPLE_PERIOD_EVENT where an event has come. -/
theorem exec_samplePeriodEvent_due (steps : List LinkStep) : exec (.samplePeriodEvent ⟨t, steps⟩) s =
    let v := ((s.advance t).sampleTaken last due).advancePosition.linkSteps steps
    .next (v.askLinks.gather v.linkAnswers refTimed) := by
  simp only [exec, execSamplePeriodEvent, State.eventAt_running hrun]
  rcases come with ⟨rfl, hclock, hdue⟩ | ⟨rfl, hclock, hnext, rfl, rfl⟩
  · rw [State.sampleIf_reference (s := s.advance t) hclock hdue]
    rfl
  · rw [State.sampleIf_oscillator (s := s.advance t) hclock hnext]
    rfl

/-- R31: the row SAMPLE_PERIOD_EVENT at no boundary. -/
theorem exec_samplePeriodEvent_inside (hlast : s.timebase.position + 1 < lastPosition)
    (hin : (s.timebase.position + 1) % blockLengthOf s.timebase.rate ≠ 0) : exec (.samplePeriodEvent ⟨t, []⟩) s =
    .next ((s.advanced t last due).askLinks.gather (s.advanced t last due).linkAnswers refTimed) := by
  rw [exec_samplePeriodEvent_due hrun come, State.linkSteps_nil, State.advancePosition_inside (by exact hlast) (by exact hin)]
  rfl

end

/-! ### The sample period gathered (R45, R46) -/

section
variable {s : State} {i : BufferId} (hg : s.take.gathering = true) (hi : s.framer.filling? = some i)
include hg hi

/-- R46: a sample period is gathered into the filling buffer. -/
theorem State.gather_block (answers : PerLink (Option LinkFrame)) (refTimed : Bool) :
    s.gather answers refTimed = s.gatherInto i answers refTimed := by
  simp only [State.gather, if_pos hg, hi]

/-- R45, R52: the links are asked, and their answers gathered. -/
theorem State.askLinks_gathers (refTimed : Bool) : ∃ row, (s.asking i s.linksAsked (s.marksAsked i)).Gathers
    (s.askLinks.gather s.linkAnswers refTimed) i s.linkAnswers refTimed row := by
  rw [State.askLinks_gathering hg hi, State.gather_block (i := i) (by exact hg) ((Framer.filling?_setMarks ..).trans hi)]
  exact ⟨_, State.gatherInto_gathers ..⟩

end

/-- Settles O32, by what the links are asked for and what joins the buffer. -/
theorem gatheredSamplePeriod : Obligations.GatheredSamplePeriod := by
  refine ⟨fun t s i refTimed last due hrun come hg hi hlast hin => ?_, fun e answers good m =>
    ⟨formTrack_disabled, formTrack_absent, fun frame h enabled ha => ?_⟩⟩
  · obtain ⟨row, gathers⟩ := State.askLinks_gathers (s := s.advanced t last due) (i := i) hg hi refTimed
    have event := exec_samplePeriodEvent_inside hrun come hlast hin
    generalize (s.advanced t last due).askLinks.gather (s.advanced t last due).linkAnswers refTimed = u at event gathers
    obtain ⟨frame, mix, buffer, map, others, tracks, lastGood, marks, buses, told, quiet⟩ := gathers
    have timebase : u.timebase = (s.advanced t last due).timebase := by rw [frame]; rfl
    have links : u.links = s.linksAsked := by rw [frame]; rfl
    have asked : ((s.advanced t last due).asking i (s.advanced t last due).linksAsked
        ((s.advanced t last due).marksAsked i)).framer.buffer i =
        { s.framer.buffer i with marks := s.marksAsked i } := Framer.buffer_setBuffer_self ..
    have sameMap : ((s.advanced t last due).asking i (s.advanced t last due).linksAsked
        ((s.advanced t last due).marksAsked i)).framer.map = s.framer.map := Framer.setBuffer_map ..
    have sameGood : ((s.advanced t last due).asking i (s.advanced t last due).linksAsked
        ((s.advanced t last due).marksAsked i)).framer.lastGood = s.framer.lastGood := Framer.setBuffer_lastGood ..
    simp only [asked, sameMap, sameGood] at buffer map tracks lastGood marks buses told quiet
    refine ⟨u, row, event, ?_, timebase, links, ?_, ?_, map, fun j h => ?_, fun x => ?_, fun x => ?_, fun x => ?_,
      ⟨buses, told, quiet⟩, mix⟩
    · rw [timebase, links]
      exact frame
    · rw [buffer]
    · rw [buffer]
    · exact (others j h).trans (Framer.buffer_setBuffer_ne _ _ h)
    · rw [tracks]
      exact (formTrack_samples ..).1
    · rw [lastGood]
      exact (formTrack_samples ..).2
    · rw [marks, State.getElem_marksAsked]
      rfl
  · have slot : frame.getD e.slot.val SlotEntry.blank = frame[e.slot.val] := List.getD_eq_getElem _ _ h
    rw [formTrack_frame enabled ha, slot]
    refine ⟨trackFromSlot_failed, fun read invalid => ?_, fun read valid => ?_⟩
    · rw [trackFromSlot_read read, invalid]
      rfl
    · rw [trackFromSlot_read read, valid]
      rfl

end Sys2Proof.Machine
end

section
/-! The block-boundary event of a running take (R36, R37, R46, R54 to R56, R74 to R76, R103 to R108). -/

namespace Sys2Proof.Machine

/-! ### Events that a boundary does not raise (R154) -/

/-- R154: another event raised leaves an event as it is. -/
theorem PortState.raise_leaves {j k : EventKind} (h : j ≠ k) (q : PortState) :
    (q.raise k).events.getLsbD (eventBit j) = q.events.getLsbD (eventBit j) := by
  have clear : (eventOf k).getLsbD (eventBit j) = false := by
    revert h
    cases j <;> cases k <;> decide
  rw [PortState.raise_events, BitVec.getLsbD_or, clear, Bool.or_false]

/-- R154: event `k` waits at the same ports in the two states. -/
def State.keepsEvent (s u : State) (k : EventKind) : Prop :=
  ∀ p, (u.port p).events.getLsbD (eventBit k) = (s.port p).events.getLsbD (eventBit k)

section
variable {s u v : State} {j k : EventKind}

theorem State.keepsEvent_of_ports (h : u.ports = s.ports) (k : EventKind) : s.keepsEvent u k := fun p => by
  rw [← State.ports_get, h]
  rfl

theorem State.keepsEvent_of_raised (h : u.ports = s.portsRaised k) (hj : j ≠ k) : s.keepsEvent u j := fun p => by
  rw [← State.ports_get, h, State.portsRaised, PerPort.get_of, PortState.raise_leaves hj]

theorem State.keepsEvent.trans (h : s.keepsEvent u k) (h' : u.keepsEvent v k) : s.keepsEvent v k :=
  fun p => (h' p).trans (h p)

/-- R122: the counting of a wait leaves every event. -/
theorem State.keepsEvent_countWait (s : State) (p : Port) (k : EventKind) : s.keepsEvent (s.countWait p) k := fun q => by
  rw [State.countWait_port]
  split
  · next same =>
    subst same
    split
    · rfl
    · split <;> rfl
  · rfl

/-- R122: the three waits counted at a boundary. -/
def State.countWaits (s : State) : State := ((s.countWait .p0).countWait .p1).countWait .p2

/-- R122: the counting of the waits leaves all but the feed states and the ports. -/
theorem State.countWaits_eq (s : State) :
    s.countWaits = { s with feeds := s.countWaits.feeds, ports := s.countWaits.ports } := by
  have one : ∀ (u : State) (p : Port), u.countWait p =
      { u with feeds := (u.countWait p).feeds, ports := (u.countWait p).ports } := by
    intro u p
    unfold State.countWait
    split
    · rfl
    · split <;> rfl
  rw [State.countWaits, one, one (p := .p1), one (p := .p0)]

theorem State.keepsEvent_countWaits (s : State) (k : EventKind) : s.keepsEvent s.countWaits k :=
  .trans (.trans (State.keepsEvent_countWait s .p0 k) (State.keepsEvent_countWait _ .p1 k))
    (State.keepsEvent_countWait _ .p2 k)

/-- R122: with no wait nothing is counted. -/
theorem State.countWaits_none {s : State} (h : ∀ p, (s.feed p).wait = none) : s.countWaits = s := by
  have one : ∀ p, s.countWait p = s := fun p => by simp only [State.countWait, h]
  rw [State.countWaits, one, one, one]

end

/-! ### The block that closes (R36, R37, R56) -/

section
variable (s : State) (p : Nat)

/-- R36: the take goes on at a boundary that closes neither its last block nor a CLOSING take's. -/
theorem State.closeTakeBlock_goesOn (h : s.take.state = .rolling) (hq : s.take.sequence ≠ 65534) :
    s.closeTakeBlock p = { s with take := { s.take with sequence := s.take.sequence + 1 } } := by
  have goes : ¬ ((closesLastBlock s.take || decide (s.take.state = .closing)) = true) := by
    simp [closesLastBlock, h, hq]
  exact if_neg goes

/-- R37: the closing boundary. -/
theorem State.closeTakeBlock_closing (h : s.take.state = .closing) : s.closeTakeBlock p =
    { s with take := { s.take with gathering := false, sequence := s.take.sequence + 1, endPosition := p } } := by
  have last : (closesLastBlock s.take || decide (s.take.state = .closing)) = true := by simp [h]
  exact (if_pos last).trans (if_neg (by simp [h]))

/-- R36: the boundary that closes block 65534 in ROLLING. -/
theorem State.closeTakeBlock_last (h : s.take.state = .rolling) (hg : s.take.gathering = true)
    (hq : s.take.sequence = 65534) : s.closeTakeBlock p = { s with
      take := { s.take with
        state := .closing, gathering := false, endRequest := .close, sequence := 65535, endPosition := p }
      ports := s.portsRaised .takeChange } := by
  have last : (closesLastBlock s.take || decide (s.take.state = .closing)) = true := by simp [closesLastBlock, hg, hq]
  refine (if_pos last).trans ((if_pos h).trans ?_)
  rw [State.toTake_eq, if_neg (by simp [h]), hq]
  rfl

/-- R36, R37: the closing of a block raises TAKE_CHANGE at most. -/
theorem State.keepsEvent_closeTakeBlock {k : EventKind} (hk : k ≠ .takeChange) : s.keepsEvent (s.closeTakeBlock p) k := by
  have raised : ∀ (u : State) (st : TakeState), u.keepsEvent (u.toTake st) k := by
    intro u st
    unfold State.toTake
    split
    · exact State.keepsEvent_of_ports rfl k
    · exact State.keepsEvent_of_raised rfl hk
  unfold State.closeTakeBlock
  dsimp only
  split
  · split
    · exact State.keepsEvent.trans (State.keepsEvent_of_ports rfl k) (raised _ _)
    · exact State.keepsEvent_of_ports rfl k
  · exact State.keepsEvent_of_ports rfl k

end

/-! ### The hand-over (R74 to R76) -/

section
variable (s : State) (i : BufferId)

/-- R76, R105: the stream decision charged, and SHED raised where it shed or overran. -/
theorem State.decideStream_eq :
    let cost := streamCost (s.framer.buffer i) s.timebase.blockLength s.engine.cueCopy s.rate.roster
    let d := streamDecision cost s.rate.roster.length s.rate.prevShift (s.rate.budget + s.rate.level)
    s.decideStream i = { s with
      rate := s.rate.charge cost d, engine := { s.engine with decision := some d }
      ports := if d.shed || d.overrun then s.portsRaised .shed else s.ports } := by
  intro cost d
  unfold State.decideStream
  dsimp only
  split <;> rfl

/-- R108: SHED is raised where the decision shed or overran. -/
theorem State.shed_raised (told : Bool) (p : Port) :
    ((if told = true then s.portsRaised .shed else s.ports).get p).events.getLsbD (eventBit .shed) =
      ((s.port p).events.getLsbD (eventBit .shed) || told) := by
  cases told with
  | false => exact (Bool.or_false _).symm
  | true => rw [if_pos rfl, State.portsRaised, PerPort.get_of, PortState.raise_raises, Bool.or_true]

variable {s i}

/-- R36, R56, R74: a boundary that ends a gathered block. -/
theorem State.closeBlock_block (hg : s.take.gathering = true) (hi : s.framer.filling? = some i) (p : Nat) :
    s.closeBlock p = ((s.closeBuffer i s.take.number s.take.sequence).closeTakeBlock p).handOver i := by
  simp only [State.closeBlock, if_pos hg, hi]

/-- R56, R74 to R76, R103 to R108: the block being gathered passes to the coding engine. -/
theorem State.closeBlock_handsOver (hg : s.take.gathering = true) (hi : s.framer.filling? = some i)
    (hb : s.timebase.blockLength = blockLengthOf s.timebase.rate) (p : Nat) : s.HandsOver (s.closeBlock p) i := by
  obtain ⟨-, timebase, framer, -, engine, rate, -, -, cues, -⟩ :=
    (s.closeBuffer i s.take.number s.take.sequence).closeTakeBlock_frame p
  have shed := (s.closeBuffer i s.take.number s.take.sequence).keepsEvent_closeTakeBlock p (k := .shed) (by decide)
  rw [State.closeBlock_block hg hi]
  generalize (s.closeBuffer i s.take.number s.take.sequence).closeTakeBlock p = c at *
  have coding : c.framer.buffer i = { s.framer.buffer i with
      state := .coding, take := s.take.number, sequence := s.take.sequence } := by
    rw [framer]
    exact Framer.buffer_setBuffer_self ..
  have copied : cuesInBlock c.cues.entries (c.framer.buffer i).start c.timebase.blockLength = s.blockCues i := by
    rw [coding, cues, timebase]
    change cuesInBlock s.cues.entries (s.framer.buffer i).start s.timebase.blockLength = _
    rw [hb]
    rfl
  rw [State.handOver, State.decideStream_eq]
  have cost : streamCost (c.framer.buffer i) c.timebase.blockLength
      (cuesInBlock c.cues.entries (c.framer.buffer i).start c.timebase.blockLength) c.rate.roster = s.blockCost i := by
    rw [copied, coding, timebase, rate]
    change streamCost _ s.timebase.blockLength _ _ = _
    rw [hb]
    rfl
  dsimp only
  rw [cost, copied, rate, engine]
  refine ⟨coding, rfl, _, rfl, rfl, rfl, fun q => ?_⟩
  refine (State.shed_raised c _ q).trans ?_
  rw [shed q, ← Bool.or_assoc]
  rfl

/-- R56, R74: a hand-over seen from a later state that leaves what it changed. -/
theorem State.HandsOver.later {u v : State} (h : s.HandsOver u i) (buffer : v.framer.buffer i = u.framer.buffer i)
    (engine : v.engine = u.engine) (rate : v.rate = u.rate) (shed : u.keepsEvent v .shed) : s.HandsOver v i := by
  obtain ⟨coding, job, d, hd, decided, charged, told⟩ := h
  refine ⟨buffer.trans coding, ?_, d, ?_, decided, rate.trans charged, fun p => (shed p).trans (told p)⟩
  · rw [engine]
    exact job
  · rw [engine]
    exact hd

/-- R56: a gather buffer that passes to the coding engine under this take. -/
def State.codingBuffer (s : State) (i : BufferId) : GatherBuffer :=
  { s.framer.buffer i with state := .coding, take := s.take.number, sequence := s.take.sequence }

/-- R36, R56, R74: what the closing of a block replaces. -/
theorem State.closeBlock_eq (hg : s.take.gathering = true) (hi : s.framer.filling? = some i) (p : Nat) {tk : Take}
    {ports : PerPort PortState} (closes : (s.closeBuffer i s.take.number s.take.sequence).closeTakeBlock p =
      { s.closeBuffer i s.take.number s.take.sequence with take := tk, ports := ports }) :
    s.closeBlock p = { s with
      take := tk, framer := s.framer.setBuffer i (s.codingBuffer i), engine := (s.closeBlock p).engine
      rate := (s.closeBlock p).rate, ports := (s.closeBlock p).ports } := by
  rw [State.closeBlock_block hg hi, closes, State.handOver, State.decideStream_eq]
  rfl

end

/-! ### The boundary of a running take (R32, R46, R55) -/

/-- R46, R55: a gather buffer in which a block begins at `p`. -/
def GatherBuffer.begun (p : Nat) : GatherBuffer := { GatherBuffer.reset with state := .filling, start := p }

section
variable {s : State} {i j : BufferId}

/-- 03 §3.7: there are two gather buffers. -/
theorem BufferId.eq_of_ne (h : j ≠ i) : i = .b0 ∧ j = .b1 ∨ i = .b1 ∧ j = .b0 := by
  revert h
  cases i <;> cases j <;> decide

theorem BufferId.eq_of_ne_of_ne {k : BufferId} (h : j ≠ i) (h' : k ≠ i) : k = j := by
  revert h h'
  cases i <;> cases j <;> cases k <;> decide

/-- R55: of the two buffers, with one CODING and the other free, the other fills next. -/
theorem Framer.nextBuffer_coding {fr : Framer} {g : GatherBuffer} (hj : j ≠ i) (hg : g.state = .coding)
    (hf : (fr.buffer j).state = .free) : (fr.setBuffer i g).nextBuffer = j := by
  rcases BufferId.eq_of_ne hj with ⟨rfl, rfl⟩ | ⟨rfl, rfl⟩
  · exact if_pos hg
  · exact if_neg (by rw [show ((fr.setBuffer .b1 g).buffer0.state) = .free from hf]; decide)

/-- R55: the buffer that is FILLING, where the other is not. -/
theorem Framer.filling?_eq_some {fr : Framer} (hj : j ≠ i) (hi : (fr.buffer i).state ≠ .filling)
    (hf : (fr.buffer j).state = .filling) : fr.filling? = some j := by
  rcases BufferId.eq_of_ne hj with ⟨rfl, rfl⟩ | ⟨rfl, rfl⟩
  · exact (if_neg hi).trans (if_pos hf)
  · exact if_pos hf

/-- R55: with one buffer CODING and the other not FILLING, none fills. -/
theorem Framer.filling?_none {fr : Framer} {g : GatherBuffer} (hg : g.state = .coding)
    (hf : ∀ j, j ≠ i → (fr.buffer j).state ≠ .filling) : (fr.setBuffer i g).filling? = none := by
  have coding : g.state ≠ .filling := by rw [hg]; decide
  cases i
  · exact (if_neg coding).trans (if_neg (hf .b1 (by decide)))
  · exact (if_neg (hf .b0 (by decide))).trans (if_neg coding)

/-- R32: a boundary, with no block in coding and no take about to start. -/
theorem State.boundary_idle (he : s.engine.state = .idle) (p : Nat) (hs : (s.closeBlock p).take.state ≠ .starting) :
    s.boundary p = State.countWaits { (s.closeBlock p).openBlock p with mix := ((s.closeBlock p).openBlock p).mix.boundary } := by
  rw [State.boundary, State.finishJobs_idle he, State.startTake, if_neg fun start => hs start.1]
  rfl

/-- R32: what a boundary leaves of the state in which the block has closed and the next has begun. -/
theorem State.boundary_leaves (he : s.engine.state = .idle) (p : Nat) (hs : (s.closeBlock p).take.state ≠ .starting) :
    s.boundary p = { (s.closeBlock p).openBlock p with
      mix := ((s.closeBlock p).openBlock p).mix.boundary
      feeds := (s.boundary p).feeds, ports := (s.boundary p).ports } ∧
    (s.boundary p).engine = (s.closeBlock p).engine ∧ (s.boundary p).rate = (s.closeBlock p).rate ∧
    ∀ k, (s.closeBlock p).keepsEvent (s.boundary p) k := by
  have boundary := State.boundary_idle he p hs
  have counted := State.countWaits_eq { (s.closeBlock p).openBlock p with mix := ((s.closeBlock p).openBlock p).mix.boundary }
  rw [← boundary] at counted
  obtain ⟨-, -, -, -, engine, rate, -⟩ := (s.closeBlock p).openBlock_frame p
  refine ⟨counted, ?_, ?_, fun k => ?_⟩
  · rw [counted]
    exact engine
  · rw [counted]
    exact rate
  · rw [boundary]
    exact .trans (State.keepsEvent_of_ports (by simp) k) (State.keepsEvent_countWaits _ k)

section
variable (he : s.engine.state = .idle) (hg : s.take.gathering = true) (hi : s.framer.filling? = some i)
  (hb : s.timebase.blockLength = blockLengthOf s.timebase.rate) (p : Nat)
include he hg hi hb

/-- R36, R46, R55: a boundary at which the take goes on: buffer `i` to coding, a block begun in buffer `j`. -/
theorem State.boundary_goesOn (hr : s.take.state = .rolling) (hq : s.take.sequence ≠ 65534) (hj : j ≠ i)
    (hf : (s.framer.buffer j).state = .free) :
    s.boundary p = { s with
      take := { s.take with sequence := s.take.sequence + 1 }
      framer := (s.framer.setBuffer i (s.codingBuffer i)).setBuffer j (GatherBuffer.begun p), mix := s.mix.boundary
      engine := (s.closeBlock p).engine, rate := (s.closeBlock p).rate
      feeds := (s.boundary p).feeds, ports := (s.boundary p).ports } ∧ s.HandsOver (s.boundary p) i := by
  have closed := State.closeBlock_eq hg hi p (State.closeTakeBlock_goesOn (s.closeBuffer i _ _) p hr hq)
  have hands := State.closeBlock_handsOver hg hi hb p
  have state : (s.closeBlock p).take.state ≠ .starting := by rw [closed]; simp [hr]
  have opened : (s.closeBlock p).openBlock p =
      (s.closeBlock p).setBuffer j (GatherBuffer.begun p) := by
    have next : (s.closeBlock p).framer.nextBuffer = j := by
      rw [closed]
      exact Framer.nextBuffer_coding hj rfl hf
    rw [State.openBlock, if_pos (by rw [closed]; exact hg), State.startBuffer, next]
    rfl
  obtain ⟨counted, engine, rate, shed⟩ := State.boundary_leaves he p state
  rw [opened] at counted
  constructor
  · refine counted.trans ?_
    rw [closed]
    rfl
  · refine hands.later ?_ engine rate (shed .shed)
    rw [counted]
    exact Framer.buffer_setBuffer_ne _ _ hj.symm

/-- R36, R37, R55: a boundary that ends gathering: buffer `i` to coding. -/
theorem State.boundary_ends {tk : Take} {ports : PerPort PortState}
    (closes : (s.closeBuffer i s.take.number s.take.sequence).closeTakeBlock p =
      { s.closeBuffer i s.take.number s.take.sequence with take := tk, ports := ports })
    (ends : tk.state = .closing ∧ tk.gathering = false) :
    s.boundary p = { s with
      take := tk, framer := s.framer.setBuffer i (s.codingBuffer i), mix := s.mix.boundary
      engine := (s.closeBlock p).engine, rate := (s.closeBlock p).rate
      feeds := (s.boundary p).feeds, ports := (s.boundary p).ports } ∧ s.HandsOver (s.boundary p) i ∧
      ∀ k, (s.closeBlock p).keepsEvent (s.boundary p) k := by
  have closed := State.closeBlock_eq hg hi p closes
  have hands := State.closeBlock_handsOver hg hi hb p
  have state : (s.closeBlock p).take.state ≠ .starting := by rw [closed, ends.1]; decide
  have opened : (s.closeBlock p).openBlock p = s.closeBlock p := if_neg (by rw [closed]; simp [ends.2])
  obtain ⟨counted, engine, rate, events⟩ := State.boundary_leaves he p state
  rw [opened] at counted
  refine ⟨counted.trans ?_, hands.later ?_ engine rate (events .shed), events⟩
  · rw [closed]
  · rw [counted]

end
end

end Sys2Proof.Machine
end

section
/-! The sample period at a boundary: the first of a block begun, or none (R32 to R37, R45, R46, R164, R165). -/

namespace Sys2Proof.Machine

/-! ### The row at a boundary -/

section
variable {s : State} {t last : Nat} {due : List Nat} {refTimed : Bool}

/-- R32: the row SAMPLE_PERIOD_EVENT at a boundary, with steps at the links before the framer's requests (R164). -/
theorem exec_samplePeriodEvent_boundary (hrun : s.resetHeld = false) (come : s.sampleDue t refTimed last due)
    (hlast : s.timebase.position + 1 < lastPosition)
    (hin : (s.timebase.position + 1) % blockLengthOf s.timebase.rate = 0) (steps : List LinkStep) :
    exec (.samplePeriodEvent ⟨t, steps⟩) s =
      let v := ((s.advanced t last due).boundary (s.timebase.position + 1)).linkSteps steps
      .next (v.askLinks.gather v.linkAnswers refTimed) := by
  rw [exec_samplePeriodEvent_due hrun come, State.advancePosition_boundary (by exact hlast) (by exact hin)]
  rfl

/-- R56, R74: a hand-over does not depend on the position and the tick of the event. -/
theorem State.HandsOver.of_advanced {u : State} {i : BufferId} (h : (s.advanced t last due).HandsOver u i) :
    s.HandsOver u i := ⟨h.buffer, h.engine, h.decision⟩

end

/-! ### The first sample period of a block (R45, R46, R55) -/

/-- R45, R46, R53, R55: `u` is `s` after the links have been asked and `row` has joined, as its first, the block begun at `p`
in buffer `j`. -/
structure State.Begins (s u : State) (j : BufferId) (p : Nat) (refTimed : Bool) (row : SampleRow) : Prop where
  frame : u = { s with links := s.linksAsked, framer := u.framer, mix := u.mix, ports := u.ports }
  mix : u.mix = { s.mix with clipFlags := u.mix.clipFlags }
  state : (u.framer.buffer j).state = .filling
  start : (u.framer.buffer j).start = p
  rows : (u.framer.buffer j).rows = [row]
  holdover : (u.framer.buffer j).holdover = !refTimed
  others : ∀ k, k ≠ j → u.framer.buffer k = s.framer.buffer k
  ports : u.ports = s.portsRaised .mixClip ∨ u.ports = s.ports
  absent : ∀ x : Fin 64, (s.framer.map[x]).enabled = true → s.linkAnswers.get (s.framer.map[x]).link = none →
    row.tracks[x] = 0 ∧ ((u.framer.buffer j).marks[x]).absent = true

/-- R64: the first sample period of a block leaves every event but MIX_CLIP. -/
theorem State.Begins.events {s u : State} {j : BufferId} {p : Nat} {refTimed : Bool} {row : SampleRow}
    (h : s.Begins u j p refTimed row) {k : EventKind} (hk : k ≠ .mixClip) : s.keepsEvent u k := by
  rcases h.ports with told | told
  · exact State.keepsEvent_of_raised told hk
  · exact State.keepsEvent_of_ports told k

/-- R64: a gathered sample period raises MIX_CLIP at most. -/
theorem State.Gathers.ports_cases {s u : State} {i : BufferId} {answers : PerLink (Option LinkFrame)} {refTimed : Bool}
    {row : SampleRow} (h : s.Gathers u i answers refTimed row) : u.ports = s.portsRaised .mixClip ∨ u.ports = s.ports := by
  by_cases clear : ∀ b : Fin 4, s.mix.clipFlags[b] = false
  · by_cases some : ∃ b : Fin 4, saturates (s.busValue row.tracks (s.framer.buffer i).start b) = true
    · exact .inl (h.told clear some)
    · exact .inr (h.quiet (.inr fun b => by simpa using not_exists.1 some b))
  · exact .inr (h.quiet (.inl (by simpa using not_forall.1 clear)))

/-- R45, R46, R55: the first sample period of a block begun at `p`. -/
theorem State.askLinks_begins {s : State} {j : BufferId} {p : Nat} (hg : s.take.gathering = true)
    (hj : s.framer.filling? = some j) (begun : s.framer.buffer j = GatherBuffer.begun p) (refTimed : Bool) :
    ∃ row, s.Begins (s.askLinks.gather s.linkAnswers refTimed) j p refTimed row := by
  obtain ⟨row, gathers⟩ := State.askLinks_gathers hg hj refTimed
  generalize s.askLinks.gather s.linkAnswers refTimed = u at gathers
  have told := gathers.ports_cases
  obtain ⟨frame, mix, buffer, map, others, tracks, lastGood, marks, -, -, -⟩ := gathers
  have asked : (s.asking j s.linksAsked (s.marksAsked j)).framer.buffer j =
      { GatherBuffer.begun p with marks := s.marksAsked j } := by
    rw [← begun]
    exact Framer.buffer_setBuffer_self ..
  have sameMap : (s.asking j s.linksAsked (s.marksAsked j)).framer.map = s.framer.map := Framer.setBuffer_map ..
  rw [asked] at buffer
  refine ⟨row, frame, mix, ?_, ?_, ?_, ?_, fun k h => ?_, told, fun x enabled silent => ?_⟩
  · rw [buffer]; rfl
  · rw [buffer]; rfl
  · rw [buffer]; rfl
  · rw [buffer]; exact Bool.false_or _
  · exact (others k h).trans (Framer.buffer_setBuffer_ne _ _ h)
  · rw [tracks, marks, sameMap, formTrack_absent enabled silent]
    exact ⟨rfl, rfl⟩

/-! ### A take that goes on (R36, R46, R55, R74) -/

/-- R36, R46, R55, R74: the sample period at a boundary `p` of a take that goes on has turned `s` into `u`: the block in buffer
`i` passes to the engine and buffer `j` begins the next. -/
structure State.GoesOn (s u : State) (i j : BufferId) (p : Nat) (refTimed : Bool) : Prop where
  hands : s.HandsOver u i
  timebase : u.timebase = s.timebase
  store : u.store = s.store
  take : u.take = { s.take with sequence := s.take.sequence + 1 }
  filling : u.framer.filling? = some j
  start : (u.framer.buffer j).start = p
  rows : (u.framer.buffer j).rows.length = 1
  holdover : (u.framer.buffer j).holdover = !refTimed
  mix : u.mix = { s.mix.boundary with clipFlags := u.mix.clipFlags }

section
variable {s : State} {i j : BufferId} (he : s.engine.state = .idle) (hg : s.take.gathering = true)
  (hi : s.framer.filling? = some i) (hb : s.timebase.blockLength = blockLengthOf s.timebase.rate)
  (hr : s.take.state = .rolling) (hq : s.take.sequence ≠ 65534) (hj : j ≠ i) (hf : (s.framer.buffer j).state = .free)
include he hg hi hb hr hq hj hf

/-- R36, R46, R55, R164: the sample period at a boundary of a take that goes on, `w` being the state in which the framer
makes its requests. -/
theorem State.boundary_gathers {p : Nat} {w : State}
    (hw : w = { s.boundary p with links := w.links, cues := w.cues, ports := w.ports })
    (shed : (s.boundary p).keepsEvent w .shed) (refTimed : Bool) :
    s.GoesOn (w.askLinks.gather w.linkAnswers refTimed) i j p refTimed ∧
      ∃ row, w.Begins (w.askLinks.gather w.linkAnswers refTimed) j p refTimed row := by
  obtain ⟨goes, hands⟩ := State.boundary_goesOn he hg hi hb p hr hq hj hf
  have take : w.take = { s.take with sequence := s.take.sequence + 1 } := by rw [hw, goes]
  have framer : w.framer = (s.framer.setBuffer i (s.codingBuffer i)).setBuffer j (GatherBuffer.begun p) := by
    rw [hw, goes]
  have mix : w.mix = s.mix.boundary := by rw [hw, goes]
  have begun : w.framer.buffer j = GatherBuffer.begun p := by rw [framer, Framer.buffer_setBuffer_self]
  have coding : w.framer.buffer i = s.codingBuffer i := by
    rw [framer, Framer.buffer_setBuffer_ne _ _ hj.symm, Framer.buffer_setBuffer_self]
  have filling : w.framer.filling? = some j :=
    Framer.filling?_eq_some hj (by rw [coding]; exact nofun) (by rw [begun]; rfl)
  obtain ⟨row, begins⟩ := State.askLinks_begins (by rw [take]; exact hg) filling begun refTimed
  refine ⟨?_, row, begins⟩
  generalize w.askLinks.gather w.linkAnswers refTimed = u at begins
  have events := begins.events (k := .shed) (by decide)
  obtain ⟨frame, clips, state, start, rows, holdover, others, -, -⟩ := begins
  have left : u.framer.buffer i = s.codingBuffer i := (others i hj.symm).trans coding
  refine ⟨hands.later ?_ ?_ ?_ (shed.trans events), ?_, ?_, ?_, ?_, start, ?_, holdover, ?_⟩
  · rw [left, goes]
    exact (Framer.buffer_setBuffer_ne _ _ hj.symm).trans (Framer.buffer_setBuffer_self ..) |>.symm
  · rw [frame, hw]
  · rw [frame, hw]
  · rw [frame, hw, goes]
  · rw [frame, hw, goes]
  · rw [frame, ← take]
  · exact Framer.filling?_eq_some hj (by rw [left]; exact nofun) state
  · rw [rows]
    rfl
  · rw [← mix]
    exact clips

end

/-! ### A take whose gathering ends (R36, R37) -/

/-- R76: a hand-over raises SHED at most. -/
theorem State.keepsEvent_handOver (s : State) (i : BufferId) {k : EventKind} (hk : k ≠ .shed) :
    s.keepsEvent (s.handOver i) k := by
  rw [State.handOver, State.decideStream_eq]
  refine .trans (State.keepsEvent_of_ports (u := { s with engine := { s.engine with
    state := .stream, block := some i, archiveQueued := true
    cueCopy := cuesInBlock s.cues.entries (s.framer.buffer i).start s.timebase.blockLength } }) rfl k) fun p => ?_
  dsimp only
  split
  · exact State.keepsEvent_of_raised (k := .shed) rfl hk p
  · rfl

/-- R45, R58: a sample period outside a block only asks the links. -/
theorem State.gathers_nothing {s : State} (h : s.take.gathering = false) (refTimed : Bool) :
    s.askLinks.gather s.linkAnswers refTimed = { s with links := s.linksAsked } := by
  rw [State.askLinks_none h, State.gather_none (by exact h)]
  rfl

/-- R36, R37, R74: the sample period at a boundary `p` that ends gathering has turned `s` into `u`, the take being `tk`. -/
structure State.EndsGathering (s u : State) (i : BufferId) (tk : Take) : Prop where
  hands : s.HandsOver u i
  timebase : u.timebase = s.timebase
  store : u.store = s.store
  cues : u.cues = s.cues
  take : u.take = tk
  framer : u.framer = s.framer.setBuffer i (s.codingBuffer i)
  mix : u.mix = s.mix.boundary

section
variable {s : State} {i : BufferId} (he : s.engine.state = .idle) (hg : s.take.gathering = true)
  (hi : s.framer.filling? = some i) (hb : s.timebase.blockLength = blockLengthOf s.timebase.rate) (p : Nat)
include he hg hi hb

/-- R36, R37, R45: the sample period at a boundary that ends gathering. -/
theorem State.boundary_gathers_nothing {tk : Take} {ports : PerPort PortState}
    (closes : (s.closeBuffer i s.take.number s.take.sequence).closeTakeBlock p =
      { s.closeBuffer i s.take.number s.take.sequence with take := tk, ports := ports })
    (ends : tk.state = .closing ∧ tk.gathering = false) (refTimed : Bool) :
    (s.boundary p).askLinks.gather (s.boundary p).linkAnswers refTimed =
      { s.boundary p with links := (s.boundary p).linksAsked } ∧
    s.EndsGathering { s.boundary p with links := (s.boundary p).linksAsked } i tk := by
  obtain ⟨closed, hands, -⟩ := State.boundary_ends he hg hi hb p closes ends
  have take : (s.boundary p).take = tk := by rw [closed]
  refine ⟨State.gathers_nothing (by rw [take]; exact ends.2) _, hands.later rfl rfl rfl fun _ => rfl, ?_, ?_, ?_, take, ?_, ?_⟩
  · rw [closed]
  · rw [closed]
  · rw [closed]
  · rw [closed]
  · rw [closed]

/-- R36, R40: the boundary that closes block 65534 in ROLLING raises TAKE_CHANGE at every port. -/
theorem State.boundary_last_takeChange (hr : s.take.state = .rolling) (hq : s.take.sequence = 65534) (q : Port) :
    ((s.boundary p).port q).events.getLsbD (eventBit .takeChange) = true := by
  have closes := State.closeTakeBlock_last (s.closeBuffer i s.take.number s.take.sequence) p hr hg hq
  obtain ⟨-, -, events⟩ := State.boundary_ends he hg hi hb p closes ⟨rfl, rfl⟩
  rw [events .takeChange q, State.closeBlock_block hg hi, closes,
    State.keepsEvent_handOver _ _ (show EventKind.takeChange ≠ .shed by decide) q]
  rw [← State.ports_get, State.portsRaised, PerPort.get_of]
  exact PortState.raise_raises ..

end

/-- R36: the row TAKE_LENGTH_LIMIT at the boundary that closes block 65534, timed by the oscillator. -/
theorem exec_takeLengthLimit {s : State} {t : Nat} (hrun : s.resetHeld = false) (hclock : s.timebase.clock ≠ .locked)
    (hnext : s.timebase.nextOscillator ≤ max s.now t) (hg : s.take.gathering = true) (hq : s.take.sequence = 65534)
    (hlast : s.timebase.position + 1 < lastPosition)
    (hin : (s.timebase.position + 1) % blockLengthOf s.timebase.rate = 0) :
    exec (.takeLengthLimit t) s =
      let v := (s.advanced t s.timebase.nextOscillator s.timebase.edgesDue).boundary (s.timebase.position + 1)
      .next (v.askLinks.gather v.linkAnswers false) := by
  have wanted : (State.isBoundary ((s.advance t).sampleTaken s.timebase.nextOscillator s.timebase.edgesDue) &&
      closesLastBlock ((s.advance t).sampleTaken s.timebase.nextOscillator s.timebase.edgesDue).take) = true := by
    have below : s.timebase.position < lastPosition := by omega
    simp [State.isBoundary, closesLastBlock, State.sampleTaken, State.advance, below, hin, hg, hq]
  simp only [exec, execTakeLengthLimit, State.eventAt_running hrun]
  rw [State.sampleIf_oscillator (s := s.advance t) hclock hnext]
  simp only [State.advance_timebase, wanted, ↓reduceIte, id]
  rw [State.advancePosition_boundary (by exact hlast) (by exact hin)]
  rfl

/-! ### A link lost between the boundary and the framer's requests (R164) -/

/-- R17: what one link gives when the four are asked. -/
theorem State.linkAnswers_get (s : State) (l : LinkId) : s.linkAnswers.get l = (s.link l).request.2 := by cases l <;> rfl

theorem State.linksAsked_get (s : State) (l : LinkId) : s.linksAsked.get l = (s.link l).request.1 := by cases l <;> rfl

/-- R3, R13, R164: the edge timeout of a LOCKED link that is not the reference, as a step of a sample-period event. -/
theorem State.linkStep_timeout_locked {s : State} {l : LinkId} (enabled : (s.link l).enabled = true)
    (quiet : (s.link l).timedOut = false) (locked : (s.link l).lock = .locked)
    (come : (s.link l).quietSince + (s.link l).settings.timeout + 1 ≤ s.now) (other : s.timebase.reference ≠ .link l) :
    s.linkSteps [.timeout l] = { s with
      links := s.links.set l ((s.link l).silenced.depart .hunt)
      cues := s.cuesAsked s.cues (linkLostLabel l), ports := s.portsRaised .linkChange } := by
  have silent : (s.link l).timeoutBy? s.now = some ((s.link l).quietSince + (s.link l).settings.timeout + 1) :=
    if_pos (by simp [enabled, quiet, come])
  rw [State.linkSteps_cons, State.linkSteps_nil, State.linkStep, State.silence, silent]
  dsimp only
  rw [State.takeTimeout_locked locked, State.announceDeparture_other (by exact other)]
  rfl

end Sys2Proof.Machine
end

section
/-! The obligations on boundaries: a block closes, a link or the reference is lost around a boundary, a take starts (R28, R32,
R35 to R37, R164, R165). -/

namespace Sys2Proof.Machine

/-- R25, R27: the premise that an event has come, in the words of the boundary's obligations. -/
theorem State.exists_sampleDue {s : State} {t : Nat} {refTimed : Bool}
    (h : (refTimed = true ∧ s.timebase.clock = .locked ∧ s.timebase.edgesDue ≠ []) ∨
      (refTimed = false ∧ s.timebase.clock ≠ .locked ∧ s.timebase.nextOscillator ≤ max s.now t)) :
    ∃ last due, s.sampleDue t refTimed last due := by
  rcases h with ⟨timed, locked, some⟩ | ⟨timed, unlocked, come⟩
  · obtain ⟨last, due, edges⟩ := List.exists_cons_of_ne_nil some
    exact ⟨last, due, .inl ⟨timed, locked, edges⟩⟩
  · exact ⟨_, _, .inr ⟨timed, unlocked, come, rfl, rfl⟩⟩

/-- Settles O34, by the hand-over and what the take does at the boundary. -/
theorem blocksCloseAtBoundaries : Obligations.BlocksCloseAtBoundaries := by
  refine ⟨fun t s i hrun hclock hnext hr hg hq hi he alone hlast hin => ?_, ?_⟩
  · have closes := State.closeTakeBlock_last
      ((s.advanced t s.timebase.nextOscillator s.timebase.edgesDue).closeBuffer i s.take.number s.take.sequence)
      (s.timebase.position + 1) hr hg hq
    obtain ⟨row, ends⟩ := State.boundary_gathers_nothing (s := s.advanced t s.timebase.nextOscillator s.timebase.edgesDue)
      he hg hi rfl (s.timebase.position + 1) closes ⟨rfl, rfl⟩ false
    refine ⟨_, (exec_takeLengthLimit hrun hclock hnext hg hq hlast hin).trans (congrArg Host.Outcome.next row), ?_,
      ends.take, ends.hands.of_advanced, ?_, ends.cues, ends.store, fun q => ?_⟩
    · rw [ends.timebase]
      rfl
    · rw [ends.framer]
      exact Framer.filling?_none rfl alone
    · exact State.boundary_last_takeChange (s := s.advanced t s.timebase.nextOscillator s.timebase.edgesDue) he hg hi rfl
        (s.timebase.position + 1) hr hq q
  · intro t s i j refTimed hrun come hg hi hj hf he hlast hin p handedOver goesOn
    obtain ⟨last, due, come⟩ := State.exists_sampleDue come
    have event := exec_samplePeriodEvent_boundary hrun come hlast hin
    refine ⟨fun hr hq => ?_, fun closing => ?_, fun l hr hq enabled quiet locked silent other room => ?_⟩
    · obtain ⟨goes, row, begins⟩ := State.boundary_gathers (s := s.advanced t last due) (p := p) he hg hi rfl hr (by exact hq.ne)
        hj hf (w := (s.advanced t last due).boundary p) rfl (fun _ => rfl) refTimed
      refine ⟨_, event [], ⟨by rw [State.linkSteps_nil, goes.timebase]; rfl, goes.store, goes.hands.of_advanced⟩,
        ⟨goes.take, goes.filling, goes.start, goes.rows, goes.holdover, goes.mix⟩, ?_⟩
      simp only [State.linkSteps_nil, State.gather_frame, State.askLinks_frame, State.boundary_frame]
      rfl
    · have closes := State.closeTakeBlock_closing ((s.advanced t last due).closeBuffer i s.take.number s.take.sequence) p closing
      obtain ⟨row, ends⟩ := State.boundary_gathers_nothing (s := s.advanced t last due) he hg hi rfl p closes
        ⟨closing, rfl⟩ refTimed
      refine ⟨_, (event []).trans (congrArg Host.Outcome.next row), ⟨by rw [ends.timebase]; rfl, ends.store,
        ends.hands.of_advanced⟩, ends.cues, ends.take, ?_, ?_, ends.mix⟩
      · rw [ends.framer]
        exact Framer.filling?_none rfl fun k hk => by
          rw [BufferId.eq_of_ne_of_ne hj hk, show ((s.advanced t last due).framer.buffer j).state = .free from hf]
          decide
      · rw [ends.framer]
        exact Framer.buffer_setBuffer_ne _ _ hj
    · obtain ⟨opened, -⟩ := State.boundary_goesOn (s := s.advanced t last due) he hg hi rfl p hr (by exact hq.ne) hj hf
      have lost := State.linkStep_timeout_locked (s := (s.advanced t last due).boundary p) (l := l)
        (by rw [opened]; exact enabled) (by rw [opened]; exact quiet) (by rw [opened]; exact locked)
        (by rw [opened]; exact silent) (by rw [opened]; exact other)
      have event := event [.timeout l]
      generalize ((s.advanced t last due).boundary p).linkSteps [.timeout l] = w at lost event
      obtain ⟨goes, row, begins⟩ := State.boundary_gathers (s := s.advanced t last due) (p := p) (w := w) he hg hi rfl hr
        (by exact hq.ne) hj hf (by rw [lost]) (State.keepsEvent_of_raised (k := .linkChange) (by rw [lost]) (by decide))
        refTimed
      have hunt : w.link l = (s.link l).silenced.depart .hunt := by
        rw [lost, opened]
        exact PerLink.get_set_self ..
      have silenced : (w.link l).request = (w.link l, none) := LinkRx.request_notReady (by rw [hunt]; rfl)
      have asked : w.cues = { s.cues with requests := s.cues.requests ++ [⟨linkLostLabel l, p⟩] } := by
        rw [lost, opened]
        exact if_pos ⟨.inl hr, room⟩
      refine ⟨_, row, event, ⟨by rw [goes.timebase]; rfl, goes.store, goes.hands.of_advanced⟩,
        ⟨goes.take, goes.filling, goes.start, goes.rows, goes.holdover, goes.mix⟩, ?_, begins.rows, ?_, fun x on named => ?_⟩
      · rw [begins.frame]
        change (w.linksAsked.get l).lock = .hunt
        rw [State.linksAsked_get, silenced, hunt]
        rfl
      · rw [begins.frame]
        exact asked
      · have map : w.framer.map = s.framer.map := by
          rw [lost, opened]
          exact (Framer.setBuffer_map ..).trans (Framer.setBuffer_map ..)
        exact begins.absent x (by rw [map]; exact on) (by rw [map, named, State.linkAnswers_get, silenced])

end Sys2Proof.Machine
end

section
/-! The reference falls silent, at a moment and around a boundary (R24, R26, R28, R30, R165). -/

namespace Sys2Proof.Machine

/-! ### Late periods and absences outside LOCKED -/

section
variable {s : State} {t : Nat} (hrun : s.resetHeld = false) (href : s.timebase.reference ≠ .none)
include hrun href

/-- R24, R28: a late period in HOLDOVER. -/
theorem exec_latePeriod_holdover {d : Nat} (hd : s.timebase.lastEdge = some d)
    (hle : d + s.timebase.nominal + 17 ≤ max s.now t) (hc : s.timebase.clock = .holdover) :
    exec (.latePeriod t) s = .next { s with now := max s.now t, timebase := { s.timebase with lastEdge := none } } := by
  rw [exec_latePeriod hrun (Timebase.lateBy?_eq_some.2 ⟨d, hd, href, rfl, hle⟩), State.takeLate,
    State.badPeriod_idle (by exact .inr hc)]
  rfl

/-- R24, R26: a late period in ACQUIRE. -/
theorem exec_latePeriod_acquire {d : Nat} (hd : s.timebase.lastEdge = some d)
    (hle : d + s.timebase.nominal + 17 ≤ max s.now t) (hc : s.timebase.clock = .acquire) :
    exec (.latePeriod t) s = .next { s with
      now := max s.now t, timebase := { s.timebase with lastEdge := none, goodCount := 0 } } := by
  rw [exec_latePeriod hrun (Timebase.lateBy?_eq_some.2 ⟨d, hd, href, rfl, hle⟩), State.takeLate,
    State.badPeriod_acquire (by exact hc)]
  rfl

section
variable (hle : s.timebase.absenceStart + 2 * s.timebase.nominal ≤ max s.now t)
include hle

/-- R24: the row REFERENCE_ABSENT at its moment. -/
theorem exec_referenceAbsent_due : exec (.referenceAbsent t) s =
    .next ((s.advance t).takeAbsence (s.timebase.absenceStart + 2 * s.timebase.nominal)) :=
  exec_referenceAbsent hrun (Timebase.absentBy?_eq_some.2 ⟨href, rfl, hle⟩)

/-- R24, R28: an absence in HOLDOVER. -/
theorem exec_referenceAbsent_holdover (hc : s.timebase.clock = .holdover) :
    exec (.referenceAbsent t) s = .next { s with
      now := max s.now t
      timebase := { s.timebase with
        lastEdge := none, absenceStart := s.timebase.absenceStart + 2 * s.timebase.nominal } } := by
  rw [exec_referenceAbsent_due hrun href hle, State.takeAbsence, State.badPeriod_idle (by exact .inr hc)]
  rfl

/-- R24, R26: an absence in ACQUIRE. -/
theorem exec_referenceAbsent_acquire (hc : s.timebase.clock = .acquire) :
    exec (.referenceAbsent t) s = .next { s with
      now := max s.now t
      timebase := { s.timebase with
        lastEdge := none, absenceStart := s.timebase.absenceStart + 2 * s.timebase.nominal, goodCount := 0 } } := by
  rw [exec_referenceAbsent_due hrun href hle, State.takeAbsence, State.badPeriod_acquire (by exact hc)]
  rfl

/-- R24, R28: an absence in LOCKED. -/
theorem exec_referenceAbsent_locked (hc : s.timebase.clock = .locked) :
    exec (.referenceAbsent t) s = .next { s with
      now := max s.now t, cues := s.cuesAsked s.cues clockHoldLabel, ports := s.portsRaised .clockChange
      timebase := { s.timebase with
        lastEdge := none, absenceStart := s.timebase.absenceStart + 2 * s.timebase.nominal
        clock := .holdover, goodCount := 0, edgesDue := []
        nextOscillator := max (s.timebase.lastSample + s.timebase.nominal)
          (s.timebase.absenceStart + 2 * s.timebase.nominal) } } := by
  rw [exec_referenceAbsent_due hrun href hle, State.takeAbsence, State.badPeriod_locked (by exact hc),
    State.enterHoldover_locked (by exact hc)]
  rfl

end
end

/-! ### HOLDOVER entered around a boundary (R165) -/

/-- R28: a CLOCK HOLD request of a running take with room in the queue. -/
theorem State.cuesAsked_running {s : State} (h : s.take.state = .rolling ∨ s.take.state = .closing) {c : Cues}
    (room : c.requests.length < 8) (label : List Byte) :
    s.cuesAsked c label = { c with requests := c.requests ++ [⟨label, s.timebase.position⟩] } := if_pos ⟨h, room⟩

/-- R54, R56: the closing block keeps its HOLDOVER flag. -/
theorem State.HandsOver.holdover {s u : State} {i : BufferId} (h : s.HandsOver u i) :
    (u.framer.buffer i).holdover = (s.framer.buffer i).holdover := by rw [h.buffer]

/-- A sample period at a boundary, seen from the state before the event. -/
theorem exec_boundary_goesOn {s : State} {t last : Nat} {due : List Nat} {refTimed : Bool} {i j : BufferId}
    (hrun : s.resetHeld = false) (come : s.sampleDue t refTimed last due) (hlast : s.timebase.position + 1 < lastPosition)
    (hin : (s.timebase.position + 1) % blockLengthOf s.timebase.rate = 0) (he : s.engine.state = .idle)
    (hg : s.take.gathering = true) (hi : s.framer.filling? = some i) (hr : s.take.state = .rolling)
    (hq : s.take.sequence ≠ 65534) (hj : j ≠ i) (hf : (s.framer.buffer j).state = .free) :
    ∃ u, exec (.samplePeriodEvent ⟨t, []⟩) s = .next u ∧
      (s.advanced t last due).GoesOn u i j (s.timebase.position + 1) refTimed ∧ u.cues = s.cues ∧
      u.now = max s.now t ∧ u.resetHeld = s.resetHeld := by
  obtain ⟨goes, -⟩ := State.boundary_gathers (s := s.advanced t last due) (p := s.timebase.position + 1) he hg hi rfl hr
    hq hj hf (w := (s.advanced t last due).boundary (s.timebase.position + 1)) rfl (fun _ => rfl) refTimed
  refine ⟨_, exec_samplePeriodEvent_boundary hrun come hlast hin [], goes, ?_⟩
  simp only [State.linkSteps_nil, State.gather_frame, State.askLinks_frame, State.boundary_frame]
  exact ⟨rfl, rfl, rfl⟩

/-- Settles O30, by the row of each silence and, around a boundary, by the order of the two rows. -/
theorem silencesOfTheReference : Obligations.SilencesOfTheReference := by
  refine ⟨fun t s hrun href => ⟨fun d hd => ⟨fun early => ?_, fun come => ⟨?_, ?_, ?_⟩⟩, fun early => ?_, fun come =>
    ⟨?_, ?_, ?_⟩⟩, ?_⟩
  · exact exec_latePeriod_early hrun (Timebase.lateBy?_none_of_lt hd early)
  · exact exec_latePeriod_acquire hrun href hd come
  · exact exec_latePeriod_holdover hrun href hd come
  · exact exec_latePeriod_locked hrun href hd come
  · exact exec_referenceAbsent_early hrun early
  · exact exec_referenceAbsent_acquire hrun href come
  · exact exec_referenceAbsent_holdover hrun href come
  · exact exec_referenceAbsent_locked hrun href come
  · intro t d e s i j hrun href hc hedge hd hn late next hr hg hq room hi hj hf he hlast hin p flags asked
    have request := State.cuesAsked_running (.inl hr) room clockHoldLabel
    constructor
    · have entered := exec_latePeriod_locked hrun href hd late hc
      rw [request] at entered
      obtain ⟨u, event, goes, cues, -⟩ := exec_boundary_goesOn (t := t) (i := i) (j := j)
        (s := { s with
          now := max s.now t, cues := asked (p - 1), ports := s.portsRaised .clockChange
          timebase := { s.timebase with
            lastEdge := none, clock := .holdover, goodCount := 0, edgesDue := []
            nextOscillator := max (s.timebase.lastSample + s.timebase.nominal) (d + s.timebase.nominal + 17) } })
        hrun (.inr ⟨rfl, nofun, by simp only; omega, rfl, rfl⟩) hlast hin he hg hi hr (by exact hq.ne) hj hf
      refine ⟨_, u, entered, event, ⟨?_, ?_, ?_, goes.filling, goes.start, goes.holdover, goes.hands.holdover⟩, cues⟩
      · rw [goes.timebase]; rfl
      · rw [goes.timebase]; rfl
      · rw [goes.timebase]; rfl
    · obtain ⟨taken, event, goes, cues, now, reset⟩ := exec_boundary_goesOn (t := t) (i := i) (j := j) hrun
        (.inl ⟨rfl, hc, hedge⟩) hlast hin he hg hi hr (by exact hq.ne) hj hf
      have entered := exec_latePeriod_locked (s := taken) (t := t) (d := d) (reset.trans hrun)
        (by rw [goes.timebase]; exact href) (by rw [goes.timebase]; exact hd)
        (by rw [goes.timebase, now]; change d + nominalOf s.timebase.rate + 17 ≤ _; rw [← hn]; omega)
        (by rw [goes.timebase]; exact hc)
      refine ⟨taken, _, event, entered, ⟨?_, rfl, rfl, goes.filling, goes.start, goes.holdover, goes.hands.holdover⟩, ?_, ?_⟩
      · rw [goes.timebase]; rfl
      · rw [State.cuesAsked_running (by rw [goes.take]; exact .inl hr) (by rw [cues]; exact room), cues, goes.timebase]
        rfl
      · rw [goes.timebase]
        change max (e + nominalOf s.timebase.rate) (d + nominalOf s.timebase.rate + 17) = _
        rw [← hn]

end Sys2Proof.Machine
end

section
/-! The boundary at which a take starts (R32, R35, R46, R55, R102). -/

namespace Sys2Proof.Machine

/-- R154: events raised twice over are raised. -/
theorem PortState.sameTransaction.trans {a b c : PortState} (h : a.sameTransaction b) (h' : b.sameTransaction c) :
    a.sameTransaction c := by
  obtain ⟨frame, events⟩ := h
  obtain ⟨frame', events'⟩ := h'
  refine ⟨by rw [frame', frame], ?_⟩
  rw [← events, BitVec.and_assoc, events']

section
variable {s : State} {p : Nat}

/-- R32, R35, R46, R55, R102: the boundary at the take start position, with no block in coding and no port waiting. -/
theorem State.boundary_starts (hs : s.take.state = .starting) (hp : p = s.take.startPosition) (hg : s.take.gathering = false)
    (he : s.engine.state = .idle) (idle : ∀ q, (s.feed q).wait = none) (free : s.framer.buffer0.state = .free) :
    s.boundary p = { s with
      take := { s.take with
        state := .rolling, gathering := true, sequence := 0, number := takeAfter s.take.number }
      rate := s.rate.initTake, framer := s.framer.setBuffer .b0 (GatherBuffer.begun p), mix := s.mix.boundary
      ports := s.portsRaised .takeChange } := by
  have closed : s.closeBlock p = s := if_neg (by simp [hg])
  have next : s.framer.nextBuffer = .b0 := if_neg (by rw [free]; decide)
  have started : s.startTake p = { s with
      take := { s.take with state := .rolling, gathering := true, sequence := 0, number := takeAfter s.take.number }
      rate := s.rate.initTake, ports := s.portsRaised .takeChange } := by
    rw [State.startTake, if_pos ⟨hs, hp⟩, State.toTake_eq, if_neg (by simp [hs])]
    rfl
  have opened : (s.startTake p).openBlock p = (s.startTake p).setBuffer .b0 (GatherBuffer.begun p) := by
    rw [State.openBlock, if_pos (by rw [started]), State.startBuffer, show (s.startTake p).framer.nextBuffer = .b0 by
      rw [started]; exact next]
    rfl
  rw [State.boundary, State.finishJobs_idle he, closed, opened, started]
  exact State.countWaits_none idle

end

/-- Settles O33: the take starts, a block begins in buffer 0, and its first sample period is gathered. -/
theorem takeStartsAtItsBoundary : Obligations.TakeStartsAtItsBoundary := by
  intro t s hrun hclock hnext hs hg he idle hlast hin hp free0 free1
  have starts := State.boundary_starts (s := s.advanced t s.timebase.nextOscillator s.timebase.edgesDue) hs hp.symm hg he
    idle free0
  have event := exec_samplePeriodEvent_boundary (refTimed := false) hrun (.inr ⟨rfl, hclock, hnext, rfl, rfl⟩) hlast hin []
  rw [State.linkSteps_nil] at event
  generalize (s.advanced t s.timebase.nextOscillator s.timebase.edgesDue).boundary (s.timebase.position + 1) = v
    at starts event
  have begun : v.framer.buffer .b0 = GatherBuffer.begun (s.timebase.position + 1) := by rw [starts]; rfl
  obtain ⟨row, begins⟩ := State.askLinks_begins (s := v) (by rw [starts]) (by rw [starts]; rfl) begun false
  refine ⟨_, event, ?_⟩
  generalize v.askLinks.gather v.linkAnswers false = u at begins
  obtain ⟨frame, -, state, start, rows, holdover, others, ports, -⟩ := begins
  refine ⟨?_, ?_, ?_, ?_, start.trans hp.symm, ?_, holdover, ?_, fun q => ?_, ?_, ?_, ?_, ?_⟩
  · rw [frame, starts, hp]; rfl
  · rw [frame, starts]; rfl
  · rw [frame, starts]; rfl
  · exact if_pos state
  · rw [rows]; rfl
  · rw [others .b1 (by decide), starts]; rfl
  · have told : v.port q = (s.port q).raise .takeChange := by rw [starts]; exact PerPort.get_of ..
    have raised : u.port q = (v.port q).raise .mixClip ∨ u.port q = v.port q := by
      rcases ports with e | e <;> rw [← State.ports_get, e]
      · exact .inl (PerPort.get_of ..)
      · exact .inr rfl
    rw [told] at raised
    have same := (s.port q).sameTransaction_raise .takeChange
    have takeChange := (s.port q).raise_raises .takeChange
    rcases raised with e | e <;> rw [e]
    · exact ⟨PortState.raise_keeps takeChange _, same.trans (PortState.sameTransaction_raise ..)⟩
    · exact ⟨takeChange, same⟩
  · rw [frame, starts]; rfl
  · rw [frame, starts]; rfl
  · rw [frame, starts]; rfl
  · rw [frame, starts]; rfl

end Sys2Proof.Machine
end

section
/-! Bus samples, gain ramps, and the mix engine at a block boundary (04 §4.2, §4.3; R61 to R68). -/

namespace Sys2Proof.Machine

/-! ### The sum of a bus (R61, R62) -/

/-- A table as the list of its entries in order. -/
theorem toList_eq_map_finRange {α : Type} {n : Nat} (v : Vector α n) :
    v.toList = (List.finRange n).map fun x => v[x] := by
  apply List.ext_getElem <;> simp

/-- R62, R66: a bus sums what each of the 64 tracks adds under its entry. -/
theorem busSum_eq_sum (entries : Vector GainEntry 64) (ramp : Ramp) (tracks : Vector Sample 64) (n len : Nat) :
    busSum entries ramp tracks n len = ((List.finRange 64).map fun x : Fin 64 => contribution (tracks[x]).toInt
      (gainAt ramp.ramping ramp.starting[x] entries[x] n len) (entries[x]).inverted).sum := by
  rw [busSum, toList_eq_map_finRange entries, toList_eq_map_finRange ramp.starting,
    toList_eq_map_finRange tracks, List.zip_map', List.zip_map', List.map_map]
  rfl

/-- R62: a sample is at most 2^23 in size. -/
theorem natAbs_sample_le (x : Sample) : x.toInt.natAbs ≤ 8388608 := by
  have low := BitVec.le_toInt x
  have high := BitVec.toInt_lt (x := x)
  omega

/-- R61, R62: polarity does not change the size of what a track adds. -/
theorem natAbs_contribution (x gain : Int) (inverted : Bool) :
    (contribution x gain inverted).natAbs = x.natAbs * gain.natAbs := by
  cases inverted <;> simp [contribution, Int.natAbs_mul]

/-- R62: a track adds at most a full-scale sample under the greatest gain. -/
theorem natAbs_contribution_le (x : Sample) (gain : BitVec 16) (inverted : Bool) :
    (contribution x.toInt gain.toNat inverted).natAbs ≤ 8388608 * 65535 := by
  rw [natAbs_contribution, Int.natAbs_natCast]
  exact Nat.mul_le_mul (natAbs_sample_le x) (by omega)

/-- A sum of integers of bounded size. -/
theorem natAbs_sum_le {c : Nat} {l : List Int} (h : ∀ x ∈ l, x.natAbs ≤ c) : l.sum.natAbs ≤ l.length * c := by
  induction l with
  | nil => simp
  | cons x xs ih =>
    obtain ⟨hx, hxs⟩ := List.forall_mem_cons.1 h
    have split := Int.natAbs_add_le x xs.sum
    rw [List.sum_cons, List.length_cons, Nat.succ_mul]
    have rest := ih hxs
    omega

/-- R62: the sum of a bus that does not ramp stays within its range. -/
theorem natAbs_busSum_le (entries : Vector GainEntry 64) (starting : Vector (BitVec 16) 64) (tracks : Vector Sample 64)
    (n len : Nat) : (busSum entries ⟨false, starting⟩ tracks n len).natAbs ≤ 64 * (8388608 * 65535) := by
  rw [busSum_eq_sum]
  refine (natAbs_sum_le (c := 8388608 * 65535) fun y hy => ?_).trans_eq (by rw [List.length_map, List.length_finRange])
  obtain ⟨x, -, rfl⟩ := List.mem_map.1 hy
  exact natAbs_contribution_le ..

/-! ### Rounding and saturation (R62, R63) -/

/-- R62: the rounded sum is within half a unit of the exact quotient, the half going up. -/
theorem roundHalfUp_bounds (acc : Int) :
    2 * acc - 32768 < 65536 * roundHalfUp acc ∧ 65536 * roundHalfUp acc ≤ 2 * acc + 32768 := by
  unfold roundHalfUp
  omega

/-- R63: a value outside 24 bits saturates. -/
theorem saturates_iff {v : Int} : saturates v = true ↔ v < -8388608 ∨ 8388607 < v := by
  simp [saturates]

/-- R63: the saturated sample is the value of the 24-bit range nearest to `v`. -/
theorem toInt_saturate (v : Int) : (saturate v).toInt = max (-8388608) (min v 8388607) := by
  rw [saturate, BitVec.toInt_ofInt]
  exact Int.bmod_eq_of_le (by omega) (by omega)

/-- R63: saturation in range, above and below. -/
theorem saturate_cases (v : Int) :
    (saturates v = false → (saturate v).toInt = v) ∧
    (8388607 < v → saturates v = true ∧ (saturate v).toInt = 8388607) ∧
    (v < -8388608 → saturates v = true ∧ (saturate v).toInt = -8388608) := by
  rw [← Bool.not_eq_true, saturates_iff, toInt_saturate]
  omega

/-! ### Ramped gains (R66) -/

/-- R66: the part of a distance `d` gone at offset `n` of `len` is no more than all of it. -/
theorem ramp_progress_bounds {d : Int} {n len : Nat} (hd : 0 ≤ d) (hn : n < len) :
    0 ≤ d * (n + 1) / len ∧ d * (n + 1) / len ≤ d := by
  refine ⟨Int.ediv_nonneg (mul_nonneg hd (by omega)) (by omega), Int.ediv_le_of_le_mul (by omega) ?_⟩
  exact mul_le_mul_of_nonneg_left (by omega) hd

section
variable {a b : BitVec 16}

/-- R66: a gain on its way up. -/
theorem rampedGain_up (h : a.toNat ≤ b.toNat) (n len : Nat) :
    rampedGain a b n len = a.toNat + (b.toNat - a.toNat) * (n + 1) / len := by
  rw [rampedGain, Int.tdiv_eq_ediv_of_nonneg (mul_nonneg (by omega) (by omega))]

/-- R66: a gain on its way down: the division truncates toward zero, so the distance gone is that of a way up. -/
theorem rampedGain_down (h : b.toNat ≤ a.toNat) (n len : Nat) :
    rampedGain a b n len = a.toNat - (a.toNat - b.toNat) * (n + 1) / len := by
  rw [rampedGain, ← neg_sub, neg_mul, Int.neg_tdiv,
    Int.tdiv_eq_ediv_of_nonneg (mul_nonneg (by omega) (by omega)), ← sub_eq_add_neg]

end

/-- R66: at the last offset of the ramp block the gain is the new one. -/
theorem rampedGain_last (a b : BitVec 16) {len : Nat} (h : 0 < len) : rampedGain a b (len - 1) len = b.toNat := by
  have last : ((len - 1 : Nat) : Int) + 1 = len := by omega
  rw [rampedGain, last, Int.mul_tdiv_cancel _ (by omega)]
  omega

/-- R66: a gain that does not change has no ramp. -/
theorem rampedGain_self (a : BitVec 16) (n len : Nat) : rampedGain a a n len = a.toNat := by
  simp [rampedGain]

/-! ### Block boundaries (R64 to R66) -/

/-- The entry of a table made by `tableOf`. -/
theorem getElem_tableOf {α : Type} {n : Nat} (f : Nat → α) (i : Fin n) : (tableOf n f)[i] = f i := by
  simp [tableOf]

/-- R65: the gains a bus starts from are its old ones. -/
theorem getElem_starting_rampToward (old new : Vector GainEntry 64) (x : Fin 64) :
    (rampToward old new).starting[x] = old[x].gain := getElem_mapEntries ..

/-- R65: a bus ramps exactly when one of its gains changes. -/
theorem ramping_rampToward_iff {old new : Vector GainEntry 64} :
    (rampToward old new).ramping = true ↔ ∃ x : Fin 64, old[x].gain ≠ new[x].gain := by
  rw [rampToward, toList_eq_map_finRange old, toList_eq_map_finRange new, List.zip_map']
  simp

/-- R64: every clip flag is cleared. -/
theorem Mix.getElem_clipFlags_clearClips (m : Mix) (b : Fin 4) : m.clearClips.clipFlags[b] = false :=
  getElem_tableOf ..

/-- R66: every bus stops ramping. -/
theorem Mix.getElem_ramps_endRamps (m : Mix) (b : Fin 4) : m.endRamps.ramps[b] = { m.ramps[b] with ramping := false } :=
  getElem_mapEntries ..

/-- R65: the ramp of each bus after an application. -/
theorem Mix.getElem_ramps_application (m : Mix) (b : Fin 4) :
    m.application.ramps[b] = rampToward m.active[b] m.edited[b] := by
  rw [Mix.application, getElem_mapEntries]
  simp

section
variable {m : Mix}

/-- R64, R66: a boundary with no application marked. -/
theorem Mix.boundary_unmarked (h : m.applyMark = none) : m.boundary = m.endRamps.clearClips := by
  simp [Mix.boundary, Mix.clearClips, Mix.endRamps, h]

/-- R64 to R66: a boundary under a mark. -/
theorem Mix.boundary_marked (h : m.applyMark ≠ none) : m.boundary = m.endRamps.clearClips.application := by
  obtain ⟨q, hq⟩ := Option.ne_none_iff_exists'.1 h
  simp [Mix.boundary, Mix.clearClips, Mix.endRamps, hq]

end

/-- Settles O46, by the sum over the tracks, the two directions of a ramp, and the two kinds of boundary. -/
theorem busSamplesAndRamps : Obligations.BusSamplesAndRamps := by
  refine ⟨busSum_eq_sum, natAbs_busSum_le, roundHalfUp_bounds, saturate_cases, fun a b n len h0 hn =>
    ⟨fun up => ?_, fun down => ?_, rampedGain_last a b h0, rampedGain_self a n len⟩, fun m b => ?_⟩
  · have gone := ramp_progress_bounds (d := b.toNat - a.toNat) (by omega) hn
    rw [rampedGain_up up]
    omega
  · have gone := ramp_progress_bounds (d := a.toNat - b.toNat) (by omega) hn
    rw [rampedGain_down down]
    omega
  · by_cases h : m.applyMark = none
    · rw [Mix.boundary_unmarked h]
      exact ⟨h, rfl, m.endRamps.getElem_clipFlags_clearClips b, fun _ =>
        ⟨rfl, congrArg Ramp.ramping (m.getElem_ramps_endRamps b)⟩, (absurd h ·)⟩
    · have ramp := m.endRamps.clearClips.getElem_ramps_application b
      rw [Mix.boundary_marked h]
      refine ⟨rfl, rfl, m.endRamps.getElem_clipFlags_clearClips b, (absurd · h), fun _ =>
        ⟨rfl, fun x => ?_, ?_⟩⟩
      · rw [ramp]; exact getElem_starting_rampToward ..
      · rw [ramp]; exact ramping_rampToward_iff

end Sys2Proof.Machine
end

section
/-! The gain commands GAIN_SET, GAIN_APPLY, GAIN_DISCARD and GAIN_GET (04 §4.5; R69 to R73). -/

namespace Sys2Proof.Machine

/-! ### Gain entries as bytes (R69, R73) -/

/-- R69, R73: three bytes an entry. -/
theorem length_gainEntryBytes (g : GainEntry) : (gainEntryBytes g).length = 3 := by simp [gainEntryBytes]

/-- R163: a byte of 0 or 1 is a code. -/
theorem flag?_eq_some {b : Byte} (h : b.toNat ≤ 1) : flag? b = some (decide (b = 1)) := by
  rcases byte_of_toNat_le_one h with rfl | rfl <;> rfl

theorem flag?_flagByte (b : Bool) : flag? (flagByte b) = some b := by cases b <;> rfl

/-- R69: a gain is its high byte and its low byte. -/
theorem append_bytes_of_gain (gain : BitVec 16) :
    BitVec.append (BitVec.ofNat 8 (gain.toNat / 256 ^ 1)) (BitVec.ofNat 8 (gain.toNat / 256 ^ 0)) = gain := by
  apply BitVec.eq_of_toNat_eq
  change (BitVec.ofNat 8 (gain.toNat / 256 ^ 1) ++ BitVec.ofNat 8 (gain.toNat / 256 ^ 0)).toNat = gain.toNat
  rw [BitVec.toNat_append, ← Nat.shiftLeft_add_eq_or_of_lt (BitVec.isLt _), Nat.shiftLeft_eq, BitVec.toNat_ofNat,
    BitVec.toNat_ofNat]
  omega

/-- R69, R73: entries written as bytes are read back. -/
theorem gainEntries?_flatMap_gainEntryBytes (gains : List GainEntry) :
    gainEntries? (gains.flatMap gainEntryBytes) = some gains := by
  induction gains with
  | nil => rfl
  | cons g rest ih =>
    have first : (g :: rest).flatMap gainEntryBytes = BitVec.ofNat 8 (g.gain.toNat / 256 ^ 1) ::
      BitVec.ofNat 8 (g.gain.toNat / 256 ^ 0) :: flagByte g.inverted :: rest.flatMap gainEntryBytes := rfl
    rw [first, gainEntries?, flag?_flagByte, ih, append_bytes_of_gain]

/-- R69: a polarity byte above 1, wherever it stands, spoils the list. -/
theorem gainEntries?_eq_none {hi lo polarity : Byte} (bad : 1 < polarity.toNat) (after : List Byte) :
    ∀ {before : List Byte}, before.length % 3 = 0 → gainEntries? (before ++ hi :: lo :: polarity :: after) = none
  | [], _ => by rw [List.nil_append, gainEntries?, flag?_eq_none bad]
  | [_], h => by simp at h
  | [_, _], h => by simp at h
  | _ :: _ :: q :: more, h => by
    have later := gainEntries?_eq_none (hi := hi) (lo := lo) bad after (before := more)
      (by rw [← h]; simp [Nat.add_assoc])
    simp only [List.cons_append, gainEntries?, later]
    cases flag? q <;> rfl

/-! ### The pending table written (R69) -/

/-- R69: the entries stand in one bus from track `first` on, and no other entry is changed. -/
theorem getElem_writeGains (table : GainTable) (b c : Fin 4) (first : Nat) (gains : List GainEntry) (x : Fin 64) :
    (writeGains table b first gains)[c][x] =
      if c = b ∧ first ≤ x then gains[x - first]?.getD table[c][x] else table[c][x] := by
  rw [writeGains, getElem_mapEntries]
  by_cases bus : c = b
  · rw [if_pos (congrArg Fin.val bus), getElem_mapEntries]
    simp only [bus, true_and]
  · rw [if_neg (mt Fin.ext bus), if_neg (bus ·.1)]

/-! ### GAIN_SET (R69, R70) -/

section
variable {s : State} {bus first count : Byte} {rest : List Byte}

/-- R69: a polarity that is no code. -/
theorem gainSetRule_polarity (h : gainEntries? rest = none) :
    gainSetRule (bus :: first :: count :: rest) s = (s, .refuse .range) := by
  simp only [gainSetRule, h]

section
variable {gains : List GainEntry} (h : gainEntries? rest = some gains)
include h

/-- R69: a bus or tracks out of range. -/
theorem gainSetRule_range (out : 3 < bus.toNat ∨ tracksInRange first count = false) :
    gainSetRule (bus :: first :: count :: rest) s = (s, .refuse .range) := by
  have refused : ¬ (decide (bus.toNat ≤ 3) && tracksInRange first count) = true := by
    rcases out with far | tracks
    · simp [far]
    · simp [tracks]
  simp only [gainSetRule, h, if_neg refused]

/-- R69: GAIN_SET accepted. -/
theorem gainSetRule_ok (hb : bus.toNat ≤ 3) (tracks : tracksInRange first count = true) :
    gainSetRule (bus :: first :: count :: rest) s =
      ({ s with mix := { s.mix with edited := writeGains s.mix.edited bus.toNat first.toNat gains } }, .ok []) := by
  simp only [gainSetRule, h, hb, tracks, decide_true, Bool.and_self, ↓reduceIte]

end

/-- R69, R146: the length GAIN_SET requires is that of its entries. -/
theorem requiredLength_gainSet (h : rest.length = 3 * count.toNat) :
    requiredLength .gainSet (bus :: first :: count :: rest) = some (bus :: first :: count :: rest).length := by
  simp [requiredLength, h]
  omega

end

/-- Settles O42, by the entries that the bytes give and the table written with them. -/
theorem gainSetWritesThePendingTable : Obligations.GainSetWritesThePendingTable := by
  refine ⟨fun s p clocks e bus first count hi lo polarity before after h whole long few bad => ?_,
    fun s p clocks e bus first count gains rest h bytes number few => ?_⟩
  · have length : (before ++ hi :: lo :: polarity :: after).length = 3 * count.toNat := by simp; omega
    exact exec_refuses (i := .gainSet p clocks) rfl h (requiredLength_gainSet length) (by simp at length ⊢; omega) rfl
      (gainSetRule_polarity (gainEntries?_eq_none bad after whole))
  · have entries : gainEntries? rest = some gains := by
      rw [bytes]; exact gainEntries?_flatMap_gainEntryBytes gains
    have length : rest.length = 3 * count.toNat := by
      rw [bytes, number]
      exact (length_flatten_even (w := 3) (List.forall_mem_map.2 fun g _ => length_gainEntryBytes g)).trans (by simp)
    have required := requiredLength_gainSet (bus := bus) (first := first) length
    have short : (bus :: first :: count :: rest).length ≤ 250 := by simp; omega
    refine ⟨fun out => exec_refuses (i := .gainSet p clocks) rfl h required short rfl (gainSetRule_range entries ?_),
      fun b hb atLeastOne last => ⟨writeGains s.mix.edited b first.toNat gains, ?_, fun c x other => ?_,
        fun x hx fromFirst => ?_⟩⟩
    · rw [← Bool.not_eq_true, tracksInRange_iff]
      omega
    · rw [exec_answersNow (i := .gainSet p clocks) rfl h required short rfl
        (gainSetRule_ok entries (by omega) (tracksInRange_iff.2 (by omega))),
        State.answer_quiet (s := s) (e := e) rfl, hb]
      rfl
    · rw [getElem_writeGains]
      split
      · next within =>
        have beyond : gains.length ≤ x - first.toNat := by
          have := fun below => other ⟨within.1, within.2, below⟩
          omega
        rw [List.getElem?_eq_none beyond, Option.getD_none]
      · rfl
    · rw [getElem_writeGains, if_pos ⟨rfl, fromFirst⟩, List.getElem?_eq_getElem hx, Option.getD_some]

/-! ### GAIN_APPLY and GAIN_DISCARD (R71, R72) -/

section
variable {s : State} {p : Port} {b : Nat}

/-- R71: the boundary marked is the one already marked, or else the next. -/
theorem applyMark_getD_nextBoundary
    (h : s.mix.applyMark = some b ∨ (s.mix.applyMark = none ∧ s.timebase.position < b ∧
      b ≤ s.timebase.position + blockLengthOf s.timebase.rate ∧ blockLengthOf s.timebase.rate ∣ b)) :
    s.mix.applyMark.getD s.nextBoundary = b := by
  rcases h with marked | ⟨unmarked, above, near, multiple⟩
  · rw [marked, Option.getD_some]
  · rw [unmarked, Option.getD_none]
    exact boundaryAfter_unique above near multiple

/-- R71: GAIN_APPLY accepted. -/
theorem gainApplyRule_ok (runs : s.timebase.position ≠ lastPosition)
    (mark : s.mix.applyMark.getD s.nextBoundary = b) :
    gainApplyRule p [] s =
      ({ s with mix := { s.mix with applyMark := some b } }.raiseOthers .configChange p, .ok (positionBytes b)) := by
  rw [gainApplyRule, if_neg runs, mark]

/-- R72: GAIN_DISCARD with no application marked. -/
theorem gainDiscardRule_unmarked (h : s.mix.applyMark = none) :
    gainDiscardRule p [] s = ({ s with mix := { s.mix with edited := s.mix.active } }, .ok [0]) := by
  simp only [gainDiscardRule, h]
  rw [← h]
  rfl

/-- R72: GAIN_DISCARD that cancels an application. -/
theorem gainDiscardRule_marked (h : s.mix.applyMark = some b) :
    gainDiscardRule p [] s =
      ({ s with mix := { s.mix with edited := s.mix.active, applyMark := none } }.raiseOthers .configChange p,
        .ok [1]) := by
  simp only [gainDiscardRule, h]
  rfl

end

/-- Settles O43, by the rules of the two commands. -/
theorem gainApplyAndDiscard : Obligations.GainApplyAndDiscard := by
  intro s p clocks e n
  refine ⟨fun b h runs small mark => ⟨positionBytes b, ?_, length_positionBytes b, ?_⟩, fun h unmarked => ?_,
    fun b h marked => ?_⟩
  · rw [positionBytes_of_lt small, numberOf_bytesOf_of_lt (by omega)]
  · rw [exec_answersNow (i := .gainApply p clocks) rfl h rfl (by simp) rfl
      (gainApplyRule_ok (s := s.setPort p e) runs (applyMark_getD_nextBoundary mark))]
    exact congrArg _ (State.answer_others (s := s) (e := e) rfl ..)
  · rw [exec_answersNow (i := .gainDiscard p clocks) rfl h rfl (by simp) rfl
      (gainDiscardRule_unmarked (s := s.setPort p e) unmarked), State.answer_quiet (s := s) (e := e) rfl]
    rfl
  · rw [exec_answersNow (i := .gainDiscard p clocks) rfl h rfl (by simp) rfl
      (gainDiscardRule_marked (s := s.setPort p e) marked)]
    exact congrArg _ (State.answer_others (s := s) (e := e) rfl ..)

/-! ### GAIN_GET (R73) -/

/-- R73: the entries of a table column that GAIN_GET answers with, as bytes. -/
def gainBytesFrom (column : Vector GainEntry 64) (first count : Nat) : List (List Byte) :=
  ((column.toList.drop first).take count).map gainEntryBytes

theorem length_of_mem_gainBytesFrom {column : Vector GainEntry 64} {first count : Nat} :
    ∀ part ∈ gainBytesFrom column first count, part.length = 3 :=
  List.forall_mem_map.2 fun g _ => length_gainEntryBytes g

theorem length_gainBytesFrom {column : Vector GainEntry 64} {first count : Nat} (h : first + count ≤ 64) :
    (gainBytesFrom column first count).length = count := by
  simp [gainBytesFrom]
  omega

/-- R73: each entry answered with is that of its track. -/
theorem take_drop_gainBytesFrom (column : Vector GainEntry 64) {first count : Nat} (h : first + count ≤ 64)
    {x : Fin 64} (low : first ≤ x) (high : x < first + count) :
    ((gainBytesFrom column first count).flatten.drop (3 * (x - first))).take 3 = gainEntryBytes column[x] := by
  rw [take_drop_flatten length_of_mem_gainBytesFrom (by rw [length_gainBytesFrom h]; omega)]
  simp [gainBytesFrom, Nat.add_sub_cancel' low]

section
variable {s : State} {copy bus first count : Byte}

/-- R73: a copy, a bus or tracks out of range. -/
theorem gainGetRule_range (out : 1 < copy.toNat ∨ 3 < bus.toNat ∨ tracksInRange first count = false) :
    gainGetRule [copy, bus, first, count] s = (s, .refuse .range) := by
  rcases out with noCopy | noBus | noTracks
  · simp only [gainGetRule, flag?_eq_none noCopy]
  · have missing : s.mix.active[bus.toNat]? = none := Vector.getElem?_eq_none (by omega)
    simp only [gainGetRule, missing]
    cases flag? copy <;> rfl
  · simp only [gainGetRule, noTracks, Bool.false_eq_true, ↓reduceIte]
    split <;> rfl

/-- R73: GAIN_GET accepted. -/
theorem gainGetRule_ok {edited : Bool} {b : Fin 4} (hc : flag? copy = some edited) (hb : bus.toNat = b)
    (tracks : tracksInRange first count = true) :
    gainGetRule [copy, bus, first, count] s =
      (s, .ok (applyMarkBytes s.mix.applyMark ++ [flagByte s.mix.ramps[b].ramping] ++
        (gainBytesFrom (if edited then s.mix.edited[b] else s.mix.active[b]) first.toNat count.toNat).flatten)) := by
  simp only [gainGetRule, hc, hb, tracks, Vector.getElem?_eq_getElem b.isLt, ↓reduceIte]
  rfl

end

/-- R73, R163: the apply mark in seven bytes. -/
theorem applyMarkBytes_length (mark : Option Nat) : (applyMarkBytes mark).length = 7 := by
  cases mark <;> simp [applyMarkBytes]

/-- Settles O44, by the rule of GAIN_GET and the place of each entry in the answer. -/
theorem gainGetReadsATable : Obligations.GainGetReadsATable := by
  intro s p clocks e copy bus first count h
  refine ⟨fun out => ?_, fun b hb hc atLeastOne last => ?_⟩
  · refine exec_refuses (i := .gainGet p clocks) rfl h rfl (by simp) rfl (gainGetRule_range ?_)
    rw [← Bool.not_eq_true, tracksInRange_iff]
    omega
  · refine ⟨_, _, _, exec_reads (i := .gainGet p clocks) rfl h rfl (by simp) rfl
      (gainGetRule_ok (s := s.setPort p e) (flag?_eq_some hc) hb (tracksInRange_iff.2 (by omega))),
      applyMarkBytes_length _, rfl, ?_, fun unmarked => ?_, fun q marked small => ?_, fun x low high => ?_⟩
    · rw [length_flatten_even length_of_mem_gainBytesFrom, length_gainBytesFrom last]
    · exact congrArg applyMarkBytes unmarked
    · rw [show (s.setPort p e).mix.applyMark = some q from marked, applyMarkBytes, positionBytes_of_lt small]
      exact ⟨rfl, numberOf_bytesOf_of_lt (by omega)⟩
    · rw [take_drop_gainBytesFrom _ last low high]
      simp only [decide_eq_true_eq]
      split <;> rfl

end Sys2Proof.Machine
end

section
/-! Requantization (05 §5.4; R86): its range, and how far it moves a sample. -/

namespace Sys2Proof.Machine

section
variable {s : Nat}

/-- R86: a shift of 1 or more divides by an even power of two, of which 2^23 is a multiple. -/
theorem pow_shift (h1 : 1 ≤ s) (h2 : s ≤ 8) :
    (2 : Int) ^ s = 2 * 2 ^ (s - 1) ∧ (2 : Int) ^ (23 - s) * 2 ^ s = 8388608 := by
  refine ⟨?_, ?_⟩
  · rw [← pow_succ', Nat.sub_add_cancel h1]
  · rw [← pow_add, Nat.sub_add_cancel (by omega)]
    norm_num

/-- R86: a requantized sample fits the bits its section gives it. -/
theorem requantize_bounds (h : s ≤ 8) (x : Sample) :
    -(2 ^ (23 - s)) ≤ requantize s x.toInt ∧ requantize s x.toInt ≤ 2 ^ (23 - s) - 1 := by
  have low := BitVec.le_toInt x
  have high := BitVec.toInt_lt (x := x)
  rcases Nat.eq_zero_or_pos s with rfl | h1
  · rw [requantize_zero]
    omega
  · obtain ⟨hd, hM⟩ := pow_shift h1 h
    rw [requantize_pos h1.ne']
    refine ⟨le_min ?_ ?_, min_le_right _ _⟩
    · rw [Int.le_ediv_iff_mul_le (by positivity), neg_mul, hM]
      have half : (0 : Int) < 2 ^ (s - 1) := by positivity
      omega
    · have one : (0 : Int) < 2 ^ (23 - s) := by positivity
      omega

/-- R86: below the clamp, the sample scaled back is within half a step of the sample. -/
theorem requantize_distance (h1 : 1 ≤ s) (h2 : s ≤ 8) (x : Int) (below : (x + 2 ^ (s - 1)) / 2 ^ s ≤ 2 ^ (23 - s) - 1) :
    (2 * (requantize s x * 2 ^ s - x)).natAbs ≤ 2 ^ s := by
  have step : (0 : Int) < 2 ^ s := by positivity
  have parts := Int.mul_ediv_add_emod (x + 2 ^ (s - 1)) (2 ^ s)
  have low := Int.emod_nonneg (x + 2 ^ (s - 1)) step.ne'
  have high := Int.emod_lt_of_pos (x + 2 ^ (s - 1)) step
  rw [requantize_pos (by omega), min_eq_left below, mul_comm ((x + 2 ^ (s - 1)) / 2 ^ s)]
  zify
  rw [abs_le]
  obtain ⟨hd, -⟩ := pow_shift h1 h2
  omega

/-- R86: the least sample requantizes to the least number. -/
theorem requantize_least (h1 : 1 ≤ s) (h2 : s ≤ 8) : requantize s (-8388608) = -(2 ^ (23 - s)) := by
  obtain ⟨hd, hM⟩ := pow_shift h1 h2
  have half : (0 : Int) < 2 ^ (s - 1) := by positivity
  have top : (0 : Int) < 2 ^ (23 - s) := by positivity
  rw [requantize_pos (by omega), ← hM, ← neg_mul, add_comm, Int.add_mul_ediv_right _ _ (by positivity),
    Int.ediv_eq_zero_of_lt half.le (by omega), zero_add, min_eq_left (by omega)]

end

/-- Settles O47, by the rules of requantization. -/
theorem requantizationRule : Obligations.RequantizationRule := by
  intro x s h
  refine ⟨?_, fun h1 => requantize_pos (by omega) _, requantize_bounds h x, fun h1 => requantize_distance h1 h _,
    fun h1 => requantize_least h1 h⟩
  rintro rfl
  exact requantize_zero _

end Sys2Proof.Machine
end

section
/-! What a decoder reads back (05 §5.4; R87 to R90, R92, R162): the codes of a partition, the residuals by offset and by
partition, the samples rebuilt from them, and the order chosen. -/

namespace Sys2Proof.Machine

/-! ### Codes read back (R90, R92, R162) -/

/-- R90: the index of a residual gives it back. -/
theorem residualOf_riceIndex (e : Int) : readCodeFrom.residualOf (riceIndex e) = e := by
  unfold readCodeFrom.residualOf
  rcases riceIndex_eq e with ⟨sign, index⟩ | ⟨sign, index⟩
  · rw [if_pos (by omega)]
    omega
  · rw [if_neg (by omega)]
    omega

/-- R162: a decoder counts the one-bits that open a code, up to 31. -/
theorem readCodeFrom_ones (r : Nat) {n h : Nat} (few : n + h ≤ 31) (bits : List Bool) :
    readCodeFrom r n (List.replicate h true ++ bits) = readCodeFrom r (n + h) bits := by
  induction h generalizing n with
  | zero => rfl
  | succ h ih =>
    rw [List.replicate_succ, List.cons_append, readCodeFrom, if_neg (by omega), ih (by omega)]
    congr 1
    omega

/-- R90, R162: a code, short or escaped, reads back as its residual, whatever follows it. -/
theorem readCodeFrom_riceCode (r : Nat) {e : Int} (small : e.natAbs ≤ 2 ^ 26) (rest : List Bool) :
    readCodeFrom r 0 (riceCode r e ++ rest) = some (e, rest) := by
  unfold riceCode
  by_cases short : riceIndex e / 2 ^ r ≤ 31
  · rw [if_pos short, List.append_assoc, readCodeFrom_ones r (by omega), List.cons_append, readCodeFrom,
      if_neg (by simp), List.take_left' (length_bitsOf ..), List.drop_left' (length_bitsOf ..), numberOfBits_bitsOf,
      Nat.zero_add, Nat.div_add_mod', residualOf_riceIndex]
  · rw [if_neg short, List.replicate_succ', List.append_assoc, List.append_assoc, readCodeFrom_ones r (by omega),
      List.cons_append, List.nil_append, readCodeFrom, if_pos rfl, if_neg (by simp), List.take_left' (length_bitsOf ..),
      List.drop_left' (length_bitsOf ..), numberOfBits_bitsOf_of_lt (riceIndex_lt small), residualOf_riceIndex]

/-- R92, R162: the codes of a partition read back as its residuals, whatever follows them. -/
theorem readCodes_riceCode (r : Nat) {es : List Int} (small : ∀ e ∈ es, e.natAbs ≤ 2 ^ 26) (rest : List Bool) :
    readCodes r es.length (es.flatMap (riceCode r) ++ rest) = some (es, rest) := by
  induction es with
  | nil => rfl
  | cons e es ih =>
    obtain ⟨first, others⟩ := List.forall_mem_cons.1 small
    rw [List.length_cons, List.flatMap_cons, List.append_assoc, readCodes, readCodeFrom_riceCode r first]
    simp only [ih others, Option.map_some]

/-! ### Rice parameters (R89) -/

/-- R89: the parameter is the binary logarithm of the mean size of the residuals, at most 26. -/
theorem riceParameter_spec (part : List Int) :
    let q := (part.map Int.natAbs).sum / part.length
    (q = 0 → riceParameter part = 0) ∧
    (q ≠ 0 → 2 ^ riceParameter part ≤ q ∧ (riceParameter part < 26 → q < 2 ^ (riceParameter part + 1))) := by
  intro q
  have parameter : riceParameter part = if q = 0 then 0 else min q.log2 26 := rfl
  refine ⟨fun zero => by rw [parameter, if_pos zero], fun nonzero => ?_⟩
  rw [parameter, if_neg nonzero]
  refine ⟨(Nat.pow_le_pow_right two_pos (min_le_left _ _)).trans (Nat.log2_self_le nonzero), fun below => ?_⟩
  rw [min_eq_left (by omega)]
  exact Nat.lt_log2_self

/-! ### Residuals (R87) -/

/-- R87: the residual at offset `n` is the sample there less the prediction from the three samples before. -/
theorem getD_residualsAfter (k : Nat) {ys : List Int} {n : Nat} (h : n < ys.length) (y1 y2 y3 : Int) :
    (residualsAfter k y1 y2 y3 ys).getD n 0 = ys.getD n 0 -
      prediction k ((y1 :: ys).getD n 0) ((y2 :: y1 :: ys).getD n 0) ((y3 :: y2 :: y1 :: ys).getD n 0) := by
  induction ys generalizing n y1 y2 y3 with
  | nil => simp at h
  | cons y ys ih =>
    cases n with
    | zero => rfl
    | succ n => exact ih (Nat.lt_of_succ_lt_succ h) y y1 y2

/-- R87: the residuals of the four orders by the samples before, from the first that has them all. -/
theorem getD_residuals {k n : Nat} {ys : List Int} (hk : k ≤ 3) (low : k ≤ n) (high : n < ys.length) :
    (residuals k ys).getD n 0 = ys.getD n 0 -
      (if k = 0 then 0
      else if k = 1 then ys.getD (n - 1) 0
      else if k = 2 then 2 * ys.getD (n - 1) 0 - ys.getD (n - 2) 0
      else 3 * ys.getD (n - 1) 0 - 3 * ys.getD (n - 2) 0 + ys.getD (n - 3) 0) := by
  rw [residuals, getD_residualsAfter k high]
  obtain ⟨m, rfl⟩ := Nat.exists_eq_add_of_le' low
  match k, hk with
  | 0, _ => rfl
  | 1, _ => rfl
  | 2, _ => rfl
  | 3, _ => rfl

/-- R87: a prediction from three samples is at most seven times as large as they are. -/
theorem natAbs_prediction_le (k : Nat) {y1 y2 y3 : Int} {c : Nat} (h1 : y1.natAbs ≤ c) (h2 : y2.natAbs ≤ c)
    (h3 : y3.natAbs ≤ c) : (prediction k y1 y2 y3).natAbs ≤ 7 * c := by
  unfold prediction
  split <;> omega

/-- R87: residuals of any order are at most eight times as large as the samples. -/
theorem natAbs_residualsAfter_le (k : Nat) {ys : List Int} {c : Nat} (bound : ∀ y ∈ ys, y.natAbs ≤ c) {y1 y2 y3 : Int}
    (h1 : y1.natAbs ≤ c) (h2 : y2.natAbs ≤ c) (h3 : y3.natAbs ≤ c) :
    ∀ e ∈ residualsAfter k y1 y2 y3 ys, e.natAbs ≤ 8 * c := by
  induction ys generalizing y1 y2 y3 with
  | nil => simp [residualsAfter]
  | cons y ys ih =>
    obtain ⟨first, others⟩ := List.forall_mem_cons.1 bound
    refine List.forall_mem_cons.2 ⟨?_, ih others first h1 h2⟩
    have predicted := natAbs_prediction_le k h1 h2 h3
    omega

/-- R87: `w` warm-up samples and the residuals after them give the samples back. -/
theorem rebuildFrom_residualsAfter (k w : Nat) (ys : List Int) (y1 y2 y3 : Int) :
    rebuildFrom k y1 y2 y3 w (ys.take w ++ (residualsAfter k y1 y2 y3 ys).drop w) = ys := by
  induction ys generalizing w y1 y2 y3 with
  | nil => cases w <;> rfl
  | cons y ys ih =>
    cases w with
    | zero =>
      have rest := ih 0 y y1 y2
      simp only [List.take_zero, List.drop_zero, List.nil_append] at rest ⊢
      simp only [residualsAfter, rebuildFrom, sub_add_cancel, rest]
    | succ w => exact congrArg (y :: ·) (ih w y y1 y2)

/-! ### Partitions (R89) -/

/-- The numbers below `n` from `lo` on and below `hi`. -/
theorem filter_range_interval {n lo hi : Nat} (h1 : lo ≤ hi) (h2 : hi ≤ n) :
    ((List.range n).filter fun i => decide (lo ≤ i) && decide (i < hi)) = List.range' lo (hi - lo) := by
  have split : List.range n = List.range' 0 lo ++ (List.range' lo (hi - lo) ++ List.range' hi (n - hi)) := by
    obtain ⟨d, rfl⟩ := Nat.exists_eq_add_of_le h1
    obtain ⟨c, rfl⟩ := Nat.exists_eq_add_of_le h2
    have middle := List.range'_append_1 (s := lo) (m := d) (n := c)
    have all := List.range'_append_1 (s := 0) (m := lo) (n := d + c)
    rw [Nat.zero_add, ← Nat.add_assoc] at all
    rw [Nat.add_sub_cancel_left, Nat.add_sub_cancel_left, middle, all, List.range_eq_range']
  rw [split, List.filter_append, List.filter_append, List.filter_eq_nil_iff.2, List.filter_eq_self.2,
    List.filter_eq_nil_iff.2, List.nil_append, List.append_nil]
  all_goals
    simp only [List.mem_range'_1, Bool.and_eq_true, decide_eq_true_eq]
    omega

/-- A run of a list is its entries at a run of offsets. -/
theorem take_drop_eq_map_range' {l : List Int} {a n : Nat} (h : a + n ≤ l.length) :
    (l.drop a).take n = (List.range' a n).map fun i => l.getD i 0 := by
  refine List.ext_getElem (by simp; omega) fun i h1 h2 => ?_
  simp only [List.getElem_take, List.getElem_drop, List.getElem_map, List.getElem_range', Nat.one_mul]
  exact List.getElem_eq_getD 0

/-- R89: partition `p` holds the residuals of its eighth of the offsets, without the offsets of warm-up samples. -/
theorem partitionOf_eq {k m p : Nat} {ys : List Int} (length : ys.length = 8 * m) (hk : k ≤ m) (hp : p < 8) :
    partitionOf k p ys = ((List.range ys.length).filter fun n =>
      decide (k ≤ n) && decide (p * m ≤ n) && decide (n < (p + 1) * m)).map fun n => (residuals k ys).getD n 0 := by
  have last : (p + 1) * m ≤ 8 * m := Nat.mul_le_mul_right m hp
  have next : (p + 1) * m = p * m + m := Nat.succ_mul p m
  have interval : ((List.range ys.length).filter fun n =>
      decide (k ≤ n) && decide (p * m ≤ n) && decide (n < (p + 1) * m)) =
      List.range' (max k (p * m)) ((p + 1) * m - max k (p * m)) := by
    rw [← filter_range_interval (n := ys.length) (by omega) (by omega)]
    refine List.filter_congr fun n _ => ?_
    simp only [max_le_iff, Bool.decide_and]
  have run := take_drop_eq_map_range' (l := residuals k ys) (a := p * m) (n := m) (by rw [length_residuals]; omega)
  rw [interval, partitionOf, show ys.length / 8 = m by omega, run]
  rcases Nat.eq_zero_or_pos p with rfl | later
  · rw [if_pos rfl, ← List.map_drop, List.drop_range']
    simp
  · have := Nat.le_mul_of_pos_left m later
    rw [if_neg later.ne', max_eq_right (by omega), next, Nat.add_sub_cancel_left]

/-! ### The order chosen (R88) -/

/-- The lowest of the numbers 0 to `n` at which `f` is least. -/
def LowestLeast (f : Nat → Nat) (n best : Nat) : Prop :=
  best ≤ n ∧ (∀ k, k ≤ n → f best ≤ f k) ∧ ∀ k, k < best → f best < f k

theorem LowestLeast.zero (f : Nat → Nat) : LowestLeast f 0 0 :=
  ⟨le_rfl, fun k hk => by rw [Nat.le_zero.1 hk], fun k hk => absurd hk (Nat.not_lt_zero k)⟩

/-- One more number is taken where `f` is less there than at the best before. -/
theorem LowestLeast.succ {f : Nat → Nat} {n best : Nat} (h : LowestLeast f n best) :
    LowestLeast f (n + 1) (if f (n + 1) < f best then n + 1 else best) := by
  obtain ⟨low, least, lowest⟩ := h
  split
  · next less =>
    refine ⟨le_rfl, fun k hk => ?_, fun k hk => less.trans_le (least k (by omega))⟩
    rcases Nat.lt_or_ge n k with last | before
    · rw [show k = n + 1 by omega]
    · exact less.le.trans (least k before)
  · next noLess =>
    refine ⟨by omega, fun k hk => ?_, lowest⟩
    rcases Nat.lt_or_ge n k with last | before
    · rw [show k = n + 1 by omega]
      omega
    · exact least k before

/-- R88: the order chosen is the lowest with the least selection sum. -/
theorem chosenOrder_lowestLeast (ys : List Int) : LowestLeast (fun k => selectionSum k ys) 3 (chosenOrder ys) :=
  (LowestLeast.zero _).succ.succ.succ

/-- Settles O48, by reading codes back one after another, and the residuals offset by offset. -/
theorem codingLosesNothing : Obligations.CodingLosesNothing := by
  refine ⟨fun r es rest _ small => ⟨readCodes_riceCode r small rest, length_flatMap_riceCode r es⟩, ?_, ?_, ?_, ?_, ?_, ?_⟩
  · intro r e
    have index : (if 0 ≤ e then 2 * e.natAbs else 2 * e.natAbs - 1) = riceIndex e := by
      rcases riceIndex_eq e with ⟨sign, index⟩ | ⟨sign, index⟩ <;> split <;> omega
    simp only [index, riceLength]
  · exact fun part _ => ⟨riceParameter_le part, riceParameter_spec part⟩
  · intro k ys n hk low high
    exact getD_residuals hk low high
  · exact fun k m p ys length hk hp => partitionOf_eq length hk hp
  · exact fun k ys _ => ⟨rebuildFrom_residualsAfter k k ys 0 0 0, fun bound e he =>
      natAbs_residualsAfter_le k bound (by simp) (by simp) (by simp) e (List.mem_of_mem_drop he)⟩
  · exact chosenOrder_lowestLeast

end Sys2Proof.Machine
end

section
/-! Where each item of a record stands (10 §10.2, §10.3; R85, R91 to R95, R161, R162): items laid one after another, the
header and the cue entries item by item, and a section by its header and its body. -/

namespace Sys2Proof.Machine

/-! ### Items laid one after another -/

/-- Items, each a width and a number, laid one after another. -/
def laid {α : Type} (code : Nat → Nat → List α) (items : List (Nat × Nat)) : List α :=
  items.flatMap fun x => code x.1 x.2

section
variable {α : Type} {code : Nat → Nat → List α}

theorem length_laid (even : ∀ w n, (code w n).length = w) (items : List (Nat × Nat)) :
    (laid code items).length = (items.map Prod.fst).sum := by
  simp [laid, List.length_flatMap, even]

/-- What follows the first `j` items. -/
theorem drop_laid (even : ∀ w n, (code w n).length = w) (items : List (Nat × Nat)) (j : Nat) {i : Nat}
    (hi : ((items.take j).map Prod.fst).sum = i) (rest : List α) :
    (laid code items ++ rest).drop i = laid code (items.drop j) ++ rest := by
  have split : laid code items = laid code (items.take j) ++ laid code (items.drop j) := by
    rw [laid, laid, laid, ← List.flatMap_append, List.take_append_drop]
  rw [split, List.append_assoc, List.drop_left' ((length_laid even _).trans hi)]

/-- Item `j` is found after the widths of the items before it. -/
theorem take_drop_laid (even : ∀ w n, (code w n).length = w) (items : List (Nat × Nat)) (j : Nat) {i w n : Nat}
    (hi : ((items.take j).map Prod.fst).sum = i) (item : items[j]? = some (w, n)) (rest : List α) :
    ((laid code items ++ rest).drop i).take w = code w n := by
  obtain ⟨hj, value⟩ := List.getElem?_eq_some_iff.1 item
  rw [drop_laid even _ j hi, List.drop_eq_getElem_cons hj, value, laid, List.flatMap_cons, List.append_assoc,
    List.take_left' (even w n)]

end

/-- A number laid in `w` bytes reads back. -/
theorem numberOf_laid (items : List (Nat × Nat)) (j : Nat) {i w n : Nat} (hi : ((items.take j).map Prod.fst).sum = i)
    (item : items[j]? = some (w, n)) (fits : n < 256 ^ w) (rest : List Byte) :
    numberOf (((laid bytesOf items ++ rest).drop i).take w) = n := by
  rw [take_drop_laid length_bytesOf _ j hi item, numberOf_bytesOf_of_lt fits]

/-- A number laid in `w` bits reads back. -/
theorem numberOfBits_laid (items : List (Nat × Nat)) (j : Nat) {i w n : Nat} (hi : ((items.take j).map Prod.fst).sum = i)
    (item : items[j]? = some (w, n)) (fits : n < 2 ^ w) (rest : List Bool) :
    numberOfBits (((laid bitsOf items ++ rest).drop i).take w) = n := by
  rw [take_drop_laid length_bitsOf _ j hi item, numberOfBits_bitsOf_of_lt fits]

/-! ### Record headers (R94, R161) -/

/-- R161: the four record flags stand in bits 0 to 3. -/
theorem testBit_recordFlags (h : Header) :
    (recordFlags h).testBit 0 = h.holdover ∧ (recordFlags h).testBit 1 = h.shed ∧ (recordFlags h).testBit 2 = h.overrun ∧
    (recordFlags h).testBit 3 = h.aborted ∧ recordFlags h < 16 := by
  have all : ∀ a b c d : Bool, let n := a.toNat + 2 * b.toNat + 4 * c.toNat + 8 * d.toNat
      n.testBit 0 = a ∧ n.testBit 1 = b ∧ n.testBit 2 = c ∧ n.testBit 3 = d ∧ n < 16 := by decide
  exact all h.holdover h.shed h.overrun h.aborted

/-- R161: bit 15 of the present map is for roster position 0, and so on. -/
theorem testBit_presentMap {j x : Nat} (hj : j ≤ 16) (hx : x < 16) :
    (presentMap j).testBit (15 - x) = decide (x < j) := by
  have ones : presentMap j = 2 ^ 16 - (2 ^ (16 - j) - 1 + 1) := by
    rw [Nat.sub_add_cancel Nat.one_le_two_pow]
    rfl
  have small : 2 ^ (16 - j) - 1 < 2 ^ 16 :=
    (Nat.sub_lt (Nat.two_pow_pos _) Nat.one_pos).trans_le (Nat.pow_le_pow_right two_pos (by omega))
  rw [ones, Nat.testBit_two_pow_sub_succ small, Nat.testBit_two_pow_sub_one]
  simp only [← decide_not, ← Bool.decide_and, decide_eq_decide]
  omega

theorem presentMap_lt (j : Nat) : presentMap j < 256 ^ 2 := Nat.sub_lt (by norm_num) (Nat.two_pow_pos _)

/-- R161: the items of a record header, the reserved bytes aside. -/
def Header.items (h : Header) : List (Nat × Nat) :=
  [(1, kindCode h.kind), (1, feedCode h.id.feed), (2, h.id.take), (2, h.id.sequence), (6, h.position),
    (1, rateCode h.rate), (2, blockLengthOf h.rate), (1, h.shift), (1, recordFlags h), (1, h.rosterLength),
    (2, presentMap h.present), (1, h.sections), (1, h.cues), (4, h.length)]

theorem Header.bytes_eq_laid {h : Header} (position : h.position < 2 ^ 48) :
    h.bytes = laid bytesOf h.items ++ List.replicate 6 0 := by
  simp [Header.bytes, Header.items, laid, positionBytes_of_lt position,
    show bytesOf 6 0 = List.replicate 6 0 from rfl]

/-! ### Cue entries (R141, R161) -/

/-- R161: the items of a cue entry before its label. -/
def cueItems (start : Nat) (c : Cue) : List (Nat × Nat) :=
  [(2, c.id), (2, c.position - start), (1, kindOrigin c), (1, c.label.length)]

theorem cueEntryBytes_eq_laid {c : Cue} (short : c.label.length ≤ 10) (start : Nat) :
    cueEntryBytes start c = laid bytesOf (cueItems start c) ++ (c.label ++ List.replicate (10 - c.label.length) 0) := by
  have whole : labelBytes c.label = c.label ++ List.replicate (10 - c.label.length) 0 :=
    List.take_of_length_le (by simp; omega)
  simp [cueEntryBytes, cueItems, laid, whole]

/-- R161: kind and origin each take half of their byte. -/
theorem kindOrigin_halves (c : Cue) :
    kindOrigin c / 16 = cueKindCode c.kind ∧ kindOrigin c % 16 = originCode c.origin ∧ kindOrigin c < 256 := by
  have kind : cueKindCode c.kind ≤ 3 := by cases c.kind <;> decide
  have origin : originCode c.origin ≤ 3 := by
    cases c.origin with
    | port p => cases p <;> decide
    | part => decide
  rw [kindOrigin]
  omega

/-! ### Sections (R85, R91, R92, R162) -/

section
variable (c : Source) {s : Nat} {flags : List Bool} {ys : List Int}

theorem choosesRaw_iff : choosesRaw s ys = true ↔
    32 + ys.length * (24 - s) ≤ 32 + chosenOrder ys * (24 - s) + 40 + (riceBody (chosenOrder ys) ys).length := by
  rw [choosesRaw, decide_eq_true_eq, length_riceBody]
  rfl

/-- R162: the warm-up samples of a predictive body. -/
def warmUp (s : Nat) (ys : List Int) : List Bool := (ys.take (chosenOrder ys)).flatMap (signedBits (24 - s))

/-- R162: the eight partition parameters of a predictive body. -/
def parameterBits (ys : List Int) : List Bool :=
  (List.range 8).flatMap fun p => bitsOf 5 (riceParameter (partitionOf (chosenOrder ys) p ys))

theorem sectionBody_raw (raw : choosesRaw s ys = true) : sectionBody s ys = ys.flatMap (signedBits (24 - s)) :=
  if_pos raw

theorem sectionBody_predictive (predictive : choosesRaw s ys = false) :
    sectionBody s ys = warmUp s ys ++ parameterBits ys ++ riceBody (chosenOrder ys) ys := by
  rw [sectionBody, predictive]
  rfl

theorem length_warmUp (long : 3 ≤ ys.length) (s : Nat) : (warmUp s ys).length = chosenOrder ys * (24 - s) := by
  have := chosenOrder_le ys
  simp [warmUp, List.length_flatMap, Nat.min_eq_left (show chosenOrder ys ≤ ys.length by omega)]

theorem length_parameterBits (ys : List Int) : (parameterBits ys).length = 40 := by
  simp [parameterBits, List.length_flatMap]

/-- R91: the bits of a section are as many as its bit count. -/
theorem length_sectionBody (long : 3 ≤ ys.length) (s : Nat) : 32 + (sectionBody s ys).length = sectionBits s ys := by
  cases mode : choosesRaw s ys with
  | true => simp [sectionBody_raw mode, sectionBits, mode, rawBits, List.length_flatMap]
  | false =>
    simp [sectionBody_predictive mode, sectionBits, mode, predictiveBits, length_warmUp long, length_parameterBits,
      length_riceBody]
    omega

/-- R92: a section takes as many bytes as its section length. -/
theorem length_sectionBytes (hf : flags.length = 5) (long : 3 ≤ ys.length) (s : Nat) :
    (sectionBytes c s flags ys).length = sectionLength s ys := by
  rw [sectionBytes, length_packBits, List.length_append, length_sectionHeader, hf, length_sectionBody long, sectionLength]

/-- R162: the items of a section header. -/
def sectionItems (c : Source) (s : Nat) (flags : List Bool) (ys : List Int) : List (Nat × Nat) :=
  [(7, sourceId c), (3, modeCode s ys), (4, s), (5, numberOfBits flags), (1, 0), (12, sectionLength s ys)]

/-- R162: five flags are the bits of the number they make. -/
theorem bitsOf_flags (hf : flags.length = 5) : bitsOf 5 (numberOfBits flags) = flags := by
  rw [← hf, bitsOf_numberOfBits]

theorem sectionHeader_eq_laid (hf : flags.length = 5) (s : Nat) (ys : List Int) :
    sectionHeader c s flags ys = laid bitsOf (sectionItems c s flags ys) := by
  simp [sectionHeader, sectionItems, laid, bitsOf_flags hf, show bitsOf 1 0 = [false] from rfl]

/-- R92, R162: the bits of a section: the items of its header, its body, and fewer than eight zeros. -/
theorem bitsOfBytes_sectionBytes (hf : flags.length = 5) (s : Nat) (ys : List Int) : ∃ pad, pad < 8 ∧
    bitsOfBytes (sectionBytes c s flags ys) =
      laid bitsOf (sectionItems c s flags ys) ++ (sectionBody s ys ++ List.replicate pad false) := by
  rw [sectionBytes, bitsOfBytes_packBits, List.append_assoc, sectionHeader_eq_laid c hf]
  exact ⟨_, by omega, rfl⟩

/-- R162: what follows the 32 bits of a section header. -/
theorem drop_sectionItems (s : Nat) (flags : List Bool) (ys : List Int) (rest : List Bool) (n : Nat) :
    (laid bitsOf (sectionItems c s flags ys) ++ rest).drop (32 + n) = rest.drop n := by
  have header : (laid bitsOf (sectionItems c s flags ys)).length = 32 := length_laid length_bitsOf _
  rw [← header, List.drop_length_add_append]

theorem modeCode_le (s : Nat) (ys : List Int) : modeCode s ys ≤ 4 := by
  have order := chosenOrder_le ys
  unfold modeCode
  split <;> omega

/-- R91: a section is no longer than with RAW samples. -/
theorem sectionBits_le_rawBits (s : Nat) (ys : List Int) : sectionBits s ys ≤ rawBits s ys.length := by
  unfold sectionBits
  split
  · exact le_rfl
  · next predictive =>
    rw [choosesRaw, decide_eq_true_eq] at predictive
    omega

/-- R92, R162: the length of a section fits its 12 bits. -/
theorem sectionLength_lt (short : ys.length ≤ 960) (s : Nat) : sectionLength s ys < 2 ^ 12 := by
  have raw := sectionBits_le_rawBits s ys
  have most : ys.length * (24 - s) ≤ 960 * 24 := Nat.mul_le_mul short (Nat.sub_le 24 s)
  rw [rawBits] at raw
  rw [sectionLength]
  omega

/-- R162: a sample of a run of samples in two's complement reads back. -/
theorem sample_reads_back {w n : Nat} {xs : List Int} {y : Int} (hw : 1 ≤ w) (at_n : xs[n]? = some y)
    (low : -(2 ^ (w - 1)) ≤ y) (high : y < 2 ^ (w - 1)) (rest : List Bool) :
    (BitVec.ofNat w (numberOfBits (((xs.flatMap (signedBits w) ++ rest).drop (n * w)).take w))).toInt = y := by
  obtain ⟨hn, rfl⟩ := List.getElem?_eq_some_iff.1 at_n
  rw [take_drop_flatMap (length_signedBits w) xs rest n hn, toInt_signedBits hw low high]

end

/-! ### Records and their parts -/

/-- R93: the cue entries and sections of a record are as long as the sizes of its parts say. -/
theorem length_recordBody {n : Nat} (long : 3 ≤ n) (g : GatherBuffer) (s : Nat) (cues : List Cue) (channels : List Source) :
    32 + (recordBody g n s cues channels).length = blockSize g n s cues channels := by
  have sections : ∀ c : Source, (sectionBytes c s (channelFlags g c) (quantized g n s c)).length =
      sectionLength s (quantized g n s c) := fun c =>
    length_sectionBytes c (length_channelFlags g c) (by rwa [length_quantized]) s
  simp [recordBody, blockSize, recordSize, List.length_flatMap, sections]
  omega

/-- R93, R95: a stream record costs eight times its bytes. -/
theorem length_streamRecord {s : State} (long : 3 ≤ s.timebase.blockLength) (g : GatherBuffer) (d : StreamDecision) :
    8 * (s.streamRecord g d).bytes.length =
      streamCost g s.timebase.blockLength s.engine.cueCopy s.rate.roster d.shift d.present := by
  rw [State.streamRecord, List.length_append, length_headerBytes, length_recordBody long, streamCost]

/-- R94, R161: the fields of a record header. -/
theorem header_fields {h : Header} (take : h.id.take < 65536) (sequence : h.id.sequence < 65536)
    (position : h.position < 2 ^ 48) (shift : h.shift < 256) (roster : h.rosterLength < 256) (sections : h.sections < 256)
    (cues : h.cues < 256) (length : h.length < 2 ^ 32) :
    let field := fun i n => numberOf ((h.bytes.drop i).take n)
    field 0 1 = kindCode h.kind ∧ field 1 1 = feedCode h.id.feed ∧ field 2 2 = h.id.take ∧ field 4 2 = h.id.sequence ∧
    field 6 6 = h.position ∧ field 12 1 = rateCode h.rate ∧ field 13 2 = blockLengthOf h.rate ∧ field 15 1 = h.shift ∧
    field 16 1 = recordFlags h ∧ field 17 1 = h.rosterLength ∧ field 18 2 = presentMap h.present ∧
    field 20 1 = h.sections ∧ field 21 1 = h.cues ∧ field 22 4 = h.length ∧ h.bytes.drop 26 = List.replicate 6 0 := by
  obtain ⟨-, -, -, -, flags⟩ := testBit_recordFlags h
  intro field
  simp only [field, Header.bytes_eq_laid position]
  exact ⟨numberOf_laid _ 0 (by simp [Header.items]) rfl (by cases h.kind <;> decide) _,
    numberOf_laid _ 1 (by simp [Header.items]) rfl (by cases h.id.feed <;> decide) _,
    numberOf_laid _ 2 (by simp [Header.items]) rfl take _,
    numberOf_laid _ 3 (by simp [Header.items]) rfl sequence _,
    numberOf_laid _ 4 (by simp [Header.items]) rfl position _,
    numberOf_laid _ 5 (by simp [Header.items]) rfl (by cases h.rate <;> decide) _,
    numberOf_laid _ 6 (by simp [Header.items]) rfl (by cases h.rate <;> decide) _,
    numberOf_laid _ 7 (by simp [Header.items]) rfl shift _,
    numberOf_laid _ 8 (by simp [Header.items]) rfl (by omega) _,
    numberOf_laid _ 9 (by simp [Header.items]) rfl roster _,
    numberOf_laid _ 10 (by simp [Header.items]) rfl (presentMap_lt _) _,
    numberOf_laid _ 11 (by simp [Header.items]) rfl sections _,
    numberOf_laid _ 12 (by simp [Header.items]) rfl cues _,
    numberOf_laid _ 13 (by simp [Header.items]) rfl length _,
    drop_laid length_bytesOf _ 14 (by simp [Header.items]) _⟩

/-- R141, R161: the fields of a cue entry. -/
theorem cue_fields {start : Nat} {c : Cue} (id : c.id < 65536) (near : c.position - start < 65536)
    (short : c.label.length ≤ 10) :
    let bytes := cueEntryBytes start c
    let field := fun i n => numberOf ((bytes.drop i).take n)
    field 0 2 = c.id ∧ field 2 2 = c.position - start ∧ field 4 1 = kindOrigin c ∧ field 5 1 = c.label.length ∧
    bytes.drop 6 = c.label ++ List.replicate (10 - c.label.length) 0 := by
  intro bytes field
  obtain ⟨-, -, halves⟩ := kindOrigin_halves c
  simp only [field, bytes, cueEntryBytes_eq_laid short]
  exact ⟨numberOf_laid _ 0 (by simp [cueItems]) rfl id _,
    numberOf_laid _ 1 (by simp [cueItems]) rfl near _,
    numberOf_laid _ 2 (by simp [cueItems]) rfl halves _,
    numberOf_laid _ 3 (by simp [cueItems]) rfl (by omega) _,
    drop_laid length_bytesOf _ 4 (by simp [cueItems]) _⟩

/-- R162: the fields of a section header. -/
theorem section_fields (c : Source) {s : Nat} {flags : List Bool} {ys : List Int} (hf : flags.length = 5) (hs : s ≤ 8)
    (short : ys.length ≤ 960) (rest : List Bool) :
    let bits := laid bitsOf (sectionItems c s flags ys) ++ rest
    let field := fun i n => numberOfBits ((bits.drop i).take n)
    field 0 7 = sourceId c ∧ field 7 3 = modeCode s ys ∧ field 10 4 = s ∧ (bits.drop 14).take 5 = flags ∧ field 19 1 = 0 ∧
    field 20 12 = sectionLength s ys := by
  have mode := modeCode_le s ys
  have source : sourceId c < 2 ^ 7 := by
    cases c with
    | track t => exact t.isLt.trans (by norm_num)
    | bus b =>
      have := b.isLt
      rw [sourceId]
      omega
  exact ⟨numberOfBits_laid _ 0 (by simp [sectionItems]) rfl source _,
    numberOfBits_laid _ 1 (by simp [sectionItems]) rfl (by omega) _,
    numberOfBits_laid _ 2 (by simp [sectionItems]) rfl (by omega) _,
    (take_drop_laid length_bitsOf _ 3 (by simp [sectionItems]) rfl _).trans (bitsOf_flags hf),
    numberOfBits_laid _ 4 (by simp [sectionItems]) rfl (by norm_num) _,
    numberOfBits_laid _ 5 (by simp [sectionItems]) rfl (sectionLength_lt short s) _⟩

/-- R85, R91, R92, R162: the bytes of a section, read back by a decoder. -/
theorem section_reads_back (c : Source) {s : Nat} {flags : List Bool} {ys : List Int} (hf : flags.length = 5) (hs : s ≤ 8)
    (hN : ys.length = 480 ∨ ys.length = 960) (range : ∀ y ∈ ys, -(2 ^ (23 - s)) ≤ y ∧ y < 2 ^ (23 - s)) :
    let bytes := sectionBytes c s flags ys
    let bits := bitsOfBytes bytes
    let field := fun i n => numberOfBits ((bits.drop i).take n)
    let w := 24 - s
    let sample := fun i => (BitVec.ofNat w (field i w)).toInt
    let k := chosenOrder ys
    (choosesRaw s ys = true → 8 * bytes.length = 32 + ys.length * w ∧
      ∀ (n : Nat) (h : n < ys.length), sample (32 + n * w) = ys[n]) ∧
    (choosesRaw s ys = false →
      (∀ (n : Nat) (h : n < ys.length), n < k → sample (32 + n * w) = ys[n]) ∧
      (∀ p, p < 8 → field (32 + k * w + 5 * p) 5 = riceParameter (partitionOf k p ys)) ∧
      ∃ pad, pad < 8 ∧ bits.drop (32 + k * w + 40) = riceBody k ys ++ List.replicate pad false) := by
  intro bytes bits field w sample k
  have order := chosenOrder_le ys
  have long : 3 ≤ ys.length := by omega
  have wide : 1 ≤ w := by omega
  have inRange : ∀ (n : Nat) (h : n < ys.length), -(2 ^ (w - 1)) ≤ ys[n] ∧ ys[n] < 2 ^ (w - 1) := fun n h => by
    rw [show w - 1 = 23 - s by omega]
    exact range _ (List.getElem_mem h)
  obtain ⟨pad, few, hbits⟩ := bitsOfBytes_sectionBytes c hf s ys
  have body : ∀ n, bits.drop (32 + n) = (sectionBody s ys ++ List.replicate pad false).drop n := fun n => by
    rw [← drop_sectionItems c s flags ys _ n, ← hbits]
  refine ⟨fun raw => ⟨?_, fun n h => ?_⟩, fun predictive => ?_⟩
  · have length : bytes.length = sectionLength s ys := length_sectionBytes c hf long s
    rw [length, sectionLength, sectionBits, if_pos raw, rawBits, show 24 - s = w from rfl]
    rcases hN with hN | hN <;> rw [hN] <;> omega
  · obtain ⟨low, high⟩ := inRange n h
    simp only [sample, field, body, sectionBody_raw raw]
    exact sample_reads_back wide (List.getElem?_eq_getElem h) low high _
  · simp only [sectionBody_predictive predictive, List.append_assoc] at body
    have afterWarmUp : ∀ n, bits.drop (32 + k * w + n) =
        (parameterBits ys ++ (riceBody k ys ++ List.replicate pad false)).drop n := fun n => by
      rw [Nat.add_assoc, body, ← length_warmUp long, List.drop_length_add_append]
    refine ⟨fun n h below => ?_, fun p hp => ?_, pad, few, ?_⟩
    · obtain ⟨low, high⟩ := inRange n h
      simp only [sample, field, body]
      exact sample_reads_back wide (by rw [List.getElem?_take_of_lt below, List.getElem?_eq_getElem h]) low high _
    · have parameter := riceParameter_le (partitionOf k p ys)
      have word := take_drop_flatMap (g := fun p => bitsOf 5 (riceParameter (partitionOf k p ys))) (fun _ => length_bitsOf ..)
        (List.range 8) (riceBody k ys ++ List.replicate pad false) p (by simpa using hp)
      simp only [field, afterWarmUp, Nat.mul_comm 5 p]
      rw [parameterBits, word, List.getElem_range, numberOfBits_bitsOf_of_lt (by omega)]
    · rw [afterWarmUp, List.drop_left' (length_parameterBits ys)]

/-- Settles O49, by the layouts of headers, cue entries and sections. -/
theorem recordsHaveTheSizesChargedFor : Obligations.RecordsHaveTheSizesChargedFor := by
  refine ⟨fun c s flags ys hf _ long => length_sectionBytes c hf long s, fun s g d _ block => ?_, length_endRecord, ?_, ?_,
    fun g t b => ⟨rfl, rfl⟩, ?_⟩
  · exact length_streamRecord (by omega) g d
  · intro h take sequence position shift roster present sections cues length field
    obtain ⟨kind, feed, take, sequence, position, rate, block, shift, flags, roster, map, fields⟩ :=
      header_fields take sequence position shift roster sections cues length
    obtain ⟨holdover, shed, overrun, aborted, few⟩ := testBit_recordFlags h
    refine ⟨length_headerBytes h, kind.trans ?_, feed.trans ?_, take, sequence, position, rate.trans ?_, block.trans ?_,
      shift, ?_, ?_, ?_, ?_, ?_, roster, fun x hx => ?_, fields⟩
    · cases h.kind <;> rfl
    · cases h.id.feed <;> rfl
    · cases h.rate <;> rfl
    · cases h.rate <;> rfl
    · exact (congrArg (Nat.testBit · 0) flags).trans holdover
    · exact (congrArg (Nat.testBit · 1) flags).trans shed
    · exact (congrArg (Nat.testBit · 2) flags).trans overrun
    · exact (congrArg (Nat.testBit · 3) flags).trans aborted
    · exact flags.trans_lt few
    · exact (congrArg (Nat.testBit · (15 - x)) map).trans (testBit_presentMap present hx)
  · intro start c id after near short bytes field
    obtain ⟨hid, offset, halves, length, label⟩ := cue_fields id near short
    obtain ⟨kind, origin, -⟩ := kindOrigin_halves c
    refine ⟨length_cueEntryBytes start c, hid, ?_, ?_, ?_, length, label⟩
    · exact (congrArg (start + ·) offset).trans (Nat.add_sub_cancel' after)
    · refine (congrArg (· / 16) halves).trans (kind.trans ?_)
      cases c.kind <;> rfl
    · refine (congrArg (· % 16) halves).trans (origin.trans ?_)
      rcases c.origin with p | _
      · cases p <;> rfl
      · rfl
  · intro c s flags ys hf hs hN range bytes bits field w sample k part codes
    obtain ⟨pad, -, hbits⟩ := bitsOfBytes_sectionBytes c hf s ys
    obtain ⟨source, mode, shift, five, zero, length⟩ := section_fields c hf hs (ys := ys) (by omega)
      (sectionBody s ys ++ List.replicate pad false)
    rw [← hbits] at source mode shift five zero length
    obtain ⟨raw, predictive⟩ := section_reads_back c hf hs hN range
    refine ⟨source.trans ?_, shift, five, zero, length.trans (length_sectionBytes c hf (by omega) s).symm,
      fun cheaper => ?_, fun cheaper => ?_⟩
    · cases c <;> rfl
    · have chosen : choosesRaw s ys = true := choosesRaw_iff.2 cheaper
      exact ⟨mode.trans (if_pos chosen), raw chosen⟩
    · have chosen : choosesRaw s ys = false := by
        rw [← Bool.not_eq_true, choosesRaw_iff]
        exact Nat.not_le.2 cheaper
      exact ⟨mode.trans (by rw [modeCode, chosen]; rfl), predictive chosen⟩

end Sys2Proof.Machine
end

section
/-! What the engine codes, and RECORD_PLACEMENT (05 §5.2; 07 §7.3; R77 to R81, R85, R94, R96, R110, R115 to R117, R123). -/

namespace Sys2Proof.Machine

/-! ### What the engine codes (R77, R78, R80, R81, R85) -/

/-- R85: a channel of a whole block is its samples, one of each sample period. -/
theorem channel_of_whole_block {g : GatherBuffer} {n : Nat} (whole : g.rows.length = n) (c : Source) :
    g.channel c n = g.rows.map fun row => row.sample c := by
  simp [GatherBuffer.channel, ← whole]

section
variable {s : State}

/-- R77: in STREAM the engine codes the stream record of the block. -/
theorem codedRecord?_stream {i : BufferId} {d : StreamDecision} (state : s.engine.state = .stream)
    (block : s.engine.block = some i) (decision : s.engine.decision = some d) :
    s.codedRecord? = some (s.streamRecord (s.framer.buffer i) d) := by
  simp only [State.codedRecord?, state, block, decision]

/-- R78: in ARCHIVE the engine codes the archive record of the block. -/
theorem codedRecord?_archive {i : BufferId} (state : s.engine.state = .archive) (block : s.engine.block = some i) :
    s.codedRecord? = some (s.archiveRecord (s.framer.buffer i)) := by
  simp only [State.codedRecord?, state, block]

/-- R80: in END the engine codes the END records, that of the stream feed first. -/
theorem codedRecord?_ending {j : EndJob} (state : s.engine.state = .ending) (job : s.engine.endJob = some j) :
    s.codedRecord? = some (s.endRecord (if j.streamDone then .archive else .stream) j.aborted) := by
  simp only [State.codedRecord?, state, job]

theorem codedRecord?_idle (state : s.engine.state = .idle) : s.codedRecord? = none := by
  simp only [State.codedRecord?, state]

/-! ### RECORD_PLACEMENT (R96, R115) -/

/-- R96: nothing is placed while a record is FILLING, or with nothing to code. -/
theorem State.placeNext_nothing (h : s.store.archive.filling ≠ none ∨ s.store.stream.filling ≠ none ∨
    s.codedRecord? = none) : s.placeNext = s := by
  unfold State.placeNext
  split
  · rfl
  · next free =>
    rw [Bool.or_eq_true, not_or, Option.not_isSome_iff_eq_none, Option.not_isSome_iff_eq_none] at free
    rw [show s.codedRecord? = none by tauto]

/-- R115: with no record FILLING the coded record is placed. -/
theorem State.placeNext_coded {c : CodedRecord} (archive : s.store.archive.filling = none)
    (stream : s.store.stream.filling = none) (coded : s.codedRecord? = some c) :
    s.placeNext = s.place c.kind c.id c.bytes := by
  simp [State.placeNext, archive, stream, coded]

/-- R115: RECORD_PLACEMENT outside reset. -/
theorem exec_recordPlacement (running : s.resetHeld = false) : exec .recordPlacement s = .next s.placeNext :=
  congrArg Host.Outcome.next (if_neg (by simp [running]))

/-! ### The room a placement makes (R110, R115, R116) -/

/-- R110, R116: a forced removal leaves the sizes of the regions as they are. -/
theorem State.removeHead_size (s : State) (f g : Feed) : ((s.removeHead f).region g).size = (s.region g).size := by
  by_cases h : g = f
  · subst h
    cases ring : (s.region g).ring with
    | nil => simp only [State.removeHead, ring]
    | cons head rest => rw [State.removeHead_region ring]
  · rw [State.removeHead_region_ne s h]

variable (s) in
/-- R110: any number of forced removals leave the first page of a region as it is. -/
theorem base_iterate_removeHead (f g : Feed) (n : Nat) :
    ((fun x : State => x.removeHead f)^[n] s).store.base g = s.store.base g := by
  induction n with
  | zero => rfl
  | succ n ih =>
    rw [Function.iterate_succ_apply', ← ih]
    cases g with
    | archive => rfl
    | stream => exact State.removeHead_size _ f .archive

/-- R115: a placement is as many forced removals as the record needs, and the record at the write point. -/
theorem State.place_iterate {id : RecordId} {bytes : List Byte} (free : (s.region id.feed).filling = none)
    (fits : pagesFor bytes.length ≤ (s.region id.feed).size) (kind : RecordKind) : ∃ n,
    let removed := fun m => (fun x : State => x.removeHead id.feed)^[m] s
    let r := (removed n).region id.feed
    (∀ m, m < n → ((removed m).region id.feed).free < pagesFor bytes.length) ∧ pagesFor bytes.length ≤ r.free ∧
    s.place kind id bytes = (removed n).setRegion id.feed { r with
      filling := some ⟨id, kind, bytes, pagesFor bytes.length, r.writePoint, .filling, PerPort.of fun _ => false⟩
      writePoint := wrapPage (s.store.base id.feed) r.size r.writePoint (pagesFor bytes.length) } := by
  obtain ⟨n, few, enough, room⟩ := State.makeRoom_iterate id.feed (pagesFor bytes.length) _ s le_rfl free fits
  refine ⟨n, few, enough, ?_⟩
  rw [State.place, room, base_iterate_removeHead]

/-- R110, R115, R116: a placement fills no more pages than the region has, and takes records off the head alone. -/
theorem State.place_fits {id : RecordId} {bytes : List Byte} (some_bytes : bytes ≠ [])
    (free : (s.region id.feed).filling = none) (fits : pagesFor bytes.length ≤ (s.region id.feed).size)
    (kind : RecordKind) :
    let after := (s.place kind id bytes).region id.feed
    after.used ≤ after.size ∧ after.size = (s.region id.feed).size ∧ after.ring <:+ (s.region id.feed).ring := by
  obtain ⟨same, suffix, enough⟩ := State.makeRoom_region id.feed (pagesFor bytes.length) _ s le_rfl
  have room := enough free fits
  have one : 1 ≤ pagesFor bytes.length := by
    have := List.length_pos_iff.2 some_bytes
    rw [pagesFor]
    omega
  rw [same] at room
  rw [State.place_region, same]
  refine ⟨?_, rfl, suffix⟩
  simp only [Region.free, Region.used, free] at room ⊢
  omega

end

/-! ### Forced removals (R116, R117) -/

/-- R116, R117: a forced removal touches the store, the feed states and the ports alone. -/
theorem State.removeHead_eq (s : State) (f : Feed) : s.removeHead f = { s with
    store := (s.removeHead f).store, feeds := (s.removeHead f).feeds, ports := (s.removeHead f).ports } :=
  State.eq_of_leaves (s.removeHead_frame f)

/-- Settles O53, by the records coded, the placement of a record, and the forced removals it makes. -/
theorem placementMakesRoom : Obligations.PlacementMakesRoom := by
  refine ⟨?_, ?_, ?_, ?_, ?_, fun r => rfl, ?_, ?_⟩
  · intro s block sections cues
    refine ⟨?_, ?_, ?_, codedRecord?_idle⟩
    · intro i d state gathered decision _ g channels body
      rw [codedRecord?_stream state gathered decision, State.streamRecord, ← length_recordBody (by omega)]
      rfl
    · intro i state gathered g channels body
      rw [codedRecord?_archive state gathered, State.archiveRecord, ← length_recordBody (by omega)]
      rfl
    · intro ⟨aborted, streamDone⟩ state job feed
      rw [codedRecord?_ending state job]
      cases streamDone <;> rfl
  · intro g c n whole
    rw [channel_of_whole_block whole]
    cases c <;> rfl
  · intro s running nothing
    rw [exec_recordPlacement running, State.placeNext_nothing nothing]
  · intro s ⟨kind, ⟨feed, take, sequence⟩, bytes⟩ running archive stream coded enough r base
    rw [exec_recordPlacement running, State.placeNext_coded archive stream coded, State.place_enough enough]
    cases feed <;> rfl
  · intro s ⟨kind, ⟨feed, take, sequence⟩, bytes⟩ running archive stream coded f pages
    refine ⟨?_, fun fits => ?_⟩
    · rw [exec_recordPlacement running, State.placeNext_coded archive stream coded]
    · cases feed with
      | archive => exact State.place_iterate (id := ⟨.archive, take, sequence⟩) archive fits kind
      | stream => exact State.place_iterate (id := ⟨.stream, take, sequence⟩) stream fits kind
  · intro s kind id bytes some_bytes free fits after
    obtain ⟨used, size, suffix⟩ := State.place_fits some_bytes free fits kind
    refine ⟨used, size, suffix, ?_, fun enough => ?_⟩
    · simp only [after, State.place_region]
      rfl
    · simp only [after, State.place_region, State.makeRoom_enough enough]
  · intro s f h rest p ring
    rw [State.removeHead_feed ring, State.removeHead_port ring]
    refine ⟨fun other => ?_, fun holder => ?_, State.removeHead_store ring, State.removeHead_eq s f⟩
    · rw [other]
      exact ⟨rfl, rfl⟩
    · rw [if_pos holder, if_pos holder]
      exact ⟨rfl, rfl⟩

end Sys2Proof.Machine
end

section
/-! The stream decision, what it does to the reservoir, and STREAM_GET (06; R100, R103 to R107). -/

namespace Sys2Proof.Machine

/-! ### The decision (R103 to R105) -/

section
variable {cost : Nat → Nat → Nat} {n prev avail : Nat}

/-- R103: the first shift at which every entry fits. -/
theorem streamDecision_fits {s : Nat} (found : shiftSearch cost n prev avail = some s) :
    streamDecision cost n prev avail = ⟨s, n, false, false⟩ := by
  simp only [streamDecision, found]

/-- R104: entries are shed when no shift is found. -/
theorem streamDecision_sheds {j : Nat} (large : shiftSearch cost n prev avail = none)
    (found : shedSearch cost n avail = some j) : streamDecision cost n prev avail = ⟨8, j, true, false⟩ := by
  simp only [streamDecision, large, found]

/-- R105: an overrun, when shedding finds nothing either. -/
theorem streamDecision_overruns (large : shiftSearch cost n prev avail = none)
    (all : shedSearch cost n avail = none) : streamDecision cost n prev avail = ⟨8, 1, decide (2 ≤ n), true⟩ := by
  simp only [streamDecision, large, all]

/-- R103 to R105: what a decision tells of the costs: every entry fits, or some entries fit at shift 8, or not even one. -/
theorem streamDecision_cases (cost : Nat → Nat → Nat) {n prev : Nat} (avail : Nat) (entries : 1 ≤ n) (shift : prev ≤ 8) :
    (∃ s, prev - 1 ≤ s ∧ s ≤ 8 ∧ cost s n ≤ avail ∧ streamDecision cost n prev avail = ⟨s, n, false, false⟩) ∨
    (∃ j, 1 ≤ j ∧ j < n ∧ cost 8 j ≤ avail ∧ streamDecision cost n prev avail = ⟨8, j, true, false⟩) ∨
    (avail < cost 8 1 ∧ streamDecision cost n prev avail = ⟨8, 1, decide (2 ≤ n), true⟩) := by
  cases fit : shiftSearch cost n prev avail with
  | some s =>
    obtain ⟨low, high, fits, -⟩ := shiftSearch_eq_some.1 fit
    exact .inl ⟨s, low, high, fits, streamDecision_fits fit⟩
  | none =>
    cases shed : shedSearch cost n avail with
    | some j =>
      obtain ⟨one, fewer, fits, -⟩ := shedSearch_eq_some.1 shed
      exact .inr (.inl ⟨j, one, fewer, fits, streamDecision_sheds fit shed⟩)
    | none =>
      refine .inr (.inr ⟨?_, streamDecision_overruns fit shed⟩)
      -- One entry is the whole roster, which the first search tried at shift 8, or fewer, which the second tried.
      rcases Nat.eq_or_lt_of_le entries with rfl | more
      · exact shiftSearch_eq_none.1 fit 8 (by omega) le_rfl
      · exact shedSearch_eq_none.1 shed 1 le_rfl more

end

/-! ### The reservoir (R105, R106) -/

/-- R105: an overrun empties the reservoir. -/
theorem RateControl.charge_overrun (rc : RateControl) (cost : Nat → Nat → Nat) {d : StreamDecision}
    (h : d.overrun = true) : (rc.charge cost d).level = 0 := if_pos h

/-- R106: a decision that fits leaves what its record did not use, up to the capacity. -/
theorem RateControl.charge_fits (rc : RateControl) (cost : Nat → Nat → Nat) {d : StreamDecision}
    (h : d.overrun = false) :
    (rc.charge cost d).level = min rc.capacity (rc.level + rc.budget - cost d.shift d.present) :=
  if_neg (by simp [h])

/-- Settles O50, by what the two searches find, and by the three kinds of decision. -/
theorem streamDecisionAndReservoir : Obligations.StreamDecisionAndReservoir := by
  refine ⟨?_, ?_⟩
  · intro cost n prev avail _ d
    refine ⟨fun s low high fits first => streamDecision_fits (shiftSearch_eq_some.2 ⟨low, high, fits, first⟩),
      fun large => ?_⟩
    have none_fits := shiftSearch_eq_none.2 large
    exact ⟨fun j one fewer fits most => streamDecision_sheds none_fits (shedSearch_eq_some.2 ⟨one, fewer, fits, most⟩),
      fun all => streamDecision_overruns none_fits (shedSearch_eq_none.2 all)⟩
  · intro rc cost entries shift d after
    obtain ⟨roster, rate, factor, prevShift⟩ := rc.charge_settings cost d
    suffices decided : rc.prevShift ≤ d.shift + 1 ∧ 1 ≤ d.present ∧ d.present ≤ rc.roster.length ∧
        (d.overrun = true → rc.budget + rc.level < cost 8 1) ∧
        (d.overrun = false → cost d.shift d.present ≤ rc.budget + rc.level) by
      obtain ⟨falls, one, most, exceeds, fits⟩ := decided
      exact ⟨rc.charge_level_le cost d, prevShift, streamDecision_shift_le .., falls, one, most,
        fun h => ⟨rc.charge_overrun cost h, exceeds h⟩, fun h => ⟨fits h, rc.charge_fits cost h⟩, roster, rate, factor⟩
    rcases streamDecision_cases cost (rc.budget + rc.level) entries shift with
      ⟨s, low, -, fits, decision⟩ | ⟨j, one, fewer, fits, decision⟩ | ⟨exceeds, decision⟩
    · rw [show d = _ from decision]
      exact ⟨Nat.sub_le_iff_le_add.1 low, entries, le_rfl, nofun, fun _ => fits⟩
    · rw [show d = _ from decision]
      exact ⟨Nat.le_succ_of_le shift, one, fewer.le, nofun, fun _ => fits⟩
    · rw [show d = _ from decision]
      exact ⟨Nat.le_succ_of_le shift, le_rfl, entries, fun _ => exceeds, nofun⟩

/-! ### STREAM_GET (R100) -/

/-- R100: the data of STREAM_GET, item by item. -/
theorem streamGetData_eq (rc : RateControl) :
    streamGetData rc = bytesOf 1 rc.roster.length ++ rc.roster.flatMap (fun c => bytesOf 1 (sourceId c)) ++
      bytesOf 2 rc.rate ++ bytesOf 1 rc.factor ++ bytesOf 4 (10 * rc.rate) ++ bytesOf 4 (rc.factor * (10 * rc.rate)) ++
      bytesOf 4 rc.level ++ bytesOf 1 rc.prevShift := by
  simp only [streamGetData, streamSetupData, RateControl.capacity, RateControl.budget, List.append_assoc]

/-- Settles O52, by the rule of STREAM_GET: it reads the controller alone. -/
theorem streamGetReadsTheController : Obligations.StreamGetReadsTheController := by
  intro s p clocks e h
  have rule : streamGetRule [] (s.setPort p e) = (s.setPort p e, .ok (streamGetData s.rate)) := rfl
  refine ⟨_, exec_reads (i := .streamGet p clocks) rfl h rfl (by simp) rfl rule, ?_⟩
  rw [← streamGetData_eq]
  simp [State.port, State.portsAfter_get, PortState.holds]

end Sys2Proof.Machine
end

section
/-! Rings of records (07 §7.2, R113 to R118): records HELD or SPENT by their holders, the run of the ring that a port holds,
and what a leave, a reclaim, a removal and a publication make of both. -/

namespace Sys2Proof.Machine

/-! ### Records by their holders (R114) -/

/-- R114: a record of a ring is HELD with holders or SPENT without. -/
def Record.Settled (r : Record) : Prop :=
  (r.state = .held ∧ noHolders r.holders = false) ∨ (r.state = .spent ∧ noHolders r.holders = true)

/-- R114: a record that a port holds is not SPENT. -/
theorem Record.Settled.held_of_holder {r : Record} (h : r.Settled) {q : Port} (hq : r.holders.get q = true) :
    r.state = .held := by
  rcases h with ⟨held, -⟩ | ⟨-, none⟩
  · exact held
  · exact absurd hq (by simp [noHolders_iff.1 none q])

/-- R117: a record that a port leaves is SPENT exactly when no holder is left. -/
theorem Record.Settled.leave {r : Record} (h : r.Settled) (p : Port) : (r.leave p).Settled := by
  obtain ⟨-, -, -, -, -, state⟩ := r.leave_spec p
  cases none : noHolders (r.leave p).holders with
  | true => exact .inr ⟨by simpa [none] using state, none⟩
  | false =>
    refine .inl ⟨?_, none⟩
    rw [state, none, if_neg (by simp)]
    obtain ⟨q, hq⟩ : ∃ q, (r.leave p).holders.get q = true := by
      by_contra unheld
      rw [noHolders_iff.2 fun q => by simpa using fun hq => unheld ⟨q, hq⟩] at none
      cases none
    by_cases same : q = p
    · subst same
      rw [(r.leave_spec q).1] at hq
      cases hq
    · exact h.held_of_holder (q := q) (by rw [← (r.leave_spec p).2.1 q same]; exact hq)

/-- R125: a port leaves the records of a kind: identity, pages and the other holders of each record stay. -/
theorem leaveIf_spec (c : Record → Prop) [DecidablePred c] (p : Port) (r : Record) :
    (if c r then r.leave p else r).id = r.id ∧ (if c r then r.leave p else r).bytes = r.bytes ∧
    (if c r then r.leave p else r).pages = r.pages ∧
    ∀ q, q ≠ p → (if c r then r.leave p else r).holders.get q = r.holders.get q := by
  split
  · obtain ⟨-, others, id, bytes, pages, -⟩ := r.leave_spec p
    exact ⟨id, bytes, pages, others⟩
  · exact ⟨rfl, rfl, rfl, fun _ _ => rfl⟩

/-- R125: a port that leaves the records of a kind leaves the identities of a ring. -/
theorem map_id_leaveIf (c : Record → Prop) [DecidablePred c] (p : Port) (ring : List Record) :
    (ring.map fun r => if c r then r.leave p else r).map Record.id = ring.map Record.id := by
  rw [List.map_map]
  exact List.map_congr_left fun r _ => (leaveIf_spec c p r).1

/-! ### Regions (R114, R117) -/

/-- R117: a ring of settled records after a reclaim. -/
theorem Region.Sound.reclaimed {r : Region} (h : r.Sound) {ring : List Record}
    (hx : ∀ x ∈ ring, x.Settled ∧ x.pages = pagesFor x.bytes.length) : Region.Sound { r with ring := reclaim ring } where
  states x hmem := (hx x ((reclaim_suffix ring).subset hmem)).1
  head x hhead := by
    have left : x ∈ reclaim ring := List.mem_of_mem_head? hhead
    rcases (hx x ((reclaim_suffix ring).subset left)).1 with ⟨held, -⟩ | ⟨spent, -⟩
    · exact held
    · exact absurd spent (reclaim_head hhead)
  pages x hmem := (hx x ((reclaim_suffix ring).subset hmem)).2
  filling := h.filling

/-- R116: a ring without its head, after a reclaim. -/
theorem Region.Sound.tail {r : Region} (h : r.Sound) {a : Record} {rest : List Record} (hr : r.ring = a :: rest) :
    Region.Sound { r with ring := reclaim rest } :=
  h.reclaimed fun x hx => ⟨h.states x (by simp [hr, hx]), h.pages x (by simp [hr, hx])⟩

/-- R117, R120, R125: a port leaves the records of a kind, and the ring is reclaimed. -/
theorem Region.Sound.leaveIf {r : Region} (h : r.Sound) (c : Record → Prop) [DecidablePred c] (p : Port) :
    Region.Sound { r with ring := reclaim (r.ring.map fun x => if c x then x.leave p else x) } := by
  refine h.reclaimed fun x hx => ?_
  obtain ⟨y, hy, rfl⟩ := List.mem_map.1 hx
  obtain ⟨-, bytes, pages, -⟩ := leaveIf_spec c p y
  refine ⟨?_, by rw [bytes, pages]; exact h.pages y hy⟩
  split
  · exact Record.Settled.leave (h.states y hy) p
  · exact h.states y hy

/-- R119: the record being written joins the ring with its holders. -/
theorem Region.Sound.published {r : Region} (h : r.Sound) {x : Record} (hx : r.filling = some x) {holders : PerPort Bool}
    (kept : noHolders holders = false) (last : Option RecordId) : Region.Sound { r with
      filling := none, lastPublished := last, ring := r.ring ++ [{ x with state := .held, holders := holders }] } where
  states y hy := by
    rcases List.mem_append.1 hy with old | new
    · exact h.states y old
    · rw [List.mem_singleton.1 new]
      exact .inl ⟨rfl, kept⟩
  head y hy := by
    rw [List.head?_append] at hy
    cases first : r.ring.head? with
    | none =>
      rw [first] at hy
      cases hy
      rfl
    | some z =>
      rw [first] at hy
      cases hy
      exact h.head _ first
  pages y hy := by
    rcases List.mem_append.1 hy with old | new
    · exact h.pages y old
    · rw [List.mem_singleton.1 new]
      exact (h.filling x hx).1
  filling y hy := nomatch hy

/-! ### The run of a ring that a port holds (R118) -/

/-- R118: port `q` holds the newest records of a ring, from its cursor on, and none before. -/
def HoldsRun (q : Port) (ring : List Record) (cursor : Option RecordId) : Prop :=
  ∃ older held : List Record, ring = older ++ held ∧ (∀ x ∈ older, x.holders.get q = false) ∧
    (∀ x ∈ held, x.holders.get q = true) ∧ cursor = held.head?.map Record.id

section
variable {q : Port} {ring : List Record} {cursor : Option RecordId}

/-- R118: an empty run, for a port that holds no record of the ring. -/
theorem HoldsRun.of_unheld (h : ∀ x ∈ ring, x.holders.get q = false) : HoldsRun q ring none :=
  ⟨ring, [], (List.append_nil _).symm, h, by simp, rfl⟩

/-- R118: a port that holds no record has no cursor. -/
theorem HoldsRun.cursor_eq_none (h : HoldsRun q ring cursor) (unheld : ∀ x ∈ ring, x.holders.get q = false) :
    cursor = none := by
  obtain ⟨older, held, rfl, -, all, rfl⟩ := h
  cases held with
  | nil => rfl
  | cons x rest => exact absurd (all x (by simp)) (by simp [unheld x (by simp)])

/-- R117: a reclaim takes no record of the run, since none of them is SPENT. -/
theorem HoldsRun.reclaim (h : HoldsRun q ring cursor) (settled : ∀ x ∈ ring, x.Settled) :
    HoldsRun q (reclaim ring) cursor := by
  obtain ⟨older, held, rfl, unheld, all, hc⟩ := h
  have stays : Machine.reclaim held = held := by
    cases held with
    | nil => rfl
    | cons x rest =>
      have state := (settled x (by simp)).held_of_holder (all x (by simp))
      simp [Machine.reclaim, state]
  refine ⟨Machine.reclaim older, held, ?_, fun x hx => unheld x ((reclaim_suffix older).subset hx), all, hc⟩
  rw [Machine.reclaim, List.dropWhile_append]
  split
  · next gone =>
    rw [List.isEmpty_iff] at gone
    rw [Machine.reclaim, gone]
    exact stays
  · rfl

/-- R118: a change of the records that leaves identities and the port's holdings. -/
theorem HoldsRun.map (h : HoldsRun q ring cursor) {g : Record → Record}
    (hg : ∀ x, (g x).id = x.id ∧ (g x).holders.get q = x.holders.get q) : HoldsRun q (ring.map g) cursor := by
  obtain ⟨older, held, rfl, unheld, all, hc⟩ := h
  refine ⟨older.map g, held.map g, List.map_append, fun x hx => ?_, fun x hx => ?_, ?_⟩
  · obtain ⟨y, hy, rfl⟩ := List.mem_map.1 hx
    rw [(hg y).2, unheld y hy]
  · obtain ⟨y, hy, rfl⟩ := List.mem_map.1 hx
    rw [(hg y).2, all y hy]
  · rw [hc]
    cases held with
    | nil => rfl
    | cons x rest => simp [(hg x).1]

/-- R118, R119: a record published to the port: the newest of its run, and its cursor if it had none. -/
theorem HoldsRun.append (h : HoldsRun q ring cursor) {r : Record} (hr : r.holders.get q = true) :
    HoldsRun q (ring ++ [r]) (some (cursor.getD r.id)) := by
  obtain ⟨older, held, rfl, unheld, all, rfl⟩ := h
  refine ⟨older, held ++ [r], List.append_assoc .., unheld, fun x hx => ?_, ?_⟩
  · rcases List.mem_append.1 hx with old | new
    · exact all x old
    · rw [List.mem_singleton.1 new, hr]
  · cases held <;> rfl

/-- R116: the head removed, which the port held: its next held record is the head of the rest. -/
theorem HoldsRun.tail_of_held {a : Record} {rest : List Record} (h : HoldsRun q (a :: rest) cursor)
    (ha : a.holders.get q = true) : HoldsRun q rest (rest.head?.map Record.id) := by
  obtain ⟨older, held, hring, unheld, all, -⟩ := h
  cases older with
  | nil =>
    rw [List.nil_append] at hring
    exact ⟨[], rest, rfl, by simp, fun x hx => all x (by simp [← hring, hx]), rfl⟩
  | cons b more =>
    obtain ⟨rfl, -⟩ := List.cons.inj hring
    rw [unheld a (by simp)] at ha
    cases ha

/-- R116: the head removed, which the port did not hold. -/
theorem HoldsRun.tail_of_unheld {a : Record} {rest : List Record} (h : HoldsRun q (a :: rest) cursor)
    (ha : a.holders.get q = false) : HoldsRun q rest cursor := by
  obtain ⟨older, held, hring, unheld, all, hc⟩ := h
  cases older with
  | nil =>
    rw [List.nil_append] at hring
    rw [all a (by simp [← hring])] at ha
    cases ha
  | cons b more =>
    obtain ⟨rfl, rfl⟩ := List.cons.inj hring
    exact ⟨more, held, rfl, fun x hx => unheld x (by simp [hx]), all, hc⟩

/-- R118: the record after one of a ring. -/
theorem recordAfter_append {id : RecordId} {older rest : List Record} {r : Record} (hr : r.id = id)
    (first : ∀ x ∈ older, x.id ≠ id) : recordAfter id (older ++ r :: rest) = rest.head?.map Record.id := by
  induction older with
  | nil =>
    cases rest with
    | nil => rfl
    | cons b more => exact if_pos hr
  | cons a more ih =>
    have next := ih fun x hx => first x (by simp [hx])
    have other : ¬ a.id = id := first a (by simp)
    cases more with
    | nil => exact (if_neg other).trans next
    | cons b more => exact (if_neg other).trans next

/-- R118, R125: the cursor record released: the port's run begins with the record after it. -/
theorem HoldsRun.release {id : RecordId} (h : HoldsRun q ring (some id)) (distinct : (ring.map Record.id).Nodup) :
    HoldsRun q (ring.map fun r => if r.id = id then r.leave q else r) (recordAfter id ring) := by
  obtain ⟨older, held, rfl, unheld, all, hc⟩ := h
  cases held with
  | nil => cases hc
  | cons r rest =>
    have hr : r.id = id := (Option.some.inj hc).symm
    simp only [List.map_append, List.map_cons, List.nodup_append, List.nodup_cons, List.mem_map, hr] at distinct
    obtain ⟨-, ⟨later, -⟩, apart⟩ := distinct
    have before : ∀ x ∈ older, x.id ≠ id := fun x hx => apart x.id ⟨x, hx, rfl⟩ id (by simp)
    have after : ∀ x ∈ rest, x.id ≠ id := fun x hx hid => later ⟨x, hx, hid⟩
    refine ⟨older ++ [r.leave q], rest, ?_, fun x hx => ?_, fun x hx => all x (by simp [hx]), recordAfter_append hr before⟩
    · rw [List.map_append, List.map_cons, if_pos hr, List.map_congr_left fun x hx => if_neg (before x hx),
        List.map_congr_left (l := rest) fun x hx => if_neg (after x hx)]
      simp
    · rcases List.mem_append.1 hx with old | new
      · exact unheld x old
      · rw [List.mem_singleton.1 new]
        exact (r.leave_spec q).1

end

end Sys2Proof.Machine
end

section
/-! The regions and the ports' holdings through the operations of the store (07 §7.3, §7.4; R113 to R120, R125): forced
removals, placement, publication, releases, subscriptions and new region sizes. -/

namespace Sys2Proof.Machine

/-! ### Regions in a safe run (R114, R117) -/

/-- R114, R117: both regions are as in a safe run. -/
def State.RegionsSound (s : State) : Prop := ∀ f, (s.region f).Sound

section
variable {s u : State}

theorem State.RegionsSound.of_store (h : s.RegionsSound) (e : u.store = s.store) : u.RegionsSound := fun f => by
  rw [← State.store_region, e]
  exact h f

theorem State.RegionsSound.setRegion (h : s.RegionsSound) (f : Feed) {r : Region} (hr : r.Sound) :
    (s.setRegion f r).RegionsSound := fun g => by
  by_cases same : g = f
  · subst same
    rwa [State.region_setRegion_self]
  · rw [State.region_setRegion_ne _ _ same]
    exact h g

/-- R116, R117: a forced removal. -/
theorem State.RegionsSound.removeHead (h : s.RegionsSound) (f : Feed) : (s.removeHead f).RegionsSound := by
  cases hr : (s.region f).ring with
  | nil =>
    have nothing : s.removeHead f = s := by simp only [State.removeHead, hr]
    rwa [nothing]
  | cons a rest => exact (h.setRegion f ((h f).tail hr)).of_store (State.removeHead_store hr)

/-- R115: the room made for a record. -/
theorem State.RegionsSound.makeRoom (h : s.RegionsSound) (f : Feed) (pages steps : Nat) :
    (s.makeRoom f pages steps).RegionsSound := by
  induction steps generalizing s with
  | zero => exact h
  | succ n ih =>
    rw [State.makeRoom]
    split
    · exact ih (h.removeHead f)
    · exact h

/-- R115: a record placed is FILLING, with the pages its bytes need. -/
theorem State.RegionsSound.place (h : s.RegionsSound) (kind : RecordKind) (id : RecordId) (bytes : List Byte) :
    (s.place kind id bytes).RegionsSound := by
  have room := h.makeRoom id.feed (pagesFor bytes.length) (s.region id.feed).ring.length
  obtain ⟨states, head, pages, -⟩ := room id.feed
  exact room.setRegion id.feed ⟨states, head, pages, fun x hx => by cases hx; exact ⟨rfl, rfl⟩⟩

/-- R119: a publication. -/
theorem State.RegionsSound.publish (h : s.RegionsSound) (f : Feed) : (s.publish f).RegionsSound := by
  cases hr : (s.region f).filling with
  | none =>
    have nothing : s.publish f = s := by simp only [State.publish, hr]
    rwa [nothing]
  | some r =>
    cases empty : noHolders (s.holdersOf f) with
    | true =>
      rw [State.publish_dropped hr empty]
      obtain ⟨states, head, pages, -⟩ := h f
      exact h.setRegion f ⟨states, head, pages, fun x hx => nomatch hx⟩
    | false =>
      rw [State.publish_held hr empty]
      exact (h.setRegion f ((h f).published hr empty (some r.id))).of_store (by simp)

/-- R125: a release. -/
theorem State.RegionsSound.releaseCursor (h : s.RegionsSound) (p : Port) (id : RecordId) :
    (s.releaseCursor p id).RegionsSound :=
  (h.setRegion id.feed ((h id.feed).leaveIf (fun r => r.id = id) p)).of_store rfl

/-- R120: a port leaves every record. -/
theorem State.RegionsSound.dropPort (h : s.RegionsSound) (p : Port)
    (hu : u.store = ⟨s.store.archive.dropPort p, s.store.stream.dropPort p⟩) : u.RegionsSound := fun f => by
  rw [← State.store_region, hu]
  cases f with
  | archive => exact (h .archive).leaveIf (fun r => r.holders.get p = true) p
  | stream => exact (h .stream).leaveIf (fun r => r.holders.get p = true) p

/-- R112: two empty regions. -/
theorem State.RegionsSound.of_empty (h : ∀ f, (u.region f).ring = [] ∧ (u.region f).filling = none) : u.RegionsSound :=
  fun f => by
    obtain ⟨ring, filling⟩ := h f
    exact ⟨by simp [ring], by simp [ring], by simp [ring], by simp [filling]⟩

end

/-! ### What the ports hold (R113, R118) -/

/-- R113, R118: the records of feed `f` and the ports that hold them in a safe run. -/
structure State.FeedHeld (s : State) (f : Feed) : Prop where
  ofFeed : ∀ x ∈ (s.region f).ring, x.id.feed = f
  filling : ∀ x, (s.region f).filling = some x → x.id.feed = f
  distinct : ((s.region f).ring.map Record.id).Nodup
  elsewhere : ∀ p, (s.feed p).subscription ≠ some f → ∀ x ∈ (s.region f).ring, x.holders.get p = false
  run : ∀ p, (s.feed p).subscription = some f → HoldsRun p (s.region f).ring (s.feed p).cursor

/-- R113, R118: the records of both feeds, and no cursor without a subscription. -/
structure State.PortsHold (s : State) : Prop where
  feeds : ∀ f, s.FeedHeld f
  unsubscribed : ∀ p, (s.feed p).subscription = none → (s.feed p).cursor = none

/-- R96: a record is FILLING only in the feed of the engine's job, and END records are under way only in a take that is
CLOSING and gathers nothing. -/
structure State.JobsAgree (s : State) : Prop where
  streamJob : s.store.stream.filling.isSome = true →
    s.engine.state = .stream ∨ (s.engine.state = .ending ∧ ∃ a, s.engine.endJob = some ⟨a, false⟩)
  archiveJob : s.store.archive.filling.isSome = true →
    s.engine.state = .archive ∨ (s.engine.state = .ending ∧ ∃ a, s.engine.endJob = some ⟨a, true⟩)
  ending : s.engine.state = .ending → s.take.state = .closing ∧ s.take.gathering = false

/-- R96, R113, R118: the ports and the records of the store in a safe run, by what the ports hold and by the engine's job. -/
theorem State.holdings_iff {s : State} : s.Holdings ↔ s.PortsHold ∧ s.JobsAgree := by
  constructor
  · rintro ⟨ofFeed, distinct, elsewhere, run, unsubscribed, streamJob, archiveJob, ending⟩
    exact ⟨⟨fun f => ⟨(ofFeed f).1, (ofFeed f).2, distinct f, fun p => elsewhere p f, fun p => run p f⟩, unsubscribed⟩,
      streamJob, archiveJob, ending⟩
  · rintro ⟨⟨feeds, unsubscribed⟩, streamJob, archiveJob, ending⟩
    exact ⟨fun f => ⟨(feeds f).ofFeed, (feeds f).filling⟩, fun f => (feeds f).distinct, fun p f => (feeds f).elsewhere p,
      fun p f => (feeds f).run p, unsubscribed, streamJob, archiveJob, ending⟩

section
variable {s u : State} {f : Feed}

/-- R118: a step that leaves the ring of a feed and the cursors of its subscribers. -/
theorem State.FeedHeld.of_ring (h : s.FeedHeld f) (ring : (u.region f).ring = (s.region f).ring)
    (filling : ∀ x, (u.region f).filling = some x → x.id.feed = f)
    (subs : ∀ p, (u.feed p).subscription = some f ↔ (s.feed p).subscription = some f)
    (cursors : ∀ p, (s.feed p).subscription = some f → (u.feed p).cursor = (s.feed p).cursor) : u.FeedHeld f where
  ofFeed := ring ▸ h.ofFeed
  filling := filling
  distinct := ring ▸ h.distinct
  elsewhere p hp := ring ▸ h.elsewhere p fun hs => hp ((subs p).2 hs)
  run p hp := by
    have before := (subs p).1 hp
    rw [ring, cursors p before]
    exact h.run p before

/-- R118: a step that leaves the region of a feed and the cursors of its subscribers. -/
theorem State.FeedHeld.of_region (h : s.FeedHeld f) (region : u.region f = s.region f)
    (subs : ∀ p, (u.feed p).subscription = some f ↔ (s.feed p).subscription = some f)
    (cursors : ∀ p, (s.feed p).subscription = some f → (u.feed p).cursor = (s.feed p).cursor) : u.FeedHeld f :=
  h.of_ring (by rw [region]) (by rw [region]; exact h.filling) subs cursors

/-- R118: a step that leaves the store, the subscriptions and the cursors. -/
theorem State.PortsHold.of_same (h : s.PortsHold) (store : u.store = s.store)
    (feeds : ∀ p, (u.feed p).subscription = (s.feed p).subscription ∧ (u.feed p).cursor = (s.feed p).cursor) :
    u.PortsHold where
  feeds f := (h.feeds f).of_region (by rw [← State.store_region, store]; rfl) (fun p => by rw [(feeds p).1])
    fun p _ => (feeds p).2
  unsubscribed p hp := by
    rw [(feeds p).1] at hp
    rw [(feeds p).2, h.unsubscribed p hp]

/-! ### Forced removals and placement (R115, R116) -/

/-- R116: a removal leaves the subscriptions. -/
theorem State.removeHead_subscription (s : State) (f : Feed) (p : Port) :
    ((s.removeHead f).feed p).subscription = (s.feed p).subscription := by
  cases hr : (s.region f).ring with
  | nil => simp only [State.removeHead, hr]
  | cons a rest =>
    rw [State.removeHead_feed hr]
    split <;> rfl

/-- R116, R118: a forced removal: each holder's run begins with its next held record. -/
theorem State.PortsHold.removeHead (h : s.PortsHold) (sound : s.RegionsSound) (f : Feed) : (s.removeHead f).PortsHold := by
  have subs := s.removeHead_subscription f
  cases hr : (s.region f).ring with
  | nil =>
    have nothing : s.removeHead f = s := by simp only [State.removeHead, hr]
    rwa [nothing]
  | cons a rest =>
    have feed := State.removeHead_feed hr
    have other : ∀ p, (s.feed p).subscription ≠ some f → (s.removeHead f).feed p = s.feed p := fun p hp => by
      rw [feed, if_neg (by rw [(h.feeds f).elsewhere p hp a (by simp [hr])]; simp)]
    refine ⟨fun g => ?_, fun p hp => ?_⟩
    · by_cases same : g = f
      · subst same
        obtain ⟨ofFeed, filling, distinct, elsewhere, run⟩ := h.feeds g
        have left : ∀ x ∈ reclaim rest, x ∈ (s.region g).ring := fun x hx => by
          rw [hr]
          exact List.mem_cons_of_mem a ((reclaim_suffix rest).subset hx)
        have suffix : reclaim rest <:+ (s.region g).ring := by
          rw [hr]
          exact (reclaim_suffix rest).trans (List.suffix_cons a rest)
        have region := State.removeHead_region hr
        refine ⟨?_, ?_, ?_, fun p hp => ?_, fun p hp => ?_⟩
        · rw [region]
          exact fun x hx => ofFeed x (left x hx)
        · rw [region]
          exact filling
        · rw [region]
          exact distinct.sublist (suffix.sublist.map _)
        · rw [subs] at hp
          rw [region]
          exact fun x hx => elsewhere p hp x (left x hx)
        · rw [subs] at hp
          have held := run p hp
          rw [hr] at held
          have settled : ∀ x ∈ rest, x.Settled := fun x hx => (sound g).states x (by simp [hr, hx])
          rw [region, feed]
          cases ha : a.holders.get p with
          | true => exact (held.tail_of_held ha).reclaim settled
          | false => exact (held.tail_of_unheld ha).reclaim settled
      · refine (h.feeds g).of_region (State.removeHead_region_ne s same) (fun p => by rw [subs]) fun p hp => ?_
        rw [other p fun hf => same (Option.some.inj (hp.symm.trans hf))]
    · rw [subs] at hp
      rw [other p (by simp [hp]), h.unsubscribed p hp]

/-- R115, R118: the room made for a record. -/
theorem State.PortsHold.makeRoom (h : s.PortsHold) (sound : s.RegionsSound) (f : Feed) (pages steps : Nat) :
    (s.makeRoom f pages steps).PortsHold := by
  induction steps generalizing s with
  | zero => exact h
  | succ n ih =>
    rw [State.makeRoom]
    split
    · exact ih (h.removeHead sound f) (sound.removeHead f)
    · exact h

/-- R115, R118: a placement. -/
theorem State.PortsHold.place (h : s.PortsHold) (sound : s.RegionsSound) (kind : RecordKind) (id : RecordId)
    (bytes : List Byte) : (s.place kind id bytes).PortsHold := by
  have room := h.makeRoom sound id.feed (pagesFor bytes.length) (s.region id.feed).ring.length
  refine ⟨fun g => ?_, room.unsubscribed⟩
  by_cases same : g = id.feed
  · subst same
    refine (room.feeds id.feed).of_ring ?_ (fun x hx => ?_) (fun p => .rfl) fun p _ => rfl
    · rw [State.place_region]
    · rw [State.place_region] at hx
      cases hx
      rfl
  · exact (room.feeds g).of_region (State.region_setRegion_ne _ _ same) (fun p => .rfl) fun p _ => rfl

/-! ### Publication (R119) -/

/-- R119: a publication leaves the subscriptions, and the cursors but the empty ones of the feed. -/
theorem State.Publishes.feeds {r : Record} (h : s.Publishes u r) (p : Port) :
    (u.feed p).subscription = (s.feed p).subscription ∧
    (u.feed p).cursor = if (s.feed p).subscription = some r.id.feed then some ((s.feed p).cursor.getD r.id)
      else (s.feed p).cursor := by
  by_cases hp : (s.feed p).subscription = some r.id.feed
  · obtain ⟨idle, waiting⟩ := h.holders p hp
    rw [if_pos hp]
    cases hw : (s.feed p).wait with
    | none => rw [(idle hw).1]; cases (s.feed p).cursor <;> exact ⟨rfl, rfl⟩
    | some k => rw [(waiting k hw).1]; cases (s.feed p).cursor <;> exact ⟨rfl, rfl⟩
  · rw [if_neg hp, (h.others p hp).1]
    exact ⟨rfl, rfl⟩

/-- R119: the regions after a publication: nothing is FILLING in that of the record, whose ring is as it was or has the
record as its newest, held by the subscribers; the other region is as it was. -/
theorem State.Publishes.regions {r : Record} (h : s.Publishes u r) :
    (∀ g, g ≠ r.id.feed → u.region g = s.region g) ∧ (u.region r.id.feed).filling = none ∧
    (((∀ p, (s.feed p).subscription ≠ some r.id.feed) ∧ (u.region r.id.feed).ring = (s.region r.id.feed).ring) ∨
      (u.region r.id.feed).ring = (s.region r.id.feed).ring ++ [{ r with
        state := .held, holders := PerPort.of fun p => decide ((s.feed p).subscription = some r.id.feed) }]) := by
  by_cases kept : ∃ p, (s.feed p).subscription = some r.id.feed
  · have store := fun g => congrArg (fun st => Store.region st g) (h.kept kept)
    refine ⟨fun g hg => (store g).trans (State.region_setRegion_ne s _ hg), ?_, .inr ?_⟩
    · exact congrArg Region.filling ((store _).trans (State.region_setRegion_self s ..))
    · exact congrArg Region.ring ((store _).trans (State.region_setRegion_self s ..))
  · have none := not_exists.1 kept
    rw [h.dropped none, State.region_setRegion_self]
    exact ⟨fun g hg => State.region_setRegion_ne s _ hg, rfl, .inl ⟨none, rfl⟩⟩

/-- R118, R119: a publication of an identity new to its ring: the newest record of each subscriber's run. -/
theorem State.PortsHold.publishes (h : s.PortsHold) {r : Record} (published : s.Publishes u r)
    (fresh : ∀ x ∈ (s.region r.id.feed).ring, x.id ≠ r.id) : u.PortsHold := by
  have feeds := published.feeds
  obtain ⟨apart, filling, ring⟩ := published.regions
  refine ⟨fun g => ?_, fun p hp => ?_⟩
  · by_cases same : g = r.id.feed
    · subst same
      obtain ⟨ofFeed, -, distinct, elsewhere, run⟩ := h.feeds r.id.feed
      obtain ⟨none, ring⟩ | ring := ring
      · refine (h.feeds _).of_ring ring (by simp [filling]) (fun p => by rw [(feeds p).1]) fun p hp => absurd hp (none p)
      · refine ⟨?_, by simp [filling], ?_, fun p hp => ?_, fun p hp => ?_⟩
        · simp only [ring, List.mem_append, List.mem_singleton]
          rintro x (old | rfl)
          · exact ofFeed x old
          · rfl
        · simp only [ring, List.map_append, List.map_cons, List.map_nil, List.nodup_append, List.mem_map,
            List.mem_singleton]
          refine ⟨distinct, List.nodup_singleton _, ?_⟩
          rintro _ ⟨x, hx, rfl⟩ _ rfl
          exact fresh x hx
        · rw [(feeds p).1] at hp
          simp only [ring, List.mem_append, List.mem_singleton]
          rintro x (old | rfl)
          · exact elsewhere p hp x old
          · simp [hp]
        · rw [(feeds p).1] at hp
          rw [ring, (feeds p).2, if_pos hp]
          exact (run p hp).append (by simp [hp])
    · refine (h.feeds g).of_region (apart g same) (fun p => by rw [(feeds p).1]) fun p hp => ?_
      rw [(feeds p).2, if_neg fun hf => same (Option.some.inj (hp.symm.trans hf))]
  · rw [(feeds p).1] at hp
    rw [(feeds p).2, if_neg (by simp [hp]), h.unsubscribed p hp]

/-! ### Releases and subscriptions (R120, R125) -/

/-- R117, R118: port `p` leaves the records of a kind in the region of feed `f`, which is reclaimed, and every other port
keeps its run. -/
theorem State.FeedHeld.leaveIf (h : s.FeedHeld f) (sound : (s.region f).Sound) (c : Record → Prop) [DecidablePred c]
    {p : Port} (region : u.region f = { s.region f with
      ring := reclaim ((s.region f).ring.map fun r => if c r then r.leave p else r) })
    (others : ∀ q, q ≠ p → u.feed q = s.feed q)
    (mine : (s.feed p).subscription = some f → (u.feed p).subscription = some f →
      HoldsRun p ((s.region f).ring.map fun r => if c r then r.leave p else r) (u.feed p).cursor)
    (kept : (u.feed p).subscription = some f → (s.feed p).subscription = some f)
    (left : (s.feed p).subscription = some f → (u.feed p).subscription ≠ some f →
      ∀ x ∈ (s.region f).ring, x.holders.get p = true → c x) : u.FeedHeld f := by
  obtain ⟨ofFeed, filling, distinct, elsewhere, run⟩ := h
  have spec := leaveIf_spec c p
  have settled : ∀ x ∈ (s.region f).ring.map fun r => if c r then r.leave p else r, x.Settled := fun x hx => by
    obtain ⟨y, hy, rfl⟩ := List.mem_map.1 hx
    split
    · exact Record.Settled.leave (sound.states y hy) p
    · exact sound.states y hy
  have from_ring : ∀ x ∈ (u.region f).ring, ∃ y ∈ (s.region f).ring, x = if c y then y.leave p else y := fun x hx => by
    rw [region] at hx
    obtain ⟨y, hy, rfl⟩ := List.mem_map.1 ((reclaim_suffix _).subset hx)
    exact ⟨y, hy, rfl⟩
  refine ⟨fun x hx => ?_, by rw [region]; exact filling, ?_, fun q hq x hx => ?_, fun q hq => ?_⟩
  · obtain ⟨y, hy, rfl⟩ := from_ring x hx
    rw [(spec y).1]
    exact ofFeed y hy
  · rw [region]
    refine List.Nodup.sublist ((reclaim_suffix _).sublist.map _) ?_
    rwa [map_id_leaveIf]
  · obtain ⟨y, hy, rfl⟩ := from_ring x hx
    by_cases same : q = p
    · subst same
      by_cases hs : (s.feed q).subscription = some f
      · split
        · exact (y.leave_spec q).1
        · next hc => simpa using mt (left hs hq y hy) hc
      · split
        · exact (y.leave_spec q).1
        · exact elsewhere q hs y hy
    · rw [(spec y).2.2.2 q same]
      exact elsewhere q (by rwa [← others q same]) y hy
  · rw [region]
    by_cases same : q = p
    · subst same
      exact (mine (kept hq) hq).reclaim settled
    · rw [others q same] at hq ⊢
      exact ((run q hq).map fun x => ⟨(spec x).1, (spec x).2.2.2 q same⟩).reclaim settled

/-- R118, R125: a release of the cursor record. -/
theorem State.PortsHold.releaseCursor (h : s.PortsHold) (sound : s.RegionsSound) {p : Port} {id : RecordId}
    (sub : (s.feed p).subscription = some id.feed) (cursor : (s.feed p).cursor = some id) :
    (s.releaseCursor p id).PortsHold := by
  have others : ∀ q, q ≠ p → (s.releaseCursor p id).feed q = s.feed q := fun q hq => State.feed_setFeed_ne _ _ hq
  have mine : (s.releaseCursor p id).feed p = { s.feed p with
      cursor := recordAfter id (s.region id.feed).ring, lastTaken := some id } := State.feed_setFeed_self ..
  have same : ((s.releaseCursor p id).feed p).subscription = some id.feed := by rw [mine]; exact sub
  refine ⟨fun g => ?_, fun q hq => ?_⟩
  · by_cases hg : g = id.feed
    · subst hg
      refine (h.feeds id.feed).leaveIf (sound id.feed) (fun r => r.id = id) ?_ others (fun _ _ => ?_) (fun _ => sub)
        fun _ no => absurd same no
      · rw [State.releaseCursor, State.setFeed_region, State.region_setRegion_self]
      · rw [mine]
        have run := (h.feeds id.feed).run p sub
        rw [cursor] at run
        exact run.release (h.feeds id.feed).distinct
    · refine (h.feeds g).of_region (State.region_setRegion_ne _ _ hg) (fun q => ?_) fun q hq => ?_
      · by_cases hqp : q = p
        · subst hqp
          rw [same, sub]
        · rw [others q hqp]
      · rw [others q]
        rintro rfl
        exact hg (Option.some.inj (hq.symm.trans sub))
  · by_cases hqp : q = p
    · subst hqp
      rw [same] at hq
      cases hq
    · rw [others q hqp] at hq ⊢
      exact h.unsubscribed q hq

/-- R118, R120: UNSUBSCRIBE. -/
theorem State.PortsHold.unsubscribe (h : s.PortsHold) (sound : s.RegionsSound) (p : Port)
    (store : u.store = ⟨s.store.archive.dropPort p, s.store.stream.dropPort p⟩)
    (feeds : u.feeds = s.feeds.set p (s.feed p).unsubscribed) : u.PortsHold := by
  have feed : ∀ q, u.feed q = if q = p then (s.feed p).unsubscribed else s.feed q := fun q => by
    rw [← State.feeds_get, feeds]
    exact PerPort.get_set ..
  have mine : (u.feed p).subscription = none := by rw [feed, if_pos rfl]; rfl
  refine ⟨fun g => ?_, fun q hq => ?_⟩
  · refine (h.feeds g).leaveIf (sound g) (fun r => r.holders.get p = true) ?_ (fun q hq => by rw [feed, if_neg hq])
      (fun _ no => ?_) (fun no => ?_) fun _ _ _ _ held => held
    · rw [← State.store_region, store]
      cases g <;> rfl
    · rw [mine] at no
      cases no
    · rw [mine] at no
      cases no
  · by_cases hqp : q = p
    · rw [feed, if_pos hqp]
      rfl
    · rw [feed, if_neg hqp] at hq ⊢
      exact h.unsubscribed q hq

/-- R118, R120: SUBSCRIBE of a port without a subscription: it holds nothing of its feed. -/
theorem State.PortsHold.subscribe (h : s.PortsHold) {p : Port} (none : (s.feed p).subscription = none) (f : Feed)
    (last : Option RecordId) : (s.setFeed p ((s.feed p).subscribed f last)).PortsHold := by
  refine ⟨fun g => ⟨(h.feeds g).ofFeed, (h.feeds g).filling, (h.feeds g).distinct, fun q hq => ?_, fun q hq => ?_⟩,
    fun q hq => ?_⟩
  all_goals rw [State.feed_setFeed] at hq
  · by_cases hqp : q = p
    · subst hqp
      exact (h.feeds g).elsewhere q (by simp [none])
    · rw [if_neg hqp] at hq
      exact (h.feeds g).elsewhere q hq
  · rw [State.feed_setFeed]
    by_cases hqp : q = p
    · subst hqp
      rw [if_pos rfl]
      exact .of_unheld ((h.feeds g).elsewhere q (by simp [none]))
    · rw [if_neg hqp] at hq ⊢
      exact (h.feeds g).run q hq
  · rw [State.feed_setFeed]
    by_cases hqp : q = p
    · rw [if_pos hqp] at hq
      cases hq
    · rw [if_neg hqp] at hq ⊢
      exact h.unsubscribed q hq

/-! ### Empty regions (R112, R159) -/

/-- R118: with both regions empty the ports hold nothing and have no cursor. -/
theorem State.PortsHold.of_empty (empty : ∀ f, (u.region f).ring = [] ∧ (u.region f).filling = none)
    (cursors : ∀ p, (u.feed p).cursor = none) : u.PortsHold := by
  refine ⟨fun f => ?_, fun p _ => cursors p⟩
  obtain ⟨ring, filling⟩ := empty f
  refine ⟨by simp [ring], by simp [filling], by simp [ring], by simp [ring], fun p _ => ?_⟩
  rw [ring, cursors p]
  exact .of_unheld (by simp)

/-- R118: a port that holds no record has no cursor. -/
theorem State.PortsHold.cursor_eq_none (h : s.PortsHold) {p : Port} (held : s.held p = []) : (s.feed p).cursor = none := by
  have unheld : ∀ f, ∀ x ∈ (s.region f).ring, x.holders.get p = false := fun f x hx => by
    have all := State.held_eq s p ▸ held
    rw [List.filter_eq_nil_iff] at all
    refine Bool.eq_false_iff.2 (all x (List.mem_append.2 ?_))
    cases f with
    | archive => exact .inl hx
    | stream => exact .inr hx
  cases hs : (s.feed p).subscription with
  | none => exact h.unsubscribed p hs
  | some f => exact ((h.feeds f).run p hs).cursor_eq_none (unheld f)

/-- R112: the two regions formed anew. -/
theorem State.reformRegions_empty (s : State) (ra rs : Nat) (f : Feed) :
    ((s.reformRegions ra rs).region f).ring = [] ∧ ((s.reformRegions ra rs).region f).filling = none := by
  rw [State.reformRegions_eq]
  cases f <;> exact ⟨rfl, rfl⟩

/-- R112, R118: a port loses all it held, so that none has a cursor. -/
theorem State.PortsHold.reformRegions (h : s.PortsHold) (ra rs : Nat) : (s.reformRegions ra rs).PortsHold := by
  refine .of_empty (s.reformRegions_empty ra rs) fun p => ?_
  rw [State.reformRegions_feed]
  by_cases held : s.held p = []
  · rw [held, FeedState.loseAll_nil]
    exact h.cursor_eq_none held
  · rw [FeedState.loseAll_eq _ held]

end

end Sys2Proof.Machine
end

section
/-! The store through the jobs of the coding engine and the end of a take (05 §5.2; R36 to R39, R74, R78, R80, R96): the
identities still to be written stay new to the rings, and the jobs keep the store of a safe run. -/

namespace Sys2Proof.Machine

/-! ### A safe run of the store -/

/-- R96, R113 to R119: the regions, what the ports hold of them, and the engine's job agree. -/
structure State.StoreSafe (s : State) : Prop where
  regions : s.RegionsSound
  ports : s.PortsHold
  jobs : s.JobsAgree

/-- `u` comes from `s` with the store, the subscriptions, the cursors and the engine's job as they were; a take that is
CLOSING and gathers nothing stays so. -/
structure State.LeavesStore (s u : State) : Prop where
  store : u.store = s.store
  feeds : ∀ p, (u.feed p).subscription = (s.feed p).subscription ∧ (u.feed p).cursor = (s.feed p).cursor
  engine : u.engine.state = s.engine.state ∧ u.engine.endJob = s.engine.endJob
  take : s.take.state = .closing → s.take.gathering = false → u.take.state = .closing ∧ u.take.gathering = false

section
variable {s u v : State}

theorem State.LeavesStore.trans (h : s.LeavesStore u) (h' : u.LeavesStore v) : s.LeavesStore v where
  store := h'.store.trans h.store
  feeds p := ⟨(h'.feeds p).1.trans (h.feeds p).1, (h'.feeds p).2.trans (h.feeds p).2⟩
  engine := ⟨h'.engine.1.trans h.engine.1, h'.engine.2.trans h.engine.2⟩
  take closing quiet := by
    obtain ⟨closing', quiet'⟩ := h.take closing quiet
    exact h'.take closing' quiet'

/-- A step that leaves the store, the feed states, the engine's job and the take. -/
theorem State.LeavesStore.of_same (h : u.store = s.store ∧ u.feeds = s.feeds ∧ u.engine.state = s.engine.state ∧
    u.engine.endJob = s.engine.endJob ∧ u.take = s.take) : s.LeavesStore u := by
  obtain ⟨store, feeds, state, endJob, take⟩ := h
  refine ⟨store, fun p => ?_, ⟨state, endJob⟩, fun closing quiet => by rw [take]; exact ⟨closing, quiet⟩⟩
  rw [← State.feeds_get, feeds]
  exact ⟨rfl, rfl⟩

theorem State.LeavesStore.refl (s : State) : s.LeavesStore s := .of_same ⟨rfl, rfl, rfl, rfl, rfl⟩

theorem State.StoreSafe.leaves (h : s.StoreSafe) (h' : s.LeavesStore u) : u.StoreSafe where
  regions := h.regions.of_store h'.store
  ports := h.ports.of_same h'.store h'.feeds
  jobs := by
    obtain ⟨streamJob, archiveJob, ending⟩ := h.jobs
    obtain ⟨state, endJob⟩ := h'.engine
    refine ⟨?_, ?_, fun hs => ?_⟩
    · rw [h'.store, state, endJob]
      exact streamJob
    · rw [h'.store, state, endJob]
      exact archiveJob
    · obtain ⟨closing, quiet⟩ := ending (state ▸ hs)
      exact h'.take closing quiet

/-! ### Nothing FILLING (R96) -/

/-- R96: no record is being written. -/
def State.NothingFilling (s : State) : Prop := ∀ f, (s.region f).filling = none

theorem State.JobsAgree.of_nothing (h : s.NothingFilling)
    (ending : s.engine.state = .ending → s.take.state = .closing ∧ s.take.gathering = false) : s.JobsAgree where
  streamJob some := by simp [show s.store.stream.filling = none from h .stream] at some
  archiveJob some := by simp [show s.store.archive.filling = none from h .archive] at some
  ending := ending

/-- R96: the engine writes nothing in IDLE. -/
theorem State.JobsAgree.nothing_of_idle (h : s.JobsAgree) (idle : s.engine.state = .idle) : s.NothingFilling := by
  obtain ⟨streamJob, archiveJob, -⟩ := h
  simp only [idle, reduceCtorEq, false_and, or_self, imp_false, Option.not_isSome_iff_eq_none] at streamJob archiveJob
  intro f
  cases f
  · exact archiveJob
  · exact streamJob

/-- R96: the records of the two feeds are written one after the other. -/
theorem State.JobsAgree.one_filling (h : s.JobsAgree) (stream : s.store.stream.filling.isSome = true) :
    s.store.archive.filling = none := by
  by_contra archive
  rw [← ne_eq, ← Option.isSome_iff_ne_none] at archive
  rcases h.streamJob stream with hs | ⟨hs, a, ha⟩ <;> rcases h.archiveJob archive with hs' | ⟨hs', b, hb⟩
  all_goals simp_all

/-! ### What the engine has still to write (R77, R78, R80, R113) -/

/-- R77, R78, R80: the identities of the records that the engine's present job has not yet published. -/
def State.Writes (s : State) (x : RecordId) : Prop :=
  (∃ i, s.engine.block = some i ∧ (s.engine.state = .stream ∨ (s.engine.state = .archive ∧ x.feed = .archive)) ∧
    x = ⟨x.feed, (s.framer.buffer i).take, (s.framer.buffer i).sequence⟩) ∨
  ∃ j, s.engine.state = .ending ∧ s.engine.endJob = some j ∧ (j.streamDone = true → x.feed = .archive) ∧
    x = ⟨x.feed, s.take.number, s.take.sequence⟩

/-- R113: the record being written and those still to come have identities new to the rings. -/
structure State.WritesFresh (s : State) : Prop where
  written : ∀ f, ∀ x ∈ (s.region f).ring, ∀ y, (s.region f).filling = some y → x.id ≠ y.id
  coming : ∀ id, s.Writes id → ∀ x ∈ (s.region id.feed).ring, x.id ≠ id

theorem State.NewIdsFresh.writesFresh (h : s.NewIdsFresh) (jobs : s.JobsAgree) : s.WritesFresh := by
  obtain ⟨written, ofBlock, ofTake⟩ := h
  refine ⟨written, ?_⟩
  rintro id (⟨i, block, job, hid⟩ | ⟨j, state, endJob, done, hid⟩) x hx
  · rw [hid]
    exact ofBlock id.feed x hx i block job
  · rw [hid]
    refine ofTake id.feed x hx (.inr (jobs.ending state).1) ?_
    rintro ⟨stream, -, a, ha⟩
    rw [endJob] at ha
    cases ha
    rw [done rfl] at stream
    cases stream

/-- R77, R78, R80: the engine codes a record of its present job, of the feed whose turn it is. -/
theorem codedRecord?_cases {c : CodedRecord} (h : s.codedRecord? = some c) :
    s.Writes c.id ∧ ((c.id.feed = .stream ∧ s.engine.state = .stream) ∨ (c.id.feed = .archive ∧ s.engine.state = .archive) ∨
      ∃ j, s.engine.state = .ending ∧ s.engine.endJob = some j ∧ c.id.feed = j.feed) := by
  unfold State.codedRecord? at h
  split at h
  · next i d state block _ =>
    cases h
    exact ⟨.inl ⟨i, block, .inl state, rfl⟩, .inl ⟨rfl, state⟩⟩
  · next i state block =>
    cases h
    exact ⟨.inl ⟨i, block, .inr ⟨state, rfl⟩, rfl⟩, .inr (.inl ⟨rfl, state⟩)⟩
  · next j state job =>
    cases h
    exact ⟨.inr ⟨j, state, job, fun done => if_pos done, rfl⟩, .inr (.inr ⟨j, state, job, rfl⟩)⟩
  · cases h

/-! ### RECORD_PLACEMENT (R96, R115) -/

/-- R96, R115: a placement waits, or the coded record becomes FILLING. -/
theorem State.placeNext_cases (s : State) : s.placeNext = s ∨
    ∃ c, s.NothingFilling ∧ s.codedRecord? = some c ∧ s.placeNext = s.place c.kind c.id c.bytes := by
  by_cases waits : s.store.archive.filling ≠ none ∨ s.store.stream.filling ≠ none ∨ s.codedRecord? = none
  · exact .inl (State.placeNext_nothing waits)
  · simp only [not_or, not_not] at waits
    obtain ⟨archive, stream, coded⟩ := waits
    obtain ⟨c, hc⟩ := Option.ne_none_iff_exists'.1 coded
    exact .inr ⟨c, Feed.rec archive stream, hc, State.placeNext_coded archive stream hc⟩

theorem State.RegionsSound.placeNext (h : s.RegionsSound) : s.placeNext.RegionsSound := by
  rcases s.placeNext_cases with e | ⟨c, -, -, e⟩
  · rwa [e]
  · rw [e]
    exact h.place c.kind c.id c.bytes

/-- R96: the record placed is of the feed of the engine's job. -/
theorem State.StoreSafe.placeNext (h : s.StoreSafe) : s.placeNext.StoreSafe := by
  rcases s.placeNext_cases with e | ⟨c, nothing, coded, e⟩
  · rwa [e]
  · rw [e]
    refine ⟨h.regions.place c.kind c.id c.bytes, h.ports.place h.regions c.kind c.id c.bytes, ?_⟩
    have other : ∀ g, g ≠ c.id.feed → ((s.place c.kind c.id c.bytes).region g).filling = none := fun g hg => by
      rw [State.place_region_ne _ _ _ hg]
      exact nothing g
    obtain ⟨-, -, take, -, -, engine, -⟩ := s.place_frame c.kind c.id c.bytes
    obtain ⟨-, job⟩ := codedRecord?_cases coded
    refine ⟨fun some => ?_, fun some => ?_, by rw [engine, take]; exact h.jobs.ending⟩
    · have feed : c.id.feed = .stream := by
        by_contra hne
        exact absurd some (by simp [show (s.place c.kind c.id c.bytes).store.stream.filling = none from
          other .stream (Ne.symm hne)])
      rw [engine]
      rcases job with ⟨-, state⟩ | ⟨archive, -⟩ | ⟨⟨a, done⟩, state, endJob, hj⟩
      · exact .inl state
      · rw [feed] at archive
        cases archive
      · cases done
        · exact .inr ⟨state, a, endJob⟩
        · rw [feed] at hj
          cases hj
    · have feed : c.id.feed = .archive := by
        by_contra hne
        exact absurd some (by simp [show (s.place c.kind c.id c.bytes).store.archive.filling = none from
          other .archive (Ne.symm hne)])
      rw [engine]
      rcases job with ⟨stream, -⟩ | ⟨-, state⟩ | ⟨⟨a, done⟩, state, endJob, hj⟩
      · rw [feed] at stream
        cases stream
      · exact .inl state
      · cases done
        · rw [feed] at hj
          cases hj
        · exact .inr ⟨state, a, endJob⟩

/-- R115: the records of a ring after a placement were in it before. -/
theorem State.place_ring_subset (s : State) (kind : RecordKind) (id : RecordId) (bytes : List Byte) (f : Feed) :
    ((s.place kind id bytes).region f).ring ⊆ (s.region f).ring := by
  by_cases same : f = id.feed
  · subst same
    rw [State.place_region]
    exact (State.makeRoom_region id.feed _ _ s le_rfl).2.1.subset
  · rw [State.place_region_ne _ _ _ same]
    exact List.Subset.refl _

/-- R113: a record placed is one of those still to come. -/
theorem State.WritesFresh.placeNext (h : s.WritesFresh) : s.placeNext.WritesFresh := by
  rcases s.placeNext_cases with e | ⟨c, nothing, coded, e⟩
  · rwa [e]
  · rw [e]
    have before := s.place_ring_subset c.kind c.id c.bytes
    obtain ⟨-, -, take, framer, -, engine, -⟩ := s.place_frame c.kind c.id c.bytes
    refine ⟨fun f x hx y hy => ?_, fun id hid x hx => h.coming id ?_ x (before id.feed hx)⟩
    · by_cases same : f = c.id.feed
      · subst same
        obtain ⟨r, filling, hr⟩ := s.place_filling c.kind c.id c.bytes
        rw [filling] at hy
        cases hy
        rw [hr]
        exact h.coming c.id (codedRecord?_cases coded).1 x (before _ hx)
      · rw [State.place_region_ne _ _ _ same, nothing f] at hy
        cases hy
    · simpa only [State.Writes, take, framer, engine] using hid

/-! ### RECORD_PUBLICATION (R119, R78, R80) -/

theorem State.RegionsSound.publishNext (h : s.RegionsSound) : s.publishNext.RegionsSound := by
  unfold State.publishNext
  split
  · exact (h.publish .stream).of_store (by simp)
  · split
    · exact (h.publish .archive).of_store (by simp)
    · exact h

/-- R38, R80: the END records requested: both are still to come. -/
theorem State.requestEnd_cases (s : State) : s.requestEnd = s ∨
    ((s.take.state = .closing ∧ s.take.gathering = false) ∧ ∃ a, s.requestEnd = s.ending ⟨a, false⟩) := by
  unfold State.requestEnd
  split
  · next due => exact .inr ⟨⟨due.1, due.2.1⟩, _, rfl⟩
  · exact .inl rfl

/-- R78: once the archive record of the block is published the engine codes no block, and END records are requested. -/
theorem State.jobPublished_requestsEnd (h : s.engine.state = .archive) (f : Feed) :
    ∃ u : State, u.engine.state = .idle ∧ s.jobPublished f = u.requestEnd := by
  have completes : s.jobPublished f = s.completeArchive := by simp only [State.jobPublished, h]
  refine ⟨_, ?_, completes⟩
  rfl

/-- R78, R80: END records are under way after a publication only in a take that is CLOSING and gathers nothing. -/
theorem State.jobPublished_ending (h : s.engine.state = .ending → s.take.state = .closing ∧ s.take.gathering = false)
    (f : Feed) (hu : (s.jobPublished f).engine.state = .ending) :
    (s.jobPublished f).take.state = .closing ∧ (s.jobPublished f).take.gathering = false := by
  cases state : s.engine.state with
  | idle =>
    have same : s.jobPublished f = s := by simp only [State.jobPublished, state]
    rw [same, state] at hu
    cases hu
  | stream =>
    rw [State.jobPublished_stream state] at hu
    cases hu
  | archive =>
    obtain ⟨u, idle, e⟩ := State.jobPublished_requestsEnd state f
    rw [e] at hu ⊢
    rcases u.requestEnd_cases with same | ⟨closing, a, requested⟩
    · rw [same, idle] at hu
      cases hu
    · rw [requested]
      exact closing
  | ending =>
    cases f with
    | stream =>
      simp only [State.jobPublished, state]
      exact h state
    | archive =>
      rw [State.jobPublished_endArchive state] at hu
      simp [State.endTake] at hu

/-- R119: the record being written of a feed, published. -/
theorem State.PortsHold.publish (h : s.PortsHold) {f : Feed} (some : (s.region f).filling.isSome = true) :
    ∃ r, (s.region f).filling = .some r ∧ r.id.feed = f ∧ s.Publishes (s.publish f) r := by
  obtain ⟨r, filling⟩ := Option.isSome_iff_exists.1 some
  have feed := (h.feeds f).filling r filling
  exact ⟨r, filling, feed, State.publish_publishes_of feed filling⟩

/-- R96, R119: the record being written of feed `f` published, with nothing of the other feed FILLING, and the engine's job
gone on. -/
theorem State.StoreSafe.publish (h : s.StoreSafe) {f : Feed} (some : (s.region f).filling.isSome = true)
    (other : ∀ g, g ≠ f → (s.region g).filling = none) :
    ((s.publish f).jobPublished f).NothingFilling ∧
    ((∀ x ∈ (s.region f).ring, ∀ y, (s.region f).filling = .some y → x.id ≠ y.id) →
      ((s.publish f).jobPublished f).StoreSafe) := by
  obtain ⟨r, filling, feed, published⟩ := h.ports.publish some
  obtain ⟨-, -, -, -, store, feeds, -⟩ := (s.publish f).jobPublished_frame f
  obtain ⟨apart, none, -⟩ := published.regions
  have nothing : ((s.publish f).jobPublished f).NothingFilling := fun g => by
    rw [← State.store_region, store]
    by_cases same : g = f
    · subst same
      rw [feed] at none
      exact none
    · exact (congrArg Region.filling (apart g (by rwa [feed]))).trans (other g same)
  refine ⟨nothing, fun fresh => ⟨(h.regions.publish f).of_store store, ?_, .of_nothing nothing ?_⟩⟩
  · have held := h.ports.publishes published (by rw [feed]; exact fun x hx => fresh x hx r filling)
    exact held.of_same store fun p => by rw [← State.feeds_get, feeds]; exact ⟨rfl, rfl⟩
  · obtain ⟨-, -, take, -, -, engine, -⟩ := s.publish_frame f
    exact State.jobPublished_ending (by rw [take, engine]; exact h.jobs.ending) f

/-- R96: all that RECORD_PUBLICATION can do: nothing, or the publication of the one record being written. -/
theorem State.StoreSafe.publishNext_cases (h : s.StoreSafe) :
    (s.NothingFilling ∧ s.publishNext = s) ∨
    ∃ f, (s.region f).filling.isSome = true ∧ (∀ g, g ≠ f → (s.region g).filling = none) ∧
      s.publishNext = (s.publish f).jobPublished f := by
  unfold State.publishNext
  split
  · next some => exact .inr ⟨.stream, some, Feed.rec (fun _ => h.jobs.one_filling some) (fun hne => absurd rfl hne), rfl⟩
  · next stream =>
    rw [Option.not_isSome_iff_eq_none] at stream
    split
    · next some => exact .inr ⟨.archive, some, Feed.rec (fun hne => absurd rfl hne) (fun _ => stream), rfl⟩
    · next archive =>
      rw [Option.not_isSome_iff_eq_none] at archive
      exact .inl ⟨Feed.rec archive stream, rfl⟩

/-- R96: nothing is FILLING after RECORD_PUBLICATION. -/
theorem State.StoreSafe.publishNext_nothing (h : s.StoreSafe) : s.publishNext.NothingFilling := by
  rcases h.publishNext_cases with ⟨nothing, e⟩ | ⟨f, some, other, e⟩
  · rwa [e]
  · rw [e]
    exact (h.publish some other).1

/-- R119: the publication of an identity new to its ring. -/
theorem State.StoreSafe.publishNext (h : s.StoreSafe)
    (fresh : ∀ f, ∀ x ∈ (s.region f).ring, ∀ y, (s.region f).filling = some y → x.id ≠ y.id) :
    s.publishNext.StoreSafe := by
  rcases h.publishNext_cases with ⟨-, e⟩ | ⟨f, some, other, e⟩
  · rwa [e]
  · rw [e]
    exact (h.publish some other).2 (fresh f)

/-- R77, R80, R113: after the publication of a stream record the archive record of the job is still to come, and its
identity is as new as before. -/
theorem State.WritesFresh.publishStream (h : s.WritesFresh) (safe : s.StoreSafe)
    (some : s.store.stream.filling.isSome = true) : s.publishNext.WritesFresh := by
  have nothing := safe.publishNext_nothing
  refine ⟨fun f x _ y hy => absurd hy (by simp [nothing f]), fun id hid => ?_⟩
  have next : s.publishNext = (s.publish .stream).jobPublished .stream := if_pos some
  obtain ⟨r, -, feed, published⟩ := safe.ports.publish (f := .stream) some
  obtain ⟨-, -, take, framer, -, engine, -⟩ := s.publish_frame .stream
  have ring : s.publishNext.region .archive = s.region .archive := by
    obtain ⟨-, -, -, -, store, -⟩ := (s.publish .stream).jobPublished_frame .stream
    rw [next, ← State.store_region, store]
    exact published.regions.1 .archive (by rw [feed]; decide)
  have before : id.feed = .archive ∧ s.Writes id := by
    rcases safe.jobs.streamJob some with state | ⟨state, a, endJob⟩
    · rw [next, State.jobPublished_stream (by rwa [engine]), State.Writes] at hid
      simp only [framer, engine] at hid
      rcases hid with ⟨i, block, no | ⟨-, archive⟩, hid⟩ | ⟨j, no, -⟩
      · cases no
      · exact ⟨archive, .inl ⟨i, block, .inl state, hid⟩⟩
      · cases no
    · rw [next, State.jobPublished_endStream (j := ⟨a, false⟩) (by rwa [engine]) (by rwa [engine]), State.Writes] at hid
      simp only [engine, state, take, reduceCtorEq, false_and, or_self, and_false, exists_false, false_or, true_and,
        Option.some.injEq] at hid
      obtain ⟨j, rfl, archive, hid⟩ := hid
      exact ⟨archive rfl, .inr ⟨⟨a, false⟩, state, endJob, fun no => (nomatch no), hid⟩⟩
  rw [before.1, ring, ← before.1]
  exact h.coming id before.2

/-! ### The jobs finished at a boundary (R36) -/

theorem State.RegionsSound.finishJob (h : s.RegionsSound) : s.finishJob.RegionsSound := by
  unfold State.finishJob
  split
  · exact h.placeNext.publishNext
  · exact h.placeNext.publishNext
  · exact h
  · exact h

/-- R36: a job in progress is brought to its end by a placement and a publication. -/
theorem State.finishJob_cases (s : State) :
    ((s.engine.state = .idle ∨ s.engine.state = .ending) ∧ s.finishJob = s) ∨
    ((s.engine.state = .stream ∨ s.engine.state = .archive) ∧ s.finishJob = s.placeNext.publishNext) := by
  unfold State.finishJob
  split
  · next state => exact .inr ⟨.inl state, rfl⟩
  · next state => exact .inr ⟨.inr state, rfl⟩
  · next state => exact .inl ⟨.inl state, rfl⟩
  · next state => exact .inl ⟨.inr state, rfl⟩

theorem State.StoreSafe.finishJob (h : s.StoreSafe) (fresh : s.WritesFresh) : s.finishJob.StoreSafe := by
  rcases s.finishJob_cases with ⟨-, e⟩ | ⟨-, e⟩
  · rwa [e]
  · rw [e]
    exact h.placeNext.publishNext fresh.placeNext.written

/-- R96: once the jobs are finished nothing is FILLING, but for END records under way. -/
theorem State.StoreSafe.finishJob_nothing (h : s.StoreSafe) (state : s.finishJob.engine.state ≠ .ending) :
    s.finishJob.NothingFilling := by
  rcases s.finishJob_cases with ⟨idle | ending, e⟩ | ⟨-, e⟩
  · rw [e]
    exact h.jobs.nothing_of_idle idle
  · rw [e] at state
    exact absurd ending state
  · rw [e]
    exact h.placeNext.publishNext_nothing

/-- R78: the archive record of the block once published, the engine codes no block. -/
theorem State.jobPublished_archive_state (h : s.engine.state = .archive) (f : Feed) :
    (s.jobPublished f).engine.state = .idle ∨ (s.jobPublished f).engine.state = .ending := by
  obtain ⟨u, idle, e⟩ := State.jobPublished_requestsEnd h f
  rw [e]
  rcases u.requestEnd_cases with same | ⟨-, a, requested⟩
  · rw [same]
    exact .inl idle
  · rw [requested]
    exact .inr rfl

/-- R77, R78, R113: after one job is finished, what the next may write is new to the rings, or there is no next. -/
theorem State.WritesFresh.finishJob (h : s.WritesFresh) (safe : s.StoreSafe) :
    s.finishJob.WritesFresh ∨ s.finishJob.finishJob = s.finishJob := by
  have done : ∀ u : State, u.engine.state = .idle ∨ u.engine.state = .ending → u.finishJob = u := by
    rintro u (state | state) <;> simp only [State.finishJob, state]
  rcases s.finishJob_cases with ⟨-, e⟩ | ⟨job, e⟩
  · rw [e]
    exact .inl h
  · rw [e]
    rcases safe.placeNext.publishNext_cases with ⟨-, same⟩ | ⟨f, some, other, published⟩
    · rw [same]
      exact .inl h.placeNext
    · cases f with
      | stream => exact .inl (h.placeNext.publishStream safe.placeNext some)
      | archive =>
        right
        rw [published]
        refine done _ (State.jobPublished_archive_state ?_ .archive)
        rcases safe.placeNext.jobs.archiveJob some with archive | ⟨ending, -⟩
        · simpa using archive
        · simp only [State.placeNext_frame] at ending
          rw [ending] at job
          simp at job

theorem State.StoreSafe.finishJobs (h : s.StoreSafe) (fresh : s.WritesFresh) : s.finishJobs.StoreSafe := by
  have first := h.finishJob fresh
  rcases fresh.finishJob h with next | same
  · exact first.finishJob next
  · rw [State.finishJobs, same]
    exact first

/-! ### The end of a take (R38, R39) -/

theorem State.RegionsSound.endAtOnce (h : s.RegionsSound) : s.endAtOnce.RegionsSound := by
  have requested : s.requestEnd.RegionsSound := h.of_store (by simp)
  unfold State.endAtOnce
  dsimp only
  split
  · split
    · exact requested.placeNext.publishNext.placeNext.publishNext
    · exact requested
  · exact h

theorem State.RegionsSound.abortTake (h : s.RegionsSound) : s.abortTake.RegionsSound := by
  unfold State.abortTake
  split
  · exact h.of_store (by simp)
  · exact State.RegionsSound.endAtOnce (h.of_store (by simp))
  · exact State.RegionsSound.endAtOnce (h.of_store (by simp))
  · exact h
  · exact h

/-- R38, R113: END records that follow at once have identities of the take, which are new to the rings. -/
theorem State.StoreSafe.endAtOnce (h : s.StoreSafe)
    (fresh : s.engine.state = .idle →
      ∀ f, ∀ x ∈ (s.region f).ring, x.id ≠ ⟨f, s.take.number, s.take.sequence⟩) : s.endAtOnce.StoreSafe := by
  by_cases idle : s.engine.state = .idle
  · have nothing := h.jobs.nothing_of_idle idle
    rcases s.requestEnd_cases with same | ⟨closing, a, requested⟩
    · have ended : s.endAtOnce = s := by simp [State.endAtOnce, same, idle]
      rwa [ended]
    · have ended : s.endAtOnce = (s.ending ⟨a, false⟩).placeNext.publishNext.placeNext.publishNext := by
        rw [State.endAtOnce, if_pos idle, requested]
        rfl
      have safe : (s.ending ⟨a, false⟩).StoreSafe :=
        ⟨h.regions.of_store rfl, h.ports.of_same rfl fun _ => ⟨rfl, rfl⟩, .of_nothing nothing fun _ => closing⟩
      have new : (s.ending ⟨a, false⟩).WritesFresh := by
        refine ⟨fun f x _ y hy => absurd hy (by simp [show ((s.ending ⟨a, false⟩).region f).filling = none from nothing f]), ?_⟩
        rintro id (⟨-, -, no | ⟨no, -⟩, -⟩ | ⟨j, -, -, -, hid⟩) x hx
        · cases no
        · cases no
        · rw [hid]
          exact fresh idle id.feed x hx
      have second := safe.placeNext.publishNext new.placeNext.written
      have still : (s.ending ⟨a, false⟩).placeNext.publishNext.WritesFresh := by
        rcases safe.placeNext.publishNext_cases with ⟨-, same⟩ | ⟨f, some, other, -⟩
        · rw [same]
          exact new.placeNext
        · cases f with
          | stream => exact new.placeNext.publishStream safe.placeNext some
          | archive =>
            rcases safe.placeNext.jobs.archiveJob some with no | ⟨-, b, no⟩
            all_goals
              simp only [State.placeNext_frame] at no
              cases no
      rw [ended]
      exact second.placeNext.publishNext still.placeNext.written
  · have busy : s.endAtOnce = s := State.endAtOnce_busy idle
    rwa [busy]

theorem State.LeavesStore.aborting (s : State) : s.LeavesStore s.aborting := by
  obtain ⟨p, take⟩ := s.aborting_take
  obtain ⟨engine, store⟩ := s.aborting_leaves
  refine ⟨store, fun q => ?_, by rw [engine]; exact ⟨rfl, rfl⟩, fun _ _ => by rw [take]; exact ⟨rfl, rfl⟩⟩
  have feeds : s.aborting.feeds = s.feeds := by simp [State.aborting]
  rw [← State.feeds_get, feeds]
  exact ⟨rfl, rfl⟩

/-- R40: a change of take state in a take that has not begun to close. -/
theorem State.LeavesStore.toTake (s : State) {st : TakeState} (h : s.take.state ≠ .closing) : s.LeavesStore (s.toTake st) :=
  ⟨by simp, fun p => by rw [← State.feeds_get]; simp, by simp, fun closing => absurd closing h⟩

theorem State.StoreSafe.abortTake (h : s.StoreSafe) (new : s.NewIdsFresh) : s.abortTake.StoreSafe := by
  have ends : s.take.state = .rolling ∨ s.take.state = .closing → s.abortTake.StoreSafe := fun running => by
    obtain ⟨p, take⟩ := s.aborting_take
    obtain ⟨engine, store⟩ := s.aborting_leaves
    rw [State.abortTake_running running]
    refine (h.leaves (.aborting s)).endAtOnce fun idle f x hx => ?_
    rw [← State.store_region, store] at hx
    rw [engine] at idle
    rw [take]
    exact new.ofTake f x hx running (by simp [idle])
  cases state : s.take.state with
  | idle => simpa only [State.abortTake, state] using h
  | armed => simpa only [State.abortTake, state] using h
  | starting =>
    rw [State.abortTake_starting state]
    exact h.leaves (.toTake s (by simp [state]))
  | rolling => exact ends (.inl state)
  | closing => exact ends (.inr state)

end

end Sys2Proof.Machine
end

section
/-! The store through the block-boundary event, the sample-period event and every row of the table (R31 to R39, R74,
R111 to R125). -/

namespace Sys2Proof.Machine

section
variable {s u v : State}

/-! ### Steps that leave the store (R122, R123) -/

theorem State.LeavesStore.setPort (s : State) (p : Port) (q : PortState) : s.LeavesStore (s.setPort p q) :=
  .of_same ⟨rfl, rfl, rfl, rfl, rfl⟩

/-- A change of a feed state that leaves subscription and cursor. -/
theorem State.LeavesStore.setFeed (s : State) (p : Port) {x : FeedState}
    (h : x.subscription = (s.feed p).subscription ∧ x.cursor = (s.feed p).cursor) : s.LeavesStore (s.setFeed p x) := by
  refine ⟨rfl, fun q => ?_, ⟨rfl, rfl⟩, fun closing quiet => ⟨closing, quiet⟩⟩
  rw [State.feed_setFeed]
  split
  · next same => subst same; exact h
  · exact ⟨rfl, rfl⟩

theorem State.LeavesStore.answerNone (s : State) (p : Port) : s.LeavesStore (s.answerNone p) :=
  .trans (.setPort s p _) (.setFeed _ p ⟨rfl, rfl⟩)

theorem State.LeavesStore.countWait (s : State) (p : Port) : s.LeavesStore (s.countWait p) := by
  unfold State.countWait
  split
  · exact .refl s
  · split
    · exact .answerNone s p
    · exact .setFeed s p ⟨rfl, rfl⟩

theorem State.LeavesStore.countWaits (s : State) : s.LeavesStore s.countWaits :=
  .trans (.trans (.countWait s .p0) (.countWait _ .p1)) (.countWait _ .p2)

theorem State.LeavesStore.endWait (s : State) (p : Port) : s.LeavesStore (s.endWait p) := by
  unfold State.endWait
  split
  · exact .refl s
  · exact .answerNone s p

theorem State.LeavesStore.endWaits (s : State) : s.LeavesStore s.endWaits :=
  .trans (.trans (.endWait s .p0) (.endWait _ .p1)) (.endWait _ .p2)

theorem State.LeavesStore.dropResponse (s : State) (p : Port) : s.LeavesStore (s.dropResponse p) :=
  .trans (.setPort s p _) (.setFeed _ p ⟨rfl, rfl⟩)

theorem State.LeavesStore.send (s : State) (p : Port) (clocks : List Lanes) : s.LeavesStore (s.send p clocks) := by
  unfold State.send
  dsimp only
  split
  · exact .refl s
  · exact .trans (.setPort s p _) (.setFeed _ p ⟨rfl, rfl⟩)

theorem State.LeavesStore.codelessTransfer (s : State) (p : Port) (n : Nat) :
    s.LeavesStore (s.codelessTransfer p n) := by
  rcases s.codelessTransfer_cases p n with ⟨-, e⟩ | ⟨-, e⟩
  · rw [e]
    exact .refl s
  · rw [e]
    exact .setPort s p _

/-- R143, R150: FRAME_START: an unread response is discarded, and its transfer ends with it. -/
theorem State.LeavesStore.frameStart (s : State) (p : Port) (clocks : List Lanes) (ended : Bool) :
    s.LeavesStore (s.frameStart p clocks ended) := by
  unfold State.frameStart
  dsimp only
  split
  · exact .codelessTransfer s p _
  · split
    · exact .refl s
    · cases (s.port p).phase with
      | idle => exact .setPort s p _
      | executing => exact .setPort s p _
      | waiting => exact .setPort s p _
      | receiving => exact .refl s
      | sending => exact .refl s
      | responseReady => exact .trans (.trans (.setPort s p _) (.dropResponse _ p)) (.setPort _ p _)

/-- R149: READ. -/
theorem State.LeavesStore.readTransfer (s : State) (p : Port) (clocks : List Lanes) :
    s.LeavesStore (s.readTransfer p clocks) := by
  unfold State.readTransfer
  dsimp only
  split
  · exact .codelessTransfer s p _
  · split
    · cases (s.port p).phase with
      | idle => exact .setPort s p _
      | executing => exact .setPort s p _
      | waiting => exact .setPort s p _
      | receiving => exact .refl s
      | sending => exact .refl s
      | responseReady => exact .trans (.setPort s p _) (.send _ p _)
    · exact .refl s

/-- R149, R153: RESPONSE_END. -/
theorem State.LeavesStore.endResponse (s : State) (p : Port) (clocks : List Lanes) :
    s.LeavesStore (s.endResponse p clocks) := by
  unfold State.endResponse
  dsimp only
  split
  · exact .trans (.trans (.send s p clocks) (.dropResponse _ p)) (.setPort _ p _)
  · exact .refl s

/-! ### The block-boundary event (R32 to R37, R74) -/

theorem State.RegionsSound.boundary (h : s.RegionsSound) (p : Nat) : (s.boundary p).RegionsSound :=
  State.RegionsSound.of_store h.finishJob.finishJob (by simp [State.boundary, State.finishJobs])

/-- R74: a boundary closes no block, or hands one over to the coding engine. -/
theorem State.closeBlock_cases (s : State) (p : Nat) : s.closeBlock p = s ∨
    (s.take.gathering = true ∧ (s.closeBlock p).engine.state = .stream) := by
  unfold State.closeBlock
  split
  · next gathering =>
    split
    · refine .inr ⟨gathering, ?_⟩
      rw [State.handOver, State.decideStream_eq]
    · exact .inl rfl
  · exact .inl rfl

/-- R74: a block is handed over to an engine that writes nothing. -/
theorem State.StoreSafe.closeBlock (h : s.StoreSafe) (nothing : s.engine.state ≠ .ending → s.NothingFilling) (p : Nat) :
    (s.closeBlock p).StoreSafe := by
  rcases s.closeBlock_cases p with e | ⟨gathering, state⟩
  · rwa [e]
  · have free : s.NothingFilling := nothing fun ending => by simp [(h.jobs.ending ending).2] at gathering
    obtain ⟨-, -, -, store, feeds, -⟩ := s.closeBlock_frame p
    refine ⟨h.regions.of_store store, h.ports.of_same store fun q => ?_, .of_nothing (fun f => ?_) ?_⟩
    · rw [← State.feeds_get, feeds]
      exact ⟨rfl, rfl⟩
    · rw [← State.store_region, store]
      exact free f
    · rw [state]
      exact fun no => nomatch no

theorem State.LeavesStore.startTake (s : State) (p : Nat) : s.LeavesStore (s.startTake p) := by
  unfold State.startTake
  split
  · next starts =>
    exact ⟨by simp, fun q => by rw [← State.feeds_get]; simp, by simp, fun closing => by simp [starts.1] at closing⟩
  · exact .refl s

theorem State.LeavesStore.openBlock (s : State) (p : Nat) : s.LeavesStore (s.openBlock p) := .of_same (by simp)

theorem State.LeavesStore.mixBoundary (s : State) : s.LeavesStore { s with mix := s.mix.boundary } :=
  .of_same ⟨rfl, rfl, rfl, rfl, rfl⟩

theorem State.StoreSafe.boundary (h : s.StoreSafe) (fresh : s.WritesFresh) (p : Nat) : (s.boundary p).StoreSafe := by
  have finished := h.finishJobs fresh
  have closed := finished.closeBlock (h.finishJob fresh).finishJob_nothing p
  exact closed.leaves (.trans (.startTake _ p) (.trans (.openBlock _ p) (.trans (.mixBoundary _) (.countWaits _))))

/-! ### Keeping the store of a safe run -/

/-- R113: the identities are as new where the store, the engine, the buffers and the take are the same. -/
theorem State.NewIdsFresh.of_same (h : s.NewIdsFresh) (h' : u.store = s.store ∧ u.engine = s.engine ∧
    u.framer = s.framer ∧ u.take = s.take) : u.NewIdsFresh := by
  obtain ⟨written, ofBlock, ofTake⟩ := h
  obtain ⟨store, engine, framer, take⟩ := h'
  have region : ∀ f, u.region f = s.region f := fun f => by
    rw [← State.store_region, store]
    rfl
  refine ⟨fun f => ?_, fun f => ?_, fun f => ?_⟩
  · rw [region]
    exact written f
  · rw [region, engine, framer]
    exact ofBlock f
  · rw [region, engine, take]
    exact ofTake f

/-- `u` comes from `s` by a step that keeps the regions of a safe run, and with them, while the identities to be published
are new, all of the store. -/
structure State.KeepsStore (s u : State) : Prop where
  regions : s.RegionsSound → u.RegionsSound
  safe : s.StoreSafe → s.NewIdsFresh → u.StoreSafe

theorem State.KeepsStore.of_leaves (h : s.LeavesStore u) : s.KeepsStore u :=
  ⟨fun sound => sound.of_store h.store, fun safe _ => safe.leaves h⟩

theorem State.KeepsStore.refl (s : State) : s.KeepsStore s := .of_leaves (.refl s)

/-- A step followed by one that leaves the store. -/
theorem State.KeepsStore.leaves (h : s.KeepsStore u) (h' : u.LeavesStore v) : s.KeepsStore v :=
  ⟨fun sound => (h.regions sound).of_store h'.store, fun safe new => (h.safe safe new).leaves h'⟩

/-- A step seen from before one that leaves the store, the engine, the buffers and the take. -/
theorem State.KeepsStore.after (h : u.KeepsStore v) (leaves : s.LeavesStore u)
    (same : u.store = s.store ∧ u.engine = s.engine ∧ u.framer = s.framer ∧ u.take = s.take) : s.KeepsStore v :=
  ⟨fun sound => h.regions (sound.of_store leaves.store), fun safe new => h.safe (safe.leaves leaves) (new.of_same same)⟩

/-- R159: a step that RESET holds back. -/
theorem State.KeepsStore.unlessHeld (h : s.KeepsStore u) (held : Bool) : s.KeepsStore (if held then s else u) := by
  split
  · exact .refl s
  · exact h

theorem State.KeepsStore.abortTake (s : State) : s.KeepsStore s.abortTake :=
  ⟨State.RegionsSound.abortTake, State.StoreSafe.abortTake⟩

/-- R115: RECORD_PLACEMENT. -/
theorem State.KeepsStore.placeNext (s : State) : s.KeepsStore s.placeNext :=
  ⟨State.RegionsSound.placeNext, fun safe _ => safe.placeNext⟩

/-- R119: RECORD_PUBLICATION. -/
theorem State.KeepsStore.publishNext (s : State) : s.KeepsStore s.publishNext :=
  ⟨State.RegionsSound.publishNext, fun safe new => safe.publishNext new.written⟩

/-! ### The sample-period event (R31) -/

/-- R31: the position stops: the waits end, and the take. -/
theorem State.KeepsStore.atLastPosition (s : State) : s.KeepsStore s.atLastPosition :=
  .after (.abortTake _) (.endWaits s) (by simp)

/-- R31: the position advances, with the boundary or the end of the count that comes about at it. -/
theorem State.KeepsStore.advancePosition (s : State) : s.KeepsStore s.advancePosition := by
  have moved : ∀ {w : State}, (State.KeepsStore { s with timebase := { s.timebase with
      position := positionAfter s.timebase.position } } w) → s.KeepsStore w := fun h =>
    h.after (.of_same ⟨rfl, rfl, rfl, rfl, rfl⟩) ⟨rfl, rfl, rfl, rfl⟩
  unfold State.advancePosition
  dsimp only
  split
  · exact moved (.atLastPosition _)
  · split
    · exact moved ⟨fun sound => sound.boundary _, fun safe new => safe.boundary (new.writesFresh safe.jobs) _⟩
    · exact moved (.refl _)

/-- R31, R45, R164: a sample-period event, with link steps that leave the store before the framer asks. -/
theorem State.KeepsStore.sampleIf (s : State) (wanted : State → Bool) {between : State → State}
    (hb : ∀ w : State, w.LeavesStore (between w)) : s.KeepsStore (s.sampleIf wanted between) := by
  unfold State.sampleIf
  split
  · next r w hw =>
    split
    · obtain ⟨last, due, rfl, -⟩ := State.sampleBy?_some hw
      have advanced := (State.KeepsStore.advancePosition
        (State.adoptRate { s with timebase := { s.timebase with lastSample := last, edgesDue := due } })).after (s := s)
        (.of_same (by simp)) (by simp)
      exact (advanced.leaves (hb _)).leaves (.of_same (by simp [State.samplePeriod]))
    · exact .refl s
  · exact .refl s

/-! ### The rules of the commands -/

/-- The commands whose rules leave the store and the engine's job alone. -/
def Command.leavesStore : Command → Bool
  | .abort | .storeSetup | .subscribe | .unsubscribe | .release => false
  | .linkSetup | .linkStatus | .linkCounters | .linkRestart | .clockSetup | .arm | .disarm | .roll | .close | .trackMapSet
  | .trackMapGet | .gainSet | .gainApply | .gainDiscard | .gainGet | .archiveSetup | .archiveGet | .streamSetup
  | .streamGet | .next | .feedStatus | .cueAdd | .cueDelete | .cueList | .portMode | .events | .eventMask | .status => true

/-- R33 to R37: the take commands but ABORT move a take that is not CLOSING. -/
theorem takeRules_leaveStore (ps : List Byte) (s : State) : s.LeavesStore (armRule ps s).1 ∧
    s.LeavesStore (disarmRule ps s).1 ∧ s.LeavesStore (rollRule ps s).1 ∧ s.LeavesStore (closeRule ps s).1 := by
  have moves : ∀ (w : State) (st : TakeState), s.LeavesStore w → w.take.state ≠ .closing → s.LeavesStore (w.toTake st) :=
    fun w st h hw => h.trans (.toTake w hw)
  refine ⟨?_, ?_, ?_, ?_⟩
  · unfold armRule
    split
    · exact .refl s
    · next idle =>
      split
      · exact moves _ _ (.of_same ⟨rfl, rfl, rfl, rfl, rfl⟩) (by simp [not_not.1 idle])
      · exact .refl s
  · unfold disarmRule
    split
    · next armed => exact moves s _ (.refl s) (by simp [armed])
    · exact .refl s
  · unfold rollRule
    split
    · exact .refl s
    · next armed =>
      split
      · exact .refl s
      · refine moves _ _ ⟨rfl, fun _ => ⟨rfl, rfl⟩, ⟨rfl, rfl⟩, fun closing quiet => ⟨closing, quiet⟩⟩ ?_
        simp [not_not.1 armed]
  · unfold closeRule
    split
    · next rolling =>
      refine moves _ _ ⟨rfl, fun _ => ⟨rfl, rfl⟩, ⟨rfl, rfl⟩, fun closing quiet => ⟨closing, quiet⟩⟩ ?_
      simp [rolling]
    · exact .refl s

/-- R121, R122: NEXT leaves subscription and cursor. -/
theorem nextRule_leavesStore (p : Port) (ps : List Byte) (s : State) : s.LeavesStore (nextRule p ps s).1 := by
  unfold nextRule
  split
  · split
    · exact .refl s
    · dsimp only
      split
      · exact .setFeed s p ⟨rfl, rfl⟩
      · split
        · exact .setFeed s p ⟨rfl, rfl⟩
        · exact .setFeed s p ⟨rfl, rfl⟩
  · exact .refl s

/-- 10 §10.5: what those rules leave alone, read off their branches. -/
theorem Command.rule_leavesStore {c : Command} (h : c.leavesStore = true) (p : Port) (ps : List Byte) (s : State) :
    s.LeavesStore (c.rule p ps s).1 := by
  obtain ⟨arm, disarm, roll, close⟩ := takeRules_leaveStore ps s
  cases c
  case abort | storeSetup | subscribe | unsubscribe | release => cases h
  case arm => exact arm
  case disarm => exact disarm
  case roll => exact roll
  case close => exact close
  case next => exact nextRule_leavesStore p ps s
  all_goals
    refine .of_same ?_
    simp only [Command.rule, linkSetupRule, linkStatusRule, linkCountersRule, linkRestartRule, clockSetupRule,
      trackMapSetRule, trackMapGetRule, gainSetRule, gainApplyRule, gainDiscardRule, gainGetRule, archiveSetupRule,
      archiveGetRule, streamSetupRule, streamGetRule, feedStatusRule, cueAddRule, cueDeleteRule, cueListRule,
      portModeRule, eventsRule, eventMaskRule, statusRule]
    repeat' split
    all_goals simp

/-- R111, R112: STORE_SETUP, in IDLE alone, so that no END record is under way. -/
theorem State.KeepsStore.storeSetupRule (p : Port) (ps : List Byte) (s : State) :
    s.KeepsStore (Machine.storeSetupRule p ps s).1 := by
  have others : ∀ w : State, w.LeavesStore (w.raiseOthers .configChange p) := fun w => .of_same ⟨rfl, rfl, rfl, rfl, rfl⟩
  have reforms : ∀ ra rs, s.take.state = .idle → s.KeepsStore (s.reformRegions ra rs) := fun ra rs idle => by
    have empty := s.reformRegions_empty ra rs
    obtain ⟨-, -, -, -, -, engine, -⟩ := s.reformRegions_frame ra rs
    refine ⟨fun _ => .of_empty empty, fun safe _ => ⟨.of_empty empty, safe.ports.reformRegions ra rs,
      .of_nothing (fun f => (empty f).2) fun ending => ?_⟩⟩
    rw [engine] at ending
    have closing := (safe.jobs.ending ending).1
    rw [idle] at closing
    cases closing
  unfold Machine.storeSetupRule
  split
  · dsimp only
    split
    · exact .refl s
    · next idle =>
      split
      · refine .leaves ?_ (others _)
        split
        · exact .refl s
        · exact reforms _ _ (not_not.1 idle)
      · exact .refl s
  · exact .refl s

/-- R120: SUBSCRIBE. -/
theorem State.KeepsStore.subscribeRule (p : Port) (ps : List Byte) (s : State) :
    s.KeepsStore (Machine.subscribeRule p ps s).1 := by
  unfold Machine.subscribeRule
  split
  · split
    · exact .refl s
    · next none =>
      split
      · exact ⟨fun sound => sound.of_store rfl, fun safe _ => ⟨safe.regions.of_store rfl, safe.ports.subscribe none _ _,
          safe.jobs.streamJob, safe.jobs.archiveJob, safe.jobs.ending⟩⟩
      · exact .refl s
  · exact .refl s

/-- R120: UNSUBSCRIBE. -/
theorem State.KeepsStore.unsubscribeRule (p : Port) (ps : List Byte) (s : State) :
    s.KeepsStore (Machine.unsubscribeRule p ps s).1 := by
  unfold Machine.unsubscribeRule
  split
  · exact .refl s
  · exact ⟨fun sound => sound.dropPort p rfl, fun safe _ => ⟨safe.regions.dropPort p rfl,
      safe.ports.unsubscribe safe.regions p rfl rfl, safe.jobs.streamJob, safe.jobs.archiveJob, safe.jobs.ending⟩⟩

/-- R125: RELEASE. -/
theorem State.KeepsStore.releaseRule (p : Port) (ps : List Byte) (s : State) :
    s.KeepsStore (Machine.releaseRule p ps s).1 := by
  unfold Machine.releaseRule
  split
  · split
    · exact .refl s
    · next sub hsub =>
      dsimp only
      split
      · exact .refl s
      · split
        · next cursor =>
          have filling : ∀ (id : RecordId) (f : Feed), ((s.releaseCursor p id).region f).filling = (s.region f).filling := by
            rintro ⟨g, _, _⟩ f
            cases f <;> cases g <;> rfl
          refine ⟨fun sound => sound.releaseCursor p _, fun safe _ => ⟨safe.regions.releaseCursor p _,
            safe.ports.releaseCursor safe.regions hsub cursor, fun some => ?_, fun some => ?_, safe.jobs.ending⟩⟩
          · exact safe.jobs.streamJob ((congrArg Option.isSome (filling _ .stream)).symm.trans some)
          · exact safe.jobs.archiveJob ((congrArg Option.isSome (filling _ .archive)).symm.trans some)
        · exact .refl s
  · exact .refl s

/-- 10 §10.5: the rule of every command keeps the store. -/
theorem Command.rule_keepsStore (c : Command) (p : Port) (ps : List Byte) (s : State) :
    s.KeepsStore (c.rule p ps s).1 := by
  by_cases h : c.leavesStore = true
  · exact .of_leaves (Command.rule_leavesStore h p ps s)
  · cases c
    case abort =>
      have aborts := State.KeepsStore.abortTake s
      simp only [Command.rule, abortRule]
      cases s.take.state with
      | idle => exact .refl s
      | armed => exact .refl s
      | starting => exact aborts
      | rolling => exact aborts
      | closing => exact aborts
    case storeSetup => exact .storeSetupRule p ps s
    case subscribe => exact .subscribeRule p ps s
    case unsubscribe => exact .unsubscribeRule p ps s
    case release => exact .releaseRule p ps s
    all_goals exact absurd rfl h

/-- R146: an answer is its port's alone. -/
theorem State.LeavesStore.answer (s : State) (p : Port) (a : Answer) : s.LeavesStore (s.answer p a) :=
  .of_same (by simp)

/-- R144 to R146: a command's row leaves the state, changes its port alone, or applies the command's rule between two changes
of its port. -/
theorem State.runCommand_induction {P : State → Prop} {m : List Byte → State → State × Answer} {p : Port} (same : P s)
    (port : ∀ q, P (s.setPort p q)) (rule : ∀ ps q x, P ((m ps (s.setPort p q)).1.setPort p x)) (c : Command)
    (clocks : List Lanes) : P (s.runCommand c m p clocks) := by
  obtain e | ⟨-, -, e⟩ | ⟨w, f, -, hf, -, -, e⟩ | ⟨w, f, -, hf, -, -, e⟩ := State.runCommand_cases s c m p clocks
  · rwa [e]
  · rw [e, State.frameFails_eq_setPort]
    exact port _
  · rw [e, State.answer_eq_setPort, State.frameEnds_frame hf, State.setPort_setPort]
    exact port _
  · rw [e, State.answer_eq_setPort, State.frameEnds_frame hf]
    exact rule _ _ _

/-- R146: a command's row keeps the store as its rule does. -/
theorem State.KeepsStore.runCommand (s : State) (c : Command) (p : Port) (clocks : List Lanes) :
    s.KeepsStore (s.runCommand c (c.rule p) p clocks) :=
  State.runCommand_induction (.refl s) (fun q => .of_leaves (.setPort s p q))
    (fun ps q x => ((c.rule_keepsStore p ps (s.setPort p q)).leaves (.setPort _ p x)).after (.setPort s p q)
      ⟨rfl, rfl, rfl, rfl⟩) c clocks

/-- R146: a command's row leaves the store as its rule does. -/
theorem State.LeavesStore.runCommand (s : State) {c : Command} (h : c.leavesStore = true) (p : Port)
    (clocks : List Lanes) : s.LeavesStore (s.runCommand c (c.rule p) p clocks) :=
  State.runCommand_induction (.refl s) (.setPort s p)
    (fun ps q x => (State.LeavesStore.setPort s p q).trans ((Command.rule_leavesStore h p ps _).trans (.setPort _ p x))) c
    clocks

/-! ### Rows (R159, R164) -/

theorem State.LeavesStore.advance (s : State) (t : Nat) : s.LeavesStore (s.advance t) := .of_same ⟨rfl, rfl, rfl, rfl, rfl⟩

/-- R159: an event of a block. -/
theorem State.KeepsStore.eventAt (s : State) (t : Nat) {effect : State → State} (h : ∀ w : State, w.KeepsStore (effect w)) :
    s.KeepsStore (s.eventAt t effect) :=
  ((h _).unlessHeld _).after (.advance s t) ⟨rfl, rfl, rfl, rfl⟩

/-- R1 to R3: the rows of the links. -/
theorem State.LeavesStore.silence (s : State) (l : LinkId) : s.LeavesStore (s.silence l) := by
  unfold State.silence
  split
  · exact .of_same (by simp)
  · exact .refl s

/-- R164: steps at the links. -/
theorem State.LeavesStore.linkSteps (s : State) (steps : List LinkStep) : s.LeavesStore (s.linkSteps steps) := by
  have one : ∀ (w : State) (a : LinkStep), w.LeavesStore (w.linkStep a) := fun w a => by
    cases a with
    | transition l => exact .of_same (by simp [State.linkStep])
    | timeout l => exact .silence w l
    | restart p clocks => exact .runCommand w (c := .linkRestart) rfl p clocks
    | setup p clocks => exact .runCommand w (c := .linkSetup) rfl p clocks
  induction steps generalizing s with
  | nil => exact .refl s
  | cons a rest ih => exact (one s a).trans (ih _)

/-- R146: BAD_COMMAND is its port's alone. -/
theorem execBadCommand_leavesStore {p : Port} {clocks : List Lanes} (h : execBadCommand p clocks s = .next u) :
    s.LeavesStore u := by
  cases h
  split
  · exact .refl s
  · split
    · next w f hf =>
      split
      · rw [State.frameEnds_frame hf]
        exact (State.LeavesStore.setPort s p _).trans (.answer _ p _)
      · exact .refl s
    · exact .of_same (by simp)

/-- R159: the store after reset. -/
theorem State.KeepsStore.reset (s : State) {t : Nat} {held : Bool} (h : u.store = (State.resetAt t held).store ∧
    u.feeds = (State.resetAt t held).feeds ∧ u.engine = (State.resetAt t held).engine) : s.KeepsStore u := by
  obtain ⟨store, feeds, engine⟩ := h
  have empty : ∀ f, (u.region f).ring = [] ∧ (u.region f).filling = none := fun f => by
    rw [← State.store_region, store]
    cases f <;> exact ⟨rfl, rfl⟩
  refine ⟨fun _ => .of_empty empty, fun _ _ => ⟨.of_empty empty, .of_empty empty fun p => ?_,
    .of_nothing (fun f => (empty f).2) fun ending => ?_⟩⟩
  · rw [← State.feeds_get, feeds]
    cases p <;> rfl
  · rw [engine] at ending
    cases ending

/-- 95: every row of the table keeps the store of a safe run. -/
theorem exec_keepsStore {i : Instr} (h : exec i s = .next u) : s.KeepsStore u := by
  have command : ∀ {p clocks c}, commandRow? i = some (p, clocks, c) → s.KeepsStore u := by
    intro p clocks c row
    rw [exec_command row] at h
    cases h
    exact (State.KeepsStore.runCommand _ c p clocks).after (.advance s _) ⟨rfl, rfl, rfl, rfl⟩
  have block : ∀ (t : Nat) {effect : State → State}, (∀ w : State, w.LeavesStore (effect w)) →
      s.KeepsStore (s.eventAt t effect) := fun t _ he => .eventAt s t fun w => .of_leaves (he w)
  have event : ∀ (t : Nat) (wanted : State → Bool) {between : State → State}, (∀ w : State, w.LeavesStore (between w)) →
      s.KeepsStore (s.eventAt t fun w => w.sampleIf wanted between) := fun t wanted _ hb =>
    .eventAt s t fun w => .sampleIf w wanted hb
  have port : ∀ {w : State} (held : Bool), s.LeavesStore w → s.KeepsStore (if held then s else w) := fun held hw =>
    State.KeepsStore.unlessHeld (.of_leaves hw) held
  cases i with
  | lineTransition l t => cases h; exact block t fun w => .of_same (by simp)
  | edgeTimeout l t => cases h; exact block t fun w => .silence w l
  | wclkEdge t => cases h; exact block t fun w => .of_same (by split <;> simp)
  | latePeriod t => cases h; exact block t fun w => .of_same (by split <;> simp)
  | referenceAbsent t => cases h; exact block t fun w => .of_same (by split <;> simp)
  | samplePeriodEvent x => cases h; exact event x.tick _ fun w => .linkSteps w x.between
  | takeLengthLimit t => cases h; exact event t _ .refl
  | positionLimit t => cases h; exact event t _ .refl
  | nextWaitExpiry p t => cases h; exact event t _ .refl
  | recordPlacement => cases h; exact (State.KeepsStore.placeNext s).unlessHeld _
  | recordPublication => cases h; exact (State.KeepsStore.publishNext s).unlessHeld _
  | faultRequestTaken => cases h; exact port _ (.of_same (by simp))
  | frameStart p clocks ended => cases h; exact port _ (.frameStart s p clocks ended)
  | frameAbandoned p => cases h; exact port _ (.setPort s p _)
  | receiveTimeout x => cases h; exact port _ (.setPort s x.port _)
  | badCommand p clocks => exact .of_leaves (execBadCommand_leavesStore h)
  | read p clocks => cases h; exact port _ (.readTransfer s p clocks)
  | responseEnd p clocks => cases h; exact port _ (.endResponse s p clocks)
  | reset t => cases h; exact .reset s (t := s.moment t) (held := true) ⟨rfl, rfl, rfl⟩
  | resetEnd t =>
    cases h
    split
    · exact .reset s (t := s.moment t) (held := false) ⟨rfl, rfl, rfl⟩
    · exact .of_leaves (.advance s t)
  | _ => exact command rfl

/-- R113, R114: one step of the part keeps the store of a safe run; with an empty queue the part idles. -/
theorem step_keepsStore (h : step s = .next u) : s.KeepsStore u := by
  cases hq : s.pending with
  | nil =>
    simp only [step, hq] at h
    cases h
    exact .refl s
  | cons i rest =>
    simp only [step, hq] at h
    exact (exec_keepsStore h).after (s := s) (.of_same ⟨rfl, rfl, rfl, rfl, rfl⟩) ⟨rfl, rfl, rfl, rfl⟩

end

/-- Settles O8: every row keeps the two regions, and with new identities what the ports hold of them. -/
theorem stepsKeepRegionsSound : Obligations.StepsKeepRegionsSound := by
  refine ⟨fun s t sound h => (step_keepsStore h).regions sound, fun s t sound holdings new h => ?_⟩
  obtain ⟨ports, jobs⟩ := State.holdings_iff.1 holdings
  have after := (step_keepsStore h).safe ⟨sound, ports, jobs⟩ new
  exact State.holdings_iff.2 ⟨after.ports, after.jobs⟩

end Sys2Proof.Machine
end

section
/-! The readings FEED_STATUS and STATUS (R127, R158), and the boundary that ends a NEXT wait (R122). -/

namespace Sys2Proof.Machine

/-! ### FEED_STATUS (R127) -/

theorem length_idBytes (o : Option RecordId) : (idBytes o).length = 4 := by cases o <;> simp [idBytes]

/-- R127: the 48 bytes of FEED_STATUS. -/
theorem length_feedStatusData (s : State) (p : Port) : (feedStatusData s p).length = 48 := by
  simp [feedStatusData, regionData, length_idBytes]

/-! ### STATUS (R158) -/

/-- R158: the 23 bytes of STATUS. -/
theorem length_statusData (s : State) (p : Port) : (statusData s p).length = 23 := by simp [statusData]

/-- R158, R163: a code as its byte. -/
theorem bytesOf_one_ofNat (n : Nat) : bytesOf 1 n = [BitVec.ofNat 8 n] := by simp [bytesOf]

/-- Settles O21, by the items of the two answers, in their order. -/
theorem statusReadingsChangeNothing : Obligations.StatusReadingsChangeNothing := by
  refine ⟨?_, fun s p clocks e h hlast => ?_⟩
  · intro s p clocks e h ident region subscribed data
    have ids : ident = idBytes := by funext o; cases o <;> rfl
    have regions : region = regionData := by
      funext r
      simp only [region, ids, regionData, flagByte]
    have subscription : [subscribed] = bytesOf 1 (subscriptionCode (s.feed p).subscription) := by
      simp only [subscribed]
      rcases (s.feed p).subscription with _ | _ | _ <;> rfl
    have same : data = feedStatusData s p := by
      simp only [data, regions, subscription, ids, feedStatusData, flagByte]
    rw [same]
    exact ⟨length_feedStatusData s p, exec_reads (i := .feedStatus p clocks) rfl h rfl (by simp) rfl rfl⟩
  · have below : s.timebase.position < 2 ^ 48 := by
      have : lastPosition = 2 ^ 48 - 1 := rfl
      omega
    refine ⟨bytesOf 6 s.timebase.position, by simp, numberOf_bytesOf_of_lt below, ?_⟩
    intro byte link data
    have same : data = statusData (s.setPort p e) p := by
      simp only [data, link, byte, statusData, State.setPort_timebase, State.setPort_take, State.setPort_links,
        State.port_setPort_self, positionBytes_of_lt below, bytesOf_one_ofNat, flagByte]
      rfl
    rw [same]
    exact ⟨length_statusData _ p, exec_reads (i := .status p clocks) rfl h rfl (by simp) rfl rfl⟩

/-! ### The end of a wait (R122) -/

section
variable (s : State) (q : Port)

/-- R122: the feed state of each port after a boundary has counted the waits: its own wait is counted. -/
theorem State.countWaits_feed : s.countWaits.feed q = (s.countWait q).feed q := by
  simp only [State.countWaits, State.countWait_feed]
  cases q <;> simp

/-- R122: each port after a boundary has counted the waits: its own wait is counted. -/
theorem State.countWaits_port : s.countWaits.port q = (s.countWait q).port q := by
  simp only [State.countWaits, State.countWait_port, State.countWait_feed]
  cases q <;> simp

end

section
variable {s : State} {p : Port} {t : Nat}

/-- R122: NEXT_WAIT_EXPIRY at its moment, outside a take: a boundary with nothing in coding, and the links asked. -/
theorem exec_nextWaitExpiry (hrun : s.resetHeld = false) (hclock : s.timebase.clock ≠ .locked)
    (hnext : s.timebase.nextOscillator ≤ max s.now t) (hg : s.take.gathering = false) (hs : s.take.state = .idle)
    (he : s.engine.state = .idle) (hlast : s.timebase.position + 1 < lastPosition)
    (hin : (s.timebase.position + 1) % blockLengthOf s.timebase.rate = 0) (hw : (s.feed p).wait = some 1) :
    exec (.nextWaitExpiry p t) s =
      let u := s.advanced t s.timebase.nextOscillator s.timebase.edgesDue
      let v := State.countWaits { u with mix := u.mix.boundary }
      .next { v with links := v.linksAsked } := by
  have below : s.timebase.position < lastPosition := by omega
  have wanted : (State.isBoundary ((s.advance t).sampleTaken s.timebase.nextOscillator s.timebase.edgesDue) &&
      (((s.advance t).sampleTaken s.timebase.nextOscillator s.timebase.edgesDue).feed p).wait == some 1) = true := by
    simp [State.isBoundary, State.sampleTaken, State.advance, below, hin, hw]
  have boundary : ((s.advance t).sampleTaken s.timebase.nextOscillator s.timebase.edgesDue).advancePosition =
      State.countWaits { s.advanced t s.timebase.nextOscillator s.timebase.edgesDue with
        mix := (s.advanced t s.timebase.nextOscillator s.timebase.edgesDue).mix.boundary } :=
    (State.advancePosition_boundary (by exact hlast) (by exact hin)).trans
      (State.boundary_outside _ (by exact he) (by exact hg) (.inl (by
        show s.take.state ≠ .starting
        rw [hs]
        decide)))
  have quiet : (State.countWaits { s.advanced t s.timebase.nextOscillator s.timebase.edgesDue with
      mix := (s.advanced t s.timebase.nextOscillator s.timebase.edgesDue).mix.boundary }).take.gathering = false := by
    rw [State.countWaits_eq]
    exact hg
  simp only [exec, execNextWaitExpiry, State.eventAt_running hrun]
  rw [State.sampleIf_oscillator (s := s.advance t) hclock hnext]
  simp only [State.advance_timebase, wanted, ↓reduceIte, id, boundary]
  rw [State.askLinks_none quiet, State.gather_none (by exact quiet)]
  rfl

end

/-- Settles O36: outside a take such a boundary only works the mix engine and counts the waits, port by port. -/
theorem waitsEndAtTheirBoundary : Obligations.WaitsEndAtTheirBoundary := by
  intro p t s hrun hclock hnext hg hs he hlast hin hw
  have row := exec_nextWaitExpiry hrun hclock hnext hg hs he hlast hin hw
  generalize hu : s.advanced t s.timebase.nextOscillator s.timebase.edgesDue = u at row
  have feeds : ∀ q, u.feed q = s.feed q := fun q => by rw [← hu]; rfl
  have ports : ∀ q, u.port q = s.port q := fun q => by rw [← hu]; rfl
  have feed := State.countWaits_feed { u with mix := u.mix.boundary }
  have port := State.countWaits_port { u with mix := u.mix.boundary }
  simp only [State.countWait_feed, State.countWait_port, State.feed_mk, State.port_mk, State.feeds_get, State.ports_get,
    ↓reduceIte, feeds, ports] at feed port
  have rest := State.countWaits_eq { u with mix := u.mix.boundary }
  refine ⟨_, row, ?_, ?_, ?_, fun q k hk two => ⟨?_, ?_⟩, fun q hk => ⟨?_, ?_⟩, ?_⟩
  · show (State.countWaits { u with mix := u.mix.boundary }).timebase.position = _
    rw [rest, ← hu]
    rfl
  · refine (feed p).trans ?_
    simp only [hw, le_refl, ↓reduceIte]
  · refine (port p).trans ?_
    simp only [hw, le_refl, ↓reduceIte]
  · refine (feed q).trans ?_
    simp only [hk, if_neg (show ¬ k ≤ 1 by omega)]
  · refine (port q).trans ?_
    simp only [hk, if_neg (show ¬ k ≤ 1 by omega)]
  · refine (feed q).trans ?_
    simp only [hk]
  · refine (port q).trans ?_
    simp only [hk]
  · dsimp only
    rw [rest, ← hu]
    exact ⟨rfl, rfl, rfl, rfl⟩

end Sys2Proof.Machine
end

section
/-! SUBSCRIBE, UNSUBSCRIBE and RELEASE (R113, R117, R118, R120, R125): the order of identities, and each command by what it
finds. -/

namespace Sys2Proof.Machine

/-! ### Records that stay (R117) -/

/-- R117: a reclaim takes SPENT records alone. -/
theorem mem_reclaim {ring : List Record} {x : Record} (h : x ∈ ring) (held : x.state = .held) : x ∈ reclaim ring := by
  induction ring with
  | nil => cases h
  | cons a rest ih =>
    by_cases spent : a.state = .spent
    · have next : reclaim (a :: rest) = reclaim rest := by simp [reclaim, spent]
      rw [next]
      rcases List.mem_cons.1 h with rfl | h
      · rw [held] at spent
        cases spent
      · exact ih h
    · have stays : reclaim (a :: rest) = a :: rest := by simp [reclaim, spent]
      rwa [stays]

/-- R120: what is left of a ring that a port has left: records as they were, without that port. -/
theorem mem_dropPort {r : Region} {p : Port} {x : Record} (h : x ∈ (r.dropPort p).ring) : x.holders.get p = false ∧
    ∃ y ∈ r.ring, x.id = y.id ∧ x.bytes = y.bytes ∧ ∀ q, q ≠ p → x.holders.get q = y.holders.get q := by
  obtain ⟨y, hy, rfl⟩ := List.mem_map.1 ((reclaim_suffix _).subset h)
  obtain ⟨id, bytes, -, others⟩ := leaveIf_spec (fun x : Record => x.holders.get p = true) p y
  refine ⟨?_, y, hy, id, bytes, others⟩
  split
  · exact (y.leave_spec p).1
  · next unheld => simpa using unheld

/-- R120: the records that other ports hold stay. -/
theorem dropPort_keeps {r : Region} (sound : r.Sound) {p q : Port} (hq : q ≠ p) {y : Record} (hy : y ∈ r.ring)
    (held : y.holders.get q = true) :
    ∃ x ∈ (r.dropPort p).ring, x.id = y.id ∧ x.state = .held ∧ x.holders.get q = true := by
  obtain ⟨id, -, -, others⟩ := leaveIf_spec (fun x : Record => x.holders.get p = true) p y
  have holder := (others q hq).trans held
  have settled : (if y.holders.get p = true then y.leave p else y).Settled := by
    split
    · exact Record.Settled.leave (sound.states y hy) p
    · exact sound.states y hy
  have state := settled.held_of_holder holder
  exact ⟨_, mem_reclaim (List.mem_map_of_mem hy) state, id, state, holder⟩

/-! ### SUBSCRIBE (R120) -/

section
variable {s : State} {p : Port} {a : Byte}

/-- R120: SUBSCRIBE of a port that has a subscription. -/
theorem subscribeRule_state (h : (s.feed p).subscription ≠ none) : subscribeRule p [a] s = (s, .refuse .state) := by
  obtain ⟨f, hf⟩ := Option.ne_none_iff_exists'.1 h
  simp only [subscribeRule, hf]

/-- R120: SUBSCRIBE to no feed. -/
theorem subscribeRule_range (h : (s.feed p).subscription = none) (ha : a.toNat = 0 ∨ 2 < a.toNat) :
    subscribeRule p [a] s = (s, .refuse .range) := by
  simp only [subscribeRule, h, feed?_eq_none ha]

/-- R120: SUBSCRIBE accepted. -/
theorem subscribeRule_ok {f : Feed} (h : (s.feed p).subscription = none) (ha : a.toNat = feedCode f) :
    subscribeRule p [a] s = (s.setFeed p ((s.feed p).subscribed f (s.region f).lastPublished), .ok []) := by
  simp only [subscribeRule, h, feed?_eq_some.2 ha]

/-! ### UNSUBSCRIBE (R120) -/

/-- R120: UNSUBSCRIBE of a port without a subscription. -/
theorem unsubscribeRule_state (h : (s.feed p).subscription = none) : unsubscribeRule p [] s = (s, .refuse .state) := by
  simp only [unsubscribeRule, h]

/-- R120: UNSUBSCRIBE accepted. -/
theorem unsubscribeRule_ok (h : (s.feed p).subscription ≠ none) : unsubscribeRule p [] s =
    ({ s with store := ⟨s.store.archive.dropPort p, s.store.stream.dropPort p⟩ }.setFeed p (s.feed p).unsubscribed,
      .ok (bytesOf 2 (s.heldCount p) ++ bytesOf 2 (s.feed p).lost)) := by
  obtain ⟨f, hf⟩ := Option.ne_none_iff_exists'.1 h
  simp only [unsubscribeRule, hf]

end

/-- Settles O56, by the subscription that each command finds, and by what a port's leave makes of a ring. -/
theorem subscriptionsBeginAndEnd : Obligations.SubscriptionsBeginAndEnd := by
  refine ⟨fun s p clocks e a h => ⟨fun sub => ?_, fun none ha => ?_, fun f none ha => ?_⟩,
    fun s p clocks e h => ⟨fun none => ?_, fun sub => ?_⟩⟩
  · exact exec_refuses (i := .subscribe p clocks) rfl h rfl (by simp) rfl (subscribeRule_state (s := s.setPort p e) sub)
  · exact exec_refuses (i := .subscribe p clocks) rfl h rfl (by simp) rfl
      (subscribeRule_range (s := s.setPort p e) none ha)
  · rw [exec_answersNow (i := .subscribe p clocks) rfl h rfl (by simp) rfl
      (subscribeRule_ok (s := s.setPort p e) none ha), Answer.ok, State.answer_setFeed]
    rfl
  · exact exec_refuses (i := .unsubscribe p clocks) rfl h rfl (by simp) rfl
      (unsubscribeRule_state (s := s.setPort p e) none)
  · have row := exec_answersNow (i := .unsubscribe p clocks) rfl h rfl (by simp) rfl
      (unsubscribeRule_ok (s := s.setPort p e) sub)
    rw [Answer.ok] at row
    have after := State.answer_setFeed { s with store := ⟨s.store.archive.dropPort p, s.store.stream.dropPort p⟩ } p e
      (s.feed p).unsubscribed (Response.of .ok (bytesOf 2 (s.heldCount p) ++ bytesOf 2 (s.feed p).lost))
    have region : ∀ f, Store.region ⟨s.store.archive.dropPort p, s.store.stream.dropPort p⟩ f =
        (s.region f).dropPort p := by
      rintro (_ | _) <;> rfl
    refine ⟨_, row.trans (congrArg Host.Outcome.next after), rfl, fun f x hx => ?_, region, fun f sound y hy q hq held => ?_⟩
    · rw [State.region_mk, region] at hx
      exact mem_dropPort hx
    · rw [State.region_mk, region]
      exact dropPort_keeps sound hq hy held

/-! ### The order of identities (R113) -/

/-- R113: a take is earlier than those that follow it by 1 to 32 767 in 1, 2, …, 65535, 1, …. -/
theorem takeEarlier_iff {t u : Nat} (ht : 1 ≤ t ∧ t ≤ 65535) (hu : 1 ≤ u ∧ u ≤ 65535) :
    takeEarlier t u = true ↔ ∃ k, 1 ≤ k ∧ k ≤ 32767 ∧ u = (t - 1 + k) % 65535 + 1 := by
  simp only [takeEarlier, Bool.and_eq_true, decide_eq_true_eq]
  constructor
  · rintro ⟨least, most⟩
    exact ⟨_, least, most, by omega⟩
  · rintro ⟨k, least, most, rfl⟩
    omega

/-- R113: of two different takes exactly one is earlier. -/
theorem takeEarlier_swap {t u : Nat} (ht : 1 ≤ t ∧ t ≤ 65535) (hu : 1 ≤ u ∧ u ≤ 65535) (h : t ≠ u) :
    takeEarlier u t = !takeEarlier t u := by
  have one : ((t + 65535 - u) % 65535 = 65535 - (u + 65535 - t) % 65535) ∧ 1 ≤ (u + 65535 - t) % 65535 := by omega
  rw [Bool.eq_iff_iff]
  simp only [takeEarlier, Bool.and_eq_true, decide_eq_true_eq, Bool.not_eq_true', Bool.and_eq_false_iff,
    decide_eq_false_iff_not]
  omega

/-- R113: in one take the lower sequence is earlier. -/
theorem RecordId.earlier_sameTake {a b : RecordId} (h : a.take = b.take) : a.earlier b = true ↔ a.sequence < b.sequence := by
  simp only [RecordId.earlier, if_pos h, decide_eq_true_eq]

/-- R113: of two takes their numbers decide. -/
theorem RecordId.earlier_otherTake {a b : RecordId} (h : a.take ≠ b.take) : a.earlier b = takeEarlier a.take b.take := by
  simp only [RecordId.earlier, if_neg h]

/-! ### RELEASE (R125) -/

section
variable {s : State} {p : Port} {a b c d g : Byte}

/-- R125: RELEASE of a port without a subscription. -/
theorem releaseRule_state (h : (s.feed p).subscription = none) :
    releaseRule p [a, b, c, d, g] s = (s, .refuse .state) := by
  simp only [releaseRule, h]

section
variable {f : Feed} (h : (s.feed p).subscription = some f)
include h

/-- R125: RELEASE of another feed, or of no take. -/
theorem releaseRule_range (other : a.toNat ≠ feedCode f ∨ numberOf [b, c] = 0) :
    releaseRule p [a, b, c, d, g] s = (s, .refuse .range) := by
  simp only [releaseRule, h]
  exact if_pos (other.imp_left fun hne => mt feed?_eq_some.1 hne)

variable (ha : a.toNat = feedCode f) (hb : numberOf [b, c] ≠ 0)
include ha hb

/-- R125: RELEASE of the cursor record. -/
theorem releaseRule_ok (hc : (s.feed p).cursor = some ⟨f, numberOf [b, c], numberOf [d, g]⟩) :
    releaseRule p [a, b, c, d, g] s = (s.releaseCursor p ⟨f, numberOf [b, c], numberOf [d, g]⟩, .ok []) := by
  simp [releaseRule, h, feed?_eq_some.2 ha, hb, hc]

/-- R125: RELEASE of an identity that is not the cursor's. -/
theorem releaseRule_other (hc : (s.feed p).cursor ≠ some ⟨f, numberOf [b, c], numberOf [d, g]⟩) :
    releaseRule p [a, b, c, d, g] s =
      (s, .refuse (releaseRefusal (s.feed p) ⟨f, numberOf [b, c], numberOf [d, g]⟩)) := by
  simp [releaseRule, h, feed?_eq_some.2 ha, hb, hc]

end

/-- R125: the regions after a release. -/
theorem State.releaseCursor_eq (s : State) (p : Port) (id : RecordId) : s.releaseCursor p id = { s with
    store := s.store.setRegion id.feed { s.region id.feed with
      ring := reclaim ((s.region id.feed).ring.map fun r => if r.id = id then r.leave p else r) }
    feeds := s.feeds.set p { s.feed p with cursor := recordAfter id (s.region id.feed).ring, lastTaken := some id } } := rfl

/-- R117, R125: the port holds no record of the identity it has released. -/
theorem released_unheld {id : RecordId} {ring : List Record} {x : Record}
    (h : x ∈ reclaim (ring.map fun r => if r.id = id then r.leave p else r)) (hid : x.id = id) :
    x.holders.get p = false := by
  obtain ⟨y, -, rfl⟩ := List.mem_map.1 ((reclaim_suffix _).subset h)
  rw [(leaveIf_spec (fun r : Record => r.id = id) p y).1] at hid
  rw [if_pos hid]
  exact (y.leave_spec p).1

end

/-- Settles O58, by the order of identities, and by the cursor and the last taken that RELEASE finds. -/
theorem releaseNamesTheCursor : Obligations.ReleaseNamesTheCursor := by
  refine ⟨fun x y hx hx' hy hy' => ⟨RecordId.earlier_sameTake, fun hne => ?_⟩, ?_⟩
  · rw [RecordId.earlier_otherTake hne, RecordId.earlier_otherTake (Ne.symm hne)]
    exact ⟨takeEarlier_iff ⟨hx, hx'⟩ ⟨hy, hy'⟩, takeEarlier_swap ⟨hx, hx'⟩ ⟨hy, hy'⟩ hne⟩
  intro s p clocks e a b c d g h answered answer
  have refuses : ∀ {st}, releaseRule p [a, b, c, d, g] (s.setPort p e) = (s.setPort p e, .refuse st) →
      exec (.release p clocks) s = answer st :=
    fun rule => exec_refuses (i := .release p clocks) rfl h rfl (by simp) rfl rule
  refine ⟨fun none => refuses (releaseRule_state none), fun f sub => ?_⟩
  intro id
  refine ⟨fun other => refuses (releaseRule_range (s := s.setPort p e) sub other), fun ha hb => ?_⟩
  have other : (s.feed p).cursor ≠ some id → exec (.release p clocks) s = answer (releaseRefusal (s.feed p) id) :=
    fun hc => refuses (releaseRule_other (s := s.setPort p e) sub ha hb hc)
  refine ⟨fun hc => ?_, fun cur hc hne => ?_, fun hc hl => ?_, fun last hc hl => ?_⟩
  · have row := exec_answersNow (i := .release p clocks) rfl h rfl (by simp) rfl
      (releaseRule_ok (s := s.setPort p e) sub ha hb hc)
    have after : ((s.setPort p e).releaseCursor p id).answer p (.ok []) = { s.releaseCursor p id with
        ports := answered .ok } := by
      rw [State.releaseCursor_eq, State.answer_ok, State.setPort_eq_portsAfter]
      cases p <;> rfl
    have ring : (({ s.releaseCursor p id with ports := answered .ok } : State).region f).ring =
        reclaim ((s.region f).ring.map fun r => if r.id = id then r.leave p else r) := by
      cases f <;> rfl
    refine ⟨_, row.trans (congrArg Host.Outcome.next after), ?_, ring, fun x hx hid => ?_⟩
    · rw [ring]
      rfl
    · rw [ring] at hx
      exact released_unheld hx hid
  · rw [other (by rw [hc]; exact fun same => hne (Option.some.inj same)), releaseRefusal, hc]
  · rw [other (by rw [hc]; exact fun no => nomatch no), releaseRefusal, hc, hl]
  · rw [other (by rw [hc]; exact fun no => nomatch no), releaseRefusal, hc, hl]
    simp only [Bool.or_eq_true, decide_eq_true_eq]

end Sys2Proof.Machine
end

section
/-! The cue list in a safe run (08 §8.1; R130, R131, R135, R137): new entries, removed entries and FAULT requests keep
`Cues.Sound`, and so does each operation of the timebase and of a receiver, which at most asks for FAULT cues. -/

namespace Sys2Proof.Machine

/-! ### Entries and requests (R130 to R137) -/

section
variable {c : Cues}

/-- R131: after any id comes an id. -/
theorem idAfter_bounds (n : Nat) : 1 ≤ idAfter n ∧ idAfter n ≤ 65535 := by
  unfold idAfter
  split <;> omega

/-- R130: a list in order stays so with an entry of another id inserted. -/
theorem insertCue_pairwise {d : Cue} {l : List Cue} (ordered : l.Pairwise fun a b => cueBefore a b = true)
    (free : ∀ x ∈ l, x.id ≠ d.id) : (insertCue d l).Pairwise fun a b => cueBefore a b = true := by
  obtain ⟨before, after, rfl, inserted, earlier, later⟩ := insertCue_ordered ordered free
  obtain ⟨first, last, across⟩ := List.pairwise_append.1 ordered
  rw [inserted]
  refine List.pairwise_append.2 ⟨first, List.pairwise_cons.2 ⟨later, last⟩, fun x hx y hy => ?_⟩
  rcases List.mem_cons.1 hy with rfl | hy
  · exact earlier x hx
  · exact across x hx y hy

/-- R131: an entry of another id leaves no id twice. -/
theorem insertCue_nodup {d : Cue} {l : List Cue} (distinct : (l.map Cue.id).Nodup) (free : ∀ x ∈ l, x.id ≠ d.id) :
    ((insertCue d l).map Cue.id).Nodup := by
  obtain ⟨before, after, rfl, inserted, -⟩ := insertCue_split d l
  rw [inserted, (List.perm_middle.map Cue.id).nodup_iff]
  refine List.nodup_cons.2 ⟨fun held => ?_, distinct⟩
  obtain ⟨x, hx, same⟩ := List.mem_map.1 held
  exact free x hx same

/-- R131, R133, R137: a new entry, at a list that is not full. -/
theorem Cues.Sound.add (h : c.Sound) (room : c.entries.length < 128) {kind : CueKind} {label : List Byte}
    {origin : CueOrigin} (short : label.length ≤ 10) (own : kind = .fault ↔ origin = .part) (position : Nat) :
    (c.add position kind label origin).Sound := by
  obtain ⟨low, high⟩ := h.nextId
  obtain ⟨free, least, most⟩ := Cues.newId_spec (by omega) low high
  have all : ∀ {P : Cue → Prop}, P ⟨c.newId, position, kind, label, origin⟩ → (∀ e ∈ c.entries, P e) →
      ∀ e ∈ (c.add position kind label origin).entries, P e := by
    intro P new old e he
    rcases mem_insertCue.1 he with rfl | he
    · exact new
    · exact old e he
  exact ⟨insertCue_pairwise h.ordered free, by rw [Cues.add, length_insertCue]; omega, insertCue_nodup h.distinct free,
    all ⟨least, most⟩ h.ids, all short h.labels, all own h.origins, idAfter_bounds _, h.requests, h.requestLabels⟩

/-- R135: entries taken out of the list. -/
theorem Cues.Sound.filter (h : c.Sound) (keep : Cue → Bool) : Cues.Sound { c with entries := c.entries.filter keep } := by
  have kept : (c.entries.filter keep).Sublist c.entries := List.filter_sublist
  exact ⟨h.ordered.sublist kept, kept.length_le.trans h.entries, h.distinct.sublist (kept.map Cue.id),
    fun e he => h.ids e (kept.mem he), fun e he => h.labels e (kept.mem he), fun e he => h.origins e (kept.mem he),
    h.nextId, h.requests, h.requestLabels⟩

/-- R33: the list and the queue emptied, the counter kept. -/
theorem Cues.Sound.emptied (h : c.Sound) : Cues.Sound ⟨[], c.nextId, []⟩ :=
  ⟨.nil, Nat.zero_le _, List.nodup_nil, by simp, by simp, by simp, h.nextId, Nat.zero_le _, by simp⟩

/-- R137: another queue of at most 8 requests. -/
theorem Cues.Sound.withRequests (h : c.Sound) {requests : List FaultRequest} (few : requests.length ≤ 8)
    (short : ∀ r ∈ requests, r.label.length ≤ 10) : Cues.Sound { c with requests := requests } :=
  { h with requests := few, requestLabels := short }

/-- R137: a FAULT request made. -/
theorem Cues.Sound.asked (h : c.Sound) (s : State) {label : List Byte} (short : label.length ≤ 10) :
    (s.cuesAsked c label).Sound := by
  unfold State.cuesAsked
  split
  · next room =>
    refine h.withRequests (by simpa using room.2) fun r hr => ?_
    rcases List.mem_append.1 hr with hr | hr
    · exact h.requestLabels r hr
    · rw [List.mem_singleton.1 hr]
      exact short
  · exact h

end

/-- R137: the label of a request of the timebase. -/
theorem length_clockHoldLabel : clockHoldLabel.length ≤ 10 := by decide

/-- R137: the label of a request of a receiver. -/
theorem length_linkLostLabel (l : LinkId) : (linkLostLabel l).length ≤ 10 := by simp [linkLostLabel]

/-! ### Steps that keep the cue list -/

/-- `u` has the cue list of a safe run if `s` has. -/
structure State.KeepsCues (s u : State) : Prop where
  sound : s.cues.Sound → u.cues.Sound

theorem State.KeepsCues.of_eq {s u : State} (h : u.cues = s.cues) : s.KeepsCues u := ⟨fun hs => h ▸ hs⟩

theorem State.KeepsCues.refl (s : State) : s.KeepsCues s := .of_eq rfl

theorem State.KeepsCues.trans {s u v : State} (h : s.KeepsCues u) (h' : u.KeepsCues v) : s.KeepsCues v :=
  ⟨fun hs => h'.sound (h.sound hs)⟩

/-- A step that keeps the cue list, after a change of other blocks alone. -/
theorem State.KeepsCues.afterSame {s u v : State} (h : u.KeepsCues v) (e : u.cues = s.cues) : s.KeepsCues v :=
  (State.KeepsCues.of_eq e).trans h

theorem State.KeepsCues.setPort (s : State) (p : Port) (q : PortState) : s.KeepsCues (s.setPort p q) := .of_eq rfl

/-! ### The timebase (R24 to R29) -/

/-- R28: entry to HOLDOVER. -/
theorem State.KeepsCues.enterHoldover {s : State} (h : s.timebase.clock = .locked) (t : Nat) :
    s.KeepsCues (s.enterHoldover t) := by
  rw [State.enterHoldover_locked h]
  exact ⟨fun hs => hs.asked s length_clockHoldLabel⟩

/-- R24: a bad period asks for a FAULT cue in LOCKED alone. -/
theorem State.KeepsCues.badPeriod (s : State) (t : Nat) : s.KeepsCues (s.badPeriod t) := by
  cases hc : s.timebase.clock with
  | free => rw [State.badPeriod_idle (.inl hc)]; exact .refl s
  | holdover => rw [State.badPeriod_idle (.inr hc)]; exact .refl s
  | acquire => rw [State.badPeriod_acquire hc]; exact .of_eq rfl
  | locked => rw [State.badPeriod_locked hc]; exact .enterHoldover hc t

/-- R24: a late period. -/
theorem State.KeepsCues.takeLate (s : State) (t : Nat) : s.KeepsCues (s.takeLate t) :=
  .afterSame (.badPeriod _ t) rfl

/-- R24: an absence. -/
theorem State.KeepsCues.takeAbsence (s : State) (t : Nat) : s.KeepsCues (s.takeAbsence t) :=
  .afterSame (.badPeriod _ t) rfl

/-- R24: the period that an edge ends. -/
theorem State.KeepsCues.judgeEdge (s : State) (e : Nat) : s.KeepsCues (s.judgeEdge e) := by
  unfold State.judgeEdge
  split
  · exact .refl s
  · split
    · exact .badPeriod s e
    · exact .of_eq (by simp)

/-- R23: a reference edge. -/
theorem State.KeepsCues.referenceEdge (s : State) (e : Nat) : s.KeepsCues (s.referenceEdge e) := by
  unfold State.referenceEdge
  split
  · exact ((State.KeepsCues.takeLate s _).trans (.judgeEdge _ e)).trans (.of_eq rfl)
  · exact (State.KeepsCues.judgeEdge s e).trans (.of_eq rfl)

/-- R29: the effect of CLOCK_SETUP. -/
theorem State.KeepsCues.setClock (s : State) (ref : Reference) (rate : SessionRate) (t : Nat) :
    s.KeepsCues (s.setClock ref rate t) := by
  by_cases same : ref = s.timebase.reference ∧ rate = s.timebase.rate
  · rw [State.setClock_same same]
    exact .refl s
  by_cases hc : s.timebase.clock = .locked
  · rw [State.setClock_locked same t hc]
    exact ⟨fun hs => hs.asked s length_clockHoldLabel⟩
  · rw [State.setClock_unlocked same t hc]
    exact .of_eq rfl

/-! ### The receivers (R3 to R13) -/

/-- R13: a departure from LOCKED. -/
theorem State.KeepsCues.announceDeparture (s : State) (l : LinkId) (t : Nat) :
    s.KeepsCues (s.announceDeparture l t) := by
  have told : s.cues.Sound → (s.cuesAsked s.cues (linkLostLabel l)).Sound := fun hs => hs.asked s (length_linkLostLabel l)
  by_cases h : s.timebase.reference = .link l
  · rw [State.announceDeparture_reference h]
    exact State.KeepsCues.trans ⟨told⟩ (.badPeriod _ t)
  · rw [State.announceDeparture_other h]
    exact ⟨told⟩

/-- R7, R11, R12: a bad frame. -/
theorem State.KeepsCues.badFrame (s : State) (l : LinkId) (t : Nat) : s.KeepsCues (s.badFrame l t) := by
  cases hl : (s.link l).lock with
  | disabled => rw [State.badFrame_unlocked (.inl hl)]; exact .refl s
  | hunt => rw [State.badFrame_unlocked (.inr hl)]; exact .refl s
  | sync => rw [State.badFrame_sync hl]; exact .of_eq rfl
  | locked =>
    by_cases hr : (s.link l).badRun < 2
    · rw [State.badFrame_locked hl hr]
      exact .of_eq rfl
    · rw [State.badFrame_departs hl (by omega)]
      exact .afterSame (.announceDeparture _ l t) rfl

/-- R4: the beginning of a frame. -/
theorem State.KeepsCues.beginFrame (s : State) (l : LinkId) (start : Nat) : s.KeepsCues (s.beginFrame l start) := by
  by_cases hl : (s.link l).lock = .locked
  · rw [State.beginFrame_locked hl, State.markTime]
    split
    · exact .afterSame (.referenceEdge _ start) rfl
    · exact .of_eq rfl
  · rw [State.beginFrame_unlocked hl]
    exact .of_eq rfl

/-- R7: a MARK where none is due. -/
theorem State.KeepsCues.unexpectedMark (s : State) (l : LinkId) (start t : Nat) :
    s.KeepsCues (s.unexpectedMark l start t) := by
  unfold State.unexpectedMark
  dsimp only
  split
  · exact (State.KeepsCues.badFrame s l t).trans (.beginFrame _ l start)
  · exact .badFrame s l t

/-- R5, R6, R8: a completed cell. -/
theorem State.KeepsCues.completeCell (s : State) (l : LinkId) (f : PartialFrame) (cell : Bool) (t : Nat) :
    s.KeepsCues (s.completeCell l f cell t) := by
  unfold State.completeCell State.completeSlot
  dsimp only
  split
  · exact .of_eq rfl
  · split
    · exact .afterSame (.badFrame _ l t) rfl
    · exact .of_eq (by split <;> simp)

/-- R4, R5, R7: a pulse taken by the assembler. -/
theorem State.KeepsCues.assemble (s : State) (l : LinkId) (c : PulseClass) (start t : Nat) :
    s.KeepsCues (s.assemble l c start t) := by
  have bad : s.KeepsCues (s.badFrame l t) := .badFrame s l t
  have missing : s.KeepsCues (if (s.link l).markDue then s.badFrame l t else s) := by
    split
    · exact bad
    · exact .refl s
  cases hp : (s.link l).phase with
  | waitMark =>
    cases c with
    | mark => rw [State.assemble_waitMark_mark _ _ hp]; exact .beginFrame s l start
    | _ => simpa only [State.assemble, hp] using missing
  | markTail =>
    cases c with
    | mark => rw [State.assemble_unexpectedMark _ _ (by simp [hp])]; exact .unexpectedMark s l start t
    | short => rw [State.assemble_markTail_short _ _ hp]; exact .of_eq rfl
    | long => rwa [State.assemble_markTail_bad _ _ (.inl rfl) hp]
    | violation => rwa [State.assemble_markTail_bad _ _ (.inr rfl) hp]
  | cells =>
    cases c with
    | mark => rw [State.assemble_unexpectedMark _ _ (by simp [hp])]; exact .unexpectedMark s l start t
    | violation => rwa [State.assemble_cells_violation _ _ hp]
    | short =>
      simp only [State.assemble, hp]
      split
      · exact .completeCell s l _ true t
      · exact .of_eq rfl
    | long =>
      simp only [State.assemble, hp]
      split
      · exact bad
      · exact .completeCell s l _ false t

/-- R1, R10: a classified pulse. -/
theorem State.KeepsCues.takePulse (s : State) (l : LinkId) (c : PulseClass) (start t : Nat) :
    s.KeepsCues (s.takePulse l c start t) := by
  have assembled : s.KeepsCues ((s.countViolation l c).assemble l c start t) := .afterSame (.assemble _ l c start t) (by simp)
  cases hl : (s.link l).lock with
  | disabled => rw [State.takePulse_disabled hl]; exact .refl s
  | hunt =>
    by_cases hc : c = .mark
    · rw [hc, State.takePulse_hunt_mark hl]
      exact .of_eq rfl
    · rw [State.takePulse_hunt_other hl hc]
      exact .refl s
  | sync => rwa [State.takePulse_assembles (.inl hl)]
  | locked => rwa [State.takePulse_assembles (.inr hl)]

/-- R3: the edge timeout. -/
theorem State.KeepsCues.takeTimeout (s : State) (l : LinkId) (t : Nat) : s.KeepsCues (s.takeTimeout l t) := by
  cases hl : (s.link l).lock with
  | hunt => rw [State.takeTimeout_hunt hl]; exact .of_eq rfl
  | disabled => rw [State.takeTimeout_disabled hl]; exact .of_eq rfl
  | sync => rw [State.takeTimeout_sync hl]; exact .of_eq rfl
  | locked => rw [State.takeTimeout_locked hl]; exact .afterSame (.announceDeparture _ l t) rfl

/-- R3: a silence of a link. -/
theorem State.KeepsCues.silence (s : State) (l : LinkId) : s.KeepsCues (s.silence l) := by
  unfold State.silence
  split
  · exact .takeTimeout s l _
  · exact .refl s

/-- R1, R2: the measurement of a transition. -/
theorem State.KeepsCues.measure (s : State) (l : LinkId) (t : Nat) : s.KeepsCues (s.measure l t) := by
  cases hm : (s.link l).measuredFrom with
  | none => rw [State.measure_first hm]; exact .of_eq rfl
  | some m =>
    by_cases ht : t ≤ m
    · rw [State.measure_sameTick hm ht]
      exact .refl s
    by_cases hw : t - m + (s.link l).carry ≤ (s.link l).settings.filter
    · rw [State.measure_glitch hm (by omega) hw]
      exact .of_eq rfl
    · rw [State.measure_pulse hm (by omega) (by omega)]
      exact .afterSame (.takePulse _ l _ _ t) rfl

/-- R1: a transition. -/
theorem State.KeepsCues.transition (s : State) (l : LinkId) (t : Nat) : s.KeepsCues (s.transition l t) := by
  unfold State.transition
  split
  · split
    · exact (State.KeepsCues.takeTimeout s l _).trans (.measure _ l t)
    · exact .measure s l t
  · exact .refl s

/-- R13, R20: a restart. -/
theorem State.KeepsCues.restartLink (s : State) (l : LinkId) (t : Nat) : s.KeepsCues (s.restartLink l t) := by
  unfold State.restartLink
  dsimp only
  split
  · exact .afterSame (.announceDeparture _ l t) rfl
  · exact .of_eq rfl

/-- R9, R13: a link disabled. -/
theorem State.KeepsCues.disableLink (s : State) (l : LinkId) (t : Nat) : s.KeepsCues (s.disableLink l t) := by
  unfold State.disableLink
  dsimp only
  split
  · exact .afterSame (.announceDeparture _ l t) rfl
  · exact .of_eq rfl

/-- R19: the effect of LINK_SETUP. -/
theorem State.KeepsCues.setupLink (s : State) (l : LinkId) (enable : Bool) (k : LinkSettings) (t : Nat) :
    s.KeepsCues (s.setupLink l enable k t) := by
  unfold State.setupLink
  dsimp only
  split
  · split
    · split
      · exact .of_eq rfl
      · exact .afterSame (.restartLink _ l t) rfl
    · exact .afterSame (.disableLink _ l t) rfl
  · exact .of_eq (by split <;> rfl)

end Sys2Proof.Machine
end

section
/-! Every row of the table keeps the cue list of a safe run: CUE_ADD, CUE_DELETE and the taking of a FAULT request by what they
do to the list, the rows of the timebase and the receivers by what they ask for, and each other row because it leaves the
list as it is. -/

namespace Sys2Proof.Machine

/-! ### Codes of CUE_ADD (R132, R163) -/

/-- R132: the kinds a controller may give, by their codes. -/
theorem cueKind?_eq_some {b : Byte} {k : CueKind} : cueKind? b = some k ↔ cueKindCode k = b.toNat ∧ k ≠ .fault := by
  constructor
  · intro h
    simp only [cueKind?] at h
    split at h
    · next code => cases h; exact ⟨code.symm, nofun⟩
    · next code => cases h; exact ⟨code.symm, nofun⟩
    · next code => cases h; exact ⟨code.symm, nofun⟩
    · cases h
  · rintro ⟨code, given⟩
    simp only [cueKind?, ← code]
    cases k with
    | fault => exact absurd rfl given
    | _ => rfl

theorem exists_cueKind? {b : Byte} (h : b.toNat ≤ 2) : ∃ k, cueKind? b = some k := by
  have codes : b.toNat = 0 ∨ b.toNat = 1 ∨ b.toNat = 2 := by omega
  rcases codes with code | code | code
  · exact ⟨.mark, cueKind?_eq_some.2 ⟨code.symm, nofun⟩⟩
  · exact ⟨.sectionStart, cueKind?_eq_some.2 ⟨code.symm, nofun⟩⟩
  · exact ⟨.sectionEnd, cueKind?_eq_some.2 ⟨code.symm, nofun⟩⟩

theorem cueKind?_eq_none {b : Byte} (h : 2 < b.toNat) : cueKind? b = none := by
  simp only [cueKind?]
  split
  · omega
  · omega
  · omega
  · rfl

/-- R132: the labels that are accepted. -/
theorem labelAccepted_iff {label : List Byte} :
    labelAccepted label = true ↔ label.length ≤ 10 ∧ ∀ x ∈ label, 32 ≤ x.toNat ∧ x.toNat ≤ 126 := by
  simp only [labelAccepted, Bool.and_eq_true, decide_eq_true_eq, List.all_eq_true]

/-! ### The rules of the commands -/

/-- R132, R133: CUE_ADD. -/
theorem State.KeepsCues.cueAddRule (p : Port) (ps : List Byte) (s : State) :
    s.KeepsCues (Machine.cueAddRule p ps s).1 := by
  unfold Machine.cueAddRule
  split
  · split
    · next k explicit hk _ =>
      split
      · next accepted =>
        split
        · exact .refl s
        · next room =>
          have own : k = .fault ↔ CueOrigin.port p = .part := by simp [(cueKind?_eq_some.1 hk).2]
          exact ⟨fun hs => hs.add (Nat.lt_of_not_le room) (labelAccepted_iff.1 accepted).1 own _⟩
      · exact .refl s
    · exact .refl s
  · exact .refl s

/-- R135: CUE_DELETE. -/
theorem State.KeepsCues.cueDeleteRule (p : Port) (ps : List Byte) (s : State) :
    s.KeepsCues (Machine.cueDeleteRule p ps s).1 := by
  unfold Machine.cueDeleteRule
  split
  · dsimp only
    split
    · exact .refl s
    · split
      · exact ⟨fun hs => hs.filter _⟩
      · exact .refl s
  · exact .refl s

/-- R33: ARM. -/
theorem State.KeepsCues.armRule (ps : List Byte) (s : State) : s.KeepsCues (Machine.armRule ps s).1 := by
  unfold Machine.armRule
  split
  · exact .refl s
  · split
    · exact ⟨fun hs => by simpa using hs.emptied⟩
    · exact .refl s

/-- R19: LINK_SETUP. -/
theorem State.KeepsCues.linkSetupRule (ps : List Byte) (s : State) : s.KeepsCues (Machine.linkSetupRule ps s).1 := by
  unfold Machine.linkSetupRule
  split
  · dsimp only
    split
    · split
      · exact .setupLink s _ _ _ _
      · exact .refl s
    · exact .refl s
  · exact .refl s

/-- R20: LINK_RESTART. -/
theorem State.KeepsCues.linkRestartRule (ps : List Byte) (s : State) :
    s.KeepsCues (Machine.linkRestartRule ps s).1 := by
  unfold Machine.linkRestartRule
  split
  · split
    · split
      · exact .refl s
      · exact .restartLink s _ _
    · exact .refl s
  · exact .refl s

/-- R29: CLOCK_SETUP. -/
theorem State.KeepsCues.clockSetupRule (ps : List Byte) (s : State) : s.KeepsCues (Machine.clockSetupRule ps s).1 := by
  unfold Machine.clockSetupRule
  split
  · split
    · split
      · exact .refl s
      · exact .setClock s _ _ _
    · exact .refl s
  · exact .refl s

/-- The commands whose rules leave the cue list alone. -/
def Command.leavesCues : Command → Bool
  | .linkSetup | .linkRestart | .clockSetup | .arm | .cueAdd | .cueDelete => false
  | .linkStatus | .linkCounters | .disarm | .roll | .close | .abort | .trackMapSet | .trackMapGet | .gainSet
  | .gainApply | .gainDiscard | .gainGet | .archiveSetup | .archiveGet | .streamSetup | .streamGet | .storeSetup
  | .subscribe | .unsubscribe | .next | .release | .feedStatus | .cueList | .portMode | .events | .eventMask
  | .status => true

/-- 10 §10.5: those rules, branch by branch. -/
theorem Command.rule_cues {c : Command} (h : c.leavesCues = true) (p : Port) (ps : List Byte) (s : State) :
    (c.rule p ps s).1.cues = s.cues := by
  cases c
  case linkSetup | linkRestart | clockSetup | arm | cueAdd | cueDelete => cases h
  all_goals
    simp only [Command.rule, linkStatusRule, linkCountersRule, disarmRule, rollRule, closeRule, abortRule,
      trackMapSetRule, trackMapGetRule, gainSetRule, gainApplyRule, gainDiscardRule, gainGetRule, archiveSetupRule,
      archiveGetRule, streamSetupRule, streamGetRule, storeSetupRule, subscribeRule, unsubscribeRule, nextRule,
      releaseRule, feedStatusRule, cueListRule, portModeRule, eventsRule, eventMaskRule, statusRule]
    repeat' split
    all_goals simp

/-- 10 §10.5: the rule of every command keeps the cue list. -/
theorem Command.rule_keepsCues (c : Command) (p : Port) (ps : List Byte) (s : State) :
    s.KeepsCues (c.rule p ps s).1 := by
  by_cases h : c.leavesCues = true
  · exact .of_eq (Command.rule_cues h p ps s)
  · cases c
    case linkSetup => exact .linkSetupRule ps s
    case linkRestart => exact .linkRestartRule ps s
    case clockSetup => exact .clockSetupRule ps s
    case arm => exact .armRule ps s
    case cueAdd => exact .cueAddRule p ps s
    case cueDelete => exact .cueDeleteRule p ps s
    all_goals exact absurd rfl h

/-- R146: a command's row keeps the cue list as its rule does. -/
theorem State.KeepsCues.runCommand (s : State) (c : Command) (p : Port) (clocks : List Lanes) :
    s.KeepsCues (s.runCommand c (c.rule p) p clocks) :=
  State.runCommand_induction (.refl s) (.setPort s p)
    (fun ps q x => (State.KeepsCues.setPort s p q).trans ((c.rule_keepsCues p ps _).trans (.setPort _ p x))) c clocks

/-! ### Events (R31, R137, R159, R164) -/

/-- R137: the oldest FAULT request taken. -/
theorem State.KeepsCues.takeFaultRequest (s : State) : s.KeepsCues s.takeFaultRequest := by
  unfold State.takeFaultRequest
  split
  · exact .refl s
  · next r rest queue =>
    have taken : s.cues.Sound → Cues.Sound { s.cues with requests := rest } := fun hs => by
      have few := hs.requests
      rw [queue, List.length_cons] at few
      exact hs.withRequests (by omega) fun x hx => hs.requestLabels x (by simp [queue, hx])
    dsimp only
    split
    · next room =>
      exact ⟨fun hs => (taken hs).add room (hs.requestLabels r (by simp [queue])) (iff_of_true rfl rfl) r.position⟩
    · exact ⟨taken⟩

/-- R159: a step that RESET holds back. -/
theorem State.KeepsCues.unlessHeld {s u : State} (h : s.KeepsCues u) (held : Bool) :
    s.KeepsCues (if held then s else u) := by
  split
  · exact .refl s
  · exact h

/-- R159: an event of a block. -/
theorem State.KeepsCues.eventAt (s : State) (t : Nat) {effect : State → State} (h : ∀ u : State, u.KeepsCues (effect u)) :
    s.KeepsCues (s.eventAt t effect) :=
  .afterSame ((h _).unlessHeld _) (State.advance_cues s t)

/-- R164: steps at the links. -/
theorem State.KeepsCues.linkSteps (s : State) (steps : List LinkStep) : s.KeepsCues (s.linkSteps steps) := by
  have one : ∀ (u : State) (a : LinkStep), u.KeepsCues (u.linkStep a) := fun u a => by
    cases a with
    | transition l => exact .transition u l u.now
    | timeout l => exact .silence u l
    | restart p clocks => exact .runCommand u .linkRestart p clocks
    | setup p clocks => exact .runCommand u .linkSetup p clocks
  induction steps generalizing s with
  | nil => exact .refl s
  | cons a rest ih => exact (one s a).trans (ih _)

/-- R31, R45, R164: a sample-period event, with link steps before the framer asks. -/
theorem State.KeepsCues.sampleIf (s : State) (wanted : State → Bool) {between : State → State}
    (hb : ∀ u : State, u.KeepsCues (between u)) : s.KeepsCues (s.sampleIf wanted between) := by
  unfold State.sampleIf
  split
  · next r u hu =>
    split
    · obtain ⟨last, due, rfl, -⟩ := State.sampleBy?_some hu
      refine .afterSame (.trans (hb (State.adoptRate { s with
        timebase := { s.timebase with lastSample := last, edgesDue := due } }).advancePosition) (.of_eq ?_)) (by simp)
      simp [State.samplePeriod]
    · exact .refl s
  · exact .refl s

/-- R146: BAD_COMMAND touches its port alone. -/
theorem execBadCommand_keepsCues {s t : State} {p : Port} {clocks : List Lanes}
    (h : execBadCommand p clocks s = .next t) : s.KeepsCues t := by
  cases h
  refine State.KeepsCues.unlessHeld ?_ _
  split
  · next u f hf =>
    split
    · rw [State.frameEnds_frame hf]
      exact .of_eq (by simp)
    · exact .refl s
  · exact .of_eq (by simp)

/-- 08 §8.1: the cue list after reset. -/
theorem Cues.reset_sound : Cues.Sound ⟨[], 1, []⟩ := by constructor <;> decide

/-! ### Every row -/

/-- 95: every row of the table keeps the cue list of a safe run. -/
theorem exec_keepsCues {i : Instr} {s t : State} (h : exec i s = .next t) : s.KeepsCues t := by
  have command : ∀ {p clocks c}, commandRow? i = some (p, clocks, c) → s.KeepsCues t := by
    intro p clocks c row
    rw [exec_command row] at h
    cases h
    exact .afterSame (.runCommand _ c p clocks) rfl
  cases i with
  | lineTransition l t => cases h; exact .eventAt s t fun u => .transition u l u.now
  | edgeTimeout l t => cases h; exact .eventAt s t fun u => .silence u l
  | wclkEdge t =>
    cases h
    refine .eventAt s t fun u => ?_
    split
    · exact .referenceEdge u _
    · exact .refl u
  | latePeriod t =>
    cases h
    refine .eventAt s t fun u => ?_
    split
    · exact .takeLate u _
    · exact .refl u
  | referenceAbsent t =>
    cases h
    refine .eventAt s t fun u => ?_
    split
    · exact .takeAbsence u _
    · exact .refl u
  | samplePeriodEvent x => cases h; exact .eventAt s x.tick fun u => .sampleIf u _ fun w => .linkSteps w x.between
  | takeLengthLimit t => cases h; exact .eventAt s t fun u => .sampleIf u _ .refl
  | positionLimit t => cases h; exact .eventAt s t fun u => .sampleIf u _ .refl
  | nextWaitExpiry p t => cases h; exact .eventAt s t fun u => .sampleIf u _ .refl
  | recordPlacement => cases h; exact State.KeepsCues.unlessHeld (.of_eq (by simp)) _
  | recordPublication => cases h; exact State.KeepsCues.unlessHeld (.of_eq (by simp)) _
  | faultRequestTaken => cases h; exact (State.KeepsCues.takeFaultRequest s).unlessHeld _
  | frameStart p clocks ended => cases h; exact State.KeepsCues.unlessHeld (.of_eq (by simp)) _
  | frameAbandoned p => cases h; exact (State.KeepsCues.setPort s p _).unlessHeld _
  | receiveTimeout x => cases h; exact (State.KeepsCues.setPort s x.port _).unlessHeld _
  | badCommand p clocks => exact execBadCommand_keepsCues h
  | read p clocks => cases h; exact State.KeepsCues.unlessHeld (.of_eq (by simp)) _
  | responseEnd p clocks => cases h; exact State.KeepsCues.unlessHeld (.of_eq (by simp)) _
  | reset t => cases h; exact ⟨fun _ => Cues.reset_sound⟩
  | resetEnd t =>
    cases h
    split
    · exact ⟨fun _ => Cues.reset_sound⟩
    · exact .of_eq rfl
  | _ => exact command rfl

/-- Settles O7: the row at the front of the queue keeps the cue list, and with an empty queue the part idles. -/
theorem stepsKeepCuesSound : Obligations.StepsKeepCuesSound := by
  intro s t sound hstep
  cases hq : s.pending with
  | nil =>
    simp only [step, hq] at hstep
    cases hstep
    exact sound
  | cons i rest =>
    simp only [step, hq] at hstep
    exact (exec_keepsCues (s := { s with pending := rest }) hstep).sound sound

end Sys2Proof.Machine
end

section
/-! CUE_ADD, CUE_DELETE, CUE_LIST and the taking of FAULT requests (08; R130 to R138). -/

namespace Sys2Proof.Machine

/-! ### The place and the id of a new entry (R130, R131) -/

section
variable {c : Cues} (sound : c.Sound) (room : c.entries.length < 128)
include sound room

/-- R131: the id of a new entry is the first that no entry holds, from the counter upward. -/
theorem Cues.Sound.newId_first : (∀ x ∈ c.entries, x.id ≠ c.newId) ∧
    ∃ n, n < 129 ∧ c.newId = (c.nextId - 1 + n) % 65535 + 1 ∧
      ∀ m, m < n → ∃ x ∈ c.entries, x.id = (c.nextId - 1 + m) % 65535 + 1 := by
  obtain ⟨low, high⟩ := sound.nextId
  have search := freeIdFrom_spec c.entries 129 c.nextId (exists_free_id (by omega) low high)
  simp only [iterate_idAfter low high] at search
  exact search

/-- R130, R131: a new entry stands between the entries before it and those after it, and the counter is past its id. -/
theorem Cues.Sound.add_between (position : Nat) (kind : CueKind) (label : List Byte) (origin : CueOrigin) :
    ∃ before after, c.entries = before ++ after ∧
      (∀ x ∈ before, cueBefore x ⟨c.newId, position, kind, label, origin⟩ = true) ∧
      (∀ x ∈ after, cueBefore ⟨c.newId, position, kind, label, origin⟩ x = true) ∧
      c.add position kind label origin = { c with
        entries := before ++ ⟨c.newId, position, kind, label, origin⟩ :: after
        nextId := if c.newId < 65535 then c.newId + 1 else 1 } := by
  obtain ⟨free, -⟩ := sound.newId_first room
  obtain ⟨before, after, split, inserted, earlier, later⟩ :=
    insertCue_ordered (c := ⟨c.newId, position, kind, label, origin⟩) sound.ordered free
  refine ⟨before, after, split, earlier, later, ?_⟩
  rw [Cues.add, inserted]
  rfl

end

/-- R133: the place of an entry whose id no entry before it holds. -/
theorem findIdx_id {before : List Cue} {d : Cue} (free : ∀ x ∈ before, x.id ≠ d.id) (after : List Cue) :
    (before ++ d :: after).findIdx (fun x => x.id == d.id) = before.length := by
  induction before with
  | nil => simp [List.findIdx_cons]
  | cons x rest ih =>
    have other : (x.id == d.id) = false := beq_false_of_ne (free x List.mem_cons_self)
    rw [List.cons_append, List.findIdx_cons, other, cond_false, ih fun y hy => free y (List.mem_cons_of_mem x hy),
      List.length_cons]

/-! ### Late cues (R134) -/

/-- R134: a position before the block being gathered, or before the end position of a take that gathers no more. -/
def State.CueLate (s : State) (position : Nat) : Prop :=
  (∃ i, (s.take.state = .rolling ∨ s.take.state = .closing) ∧ s.take.gathering = true ∧ s.framer.filling? = some i ∧
    position < (s.framer.buffer i).start) ∨
  (s.take.state = .closing ∧ s.take.gathering = false ∧ position < s.take.endPosition)

/-- R134, R46: the late limit of a cue is the start of the block being gathered, or the end position. -/
theorem State.lateLimit_eq_some {s : State} {limit : Nat} : s.lateLimit = some limit ↔
    (∃ i, (s.take.state = .rolling ∨ s.take.state = .closing) ∧ s.take.gathering = true ∧ s.framer.filling? = some i ∧
      limit = (s.framer.buffer i).start) ∨
    (s.take.state = .closing ∧ s.take.gathering = false ∧ limit = s.take.endPosition) := by
  have gathered : s.gatheredStart = some limit ↔ s.take.gathering = true ∧ ∃ i, s.framer.filling? = some i ∧
      limit = (s.framer.buffer i).start := by
    unfold State.gatheredStart
    split
    · next gathering => simp [gathering, eq_comm]
    · next idle => simp [idle]
  unfold State.lateLimit
  cases state : s.take.state with
  | idle => simp
  | armed => simp
  | starting => simp
  | rolling => simp [gathered]
  | closing => cases gathering : s.take.gathering <;> simp [gathered, gathering, eq_comm]

theorem State.cueLate_iff {s : State} {position : Nat} :
    s.CueLate position ↔ ∃ limit, s.lateLimit = some limit ∧ position < limit := by
  simp only [State.lateLimit_eq_some, State.CueLate]
  constructor
  · rintro (⟨i, state, gathering, filling, before⟩ | ⟨state, gathering, before⟩)
    · exact ⟨_, .inl ⟨i, state, gathering, filling, rfl⟩, before⟩
    · exact ⟨_, .inr ⟨state, gathering, rfl⟩, before⟩
  · rintro ⟨_, ⟨i, state, gathering, filling, rfl⟩ | ⟨state, gathering, rfl⟩, before⟩
    · exact .inl ⟨i, state, gathering, filling, before⟩
    · exact .inr ⟨state, gathering, before⟩

/-- R134: OK_LATE for a late cue, OK for any other. -/
theorem State.cueStatus_cases (s : State) (position : Nat) :
    (s.CueLate position ∧ s.cueStatus position = .okLate) ∨ (¬ s.CueLate position ∧ s.cueStatus position = .ok) := by
  rw [State.cueLate_iff]
  cases h : s.lateLimit with
  | none => exact .inr ⟨by simp, by simp only [State.cueStatus, h]⟩
  | some limit =>
    by_cases before : position < limit
    · exact .inl ⟨⟨limit, rfl, before⟩, by simp only [State.cueStatus, h, if_pos before]⟩
    · exact .inr ⟨by simpa using before, by simp only [State.cueStatus, h, if_neg before]⟩

/-! ### CUE_ADD (R132 to R134) -/

section
variable {s : State} {p : Port} {kind mode a b c d f g len : Byte} {label : List Byte} {k : CueKind}

/-- R132: a kind, a position mode or a label that is none. -/
theorem cueAddRule_range (bad : cueKind? kind = none ∨ flag? mode = none ∨ labelAccepted label = false) :
    cueAddRule p (kind :: mode :: a :: b :: c :: d :: f :: g :: len :: label) s = (s, .refuse .range) := by
  simp only [cueAddRule]
  split
  · next hk hm =>
    have refused : labelAccepted label = false := by simpa [hk, hm] using bad
    simp [refused]
  · rfl

variable (hk : cueKind? kind = some k) (hm : mode.toNat ≤ 1) (accepted : labelAccepted label = true)
include hk hm accepted

/-- R132: a full list. -/
theorem cueAddRule_full (full : 128 ≤ s.cues.entries.length) :
    cueAddRule p (kind :: mode :: a :: b :: c :: d :: f :: g :: len :: label) s = (s, .refuse .full) := by
  simp only [cueAddRule, hk, flag?_eq_some hm, if_pos accepted, if_pos full]

/-- R132 to R134: a cue added. -/
theorem cueAddRule_ok (room : s.cues.entries.length < 128) {position : Nat}
    (hp : position = if mode.toNat = 0 then s.timebase.position else numberOf [a, b, c, d, f, g]) :
    cueAddRule p (kind :: mode :: a :: b :: c :: d :: f :: g :: len :: label) s =
      ({ s with cues := s.cues.add position k label (.port p) }.raiseOthers .cueChange p,
        .response (Response.of (s.cueStatus position)
          (cueAddData s.cues.newId position (s.cues.add position k label (.port p)).entries))) := by
  have used : (if decide (mode = 1) = true then numberOf [a, b, c, d, f, g] else s.timebase.position) = position := by
    rw [hp]
    rcases byte_of_toNat_le_one hm with rfl | rfl <;> rfl
  simp only [cueAddRule, hk, flag?_eq_some hm, if_pos accepted, if_neg (not_le.2 room), used]

end

/-- Settles O59, by what CUE_ADD refuses, and by the id, the place and the lateness of the cue it adds. -/
theorem cueAddInsertsInOrder : Obligations.CueAddInsertsInOrder := by
  intro s p clocks e kind mode a b c d f g len label h hlen h241
  have length : requiredLength .cueAdd (kind :: mode :: a :: b :: c :: d :: f :: g :: len :: label) =
      some (kind :: mode :: a :: b :: c :: d :: f :: g :: len :: label).length := by
    simp [requiredLength, hlen]
    omega
  have h250 : (kind :: mode :: a :: b :: c :: d :: f :: g :: len :: label).length ≤ 250 := by
    simp only [List.length_cons]
    omega
  have refuses : ∀ {st}, cueAddRule p (kind :: mode :: a :: b :: c :: d :: f :: g :: len :: label) (s.setPort p e) =
      (s.setPort p e, .refuse st) →
      exec (.cueAdd p clocks) s = .next { s with ports := s.portsAfter p (e.holds st []) id } :=
    exec_refuses (i := .cueAdd p clocks) rfl h length h250 rfl
  refine ⟨fun bad => refuses (cueAddRule_range ?_), fun hkind hm short chars => ?_⟩
  · have unaccepted : ¬ (label.length ≤ 10 ∧ ∀ x ∈ label, 32 ≤ x.toNat ∧ x.toNat ≤ 126) →
        labelAccepted label = false := fun no => Bool.eq_false_iff.2 (mt labelAccepted_iff.1 no)
    rcases bad with bad | bad | bad | ⟨x, hx, bad⟩
    · exact .inl (cueKind?_eq_none bad)
    · exact .inr (.inl (flag?_eq_none bad))
    · exact .inr (.inr (unaccepted fun ok => by omega))
    · exact .inr (.inr (unaccepted fun ok => by have := ok.2 x hx; omega))
  have accepted : labelAccepted label = true := labelAccepted_iff.2 ⟨short, chars⟩
  obtain ⟨k, hk⟩ := exists_cueKind? hkind
  refine ⟨fun full => refuses (cueAddRule_full (s := s.setPort p e) hk hm accepted full), fun room sound => ?_⟩
  intro position late
  obtain ⟨free, search⟩ := sound.newId_first room
  obtain ⟨before, after, split, earlier, later, added⟩ := sound.add_between room position k label (.port p)
  refine ⟨⟨s.cues.newId, position, k, label, .port p⟩, before, after, s.cueStatus position, (cueKind?_eq_some.1 hk).1, rfl,
    rfl, rfl, free, Cues.newId_of_free, search, split, earlier, later, s.cueStatus_cases position, ?_⟩
  have place : (before ++ (⟨s.cues.newId, position, k, label, .port p⟩ : Cue) :: after).findIdx
      (fun x => x.id == s.cues.newId) = before.length :=
    findIdx_id (d := ⟨s.cues.newId, position, k, label, .port p⟩) (fun x hx => free x (by simp [split, hx])) after
  have count : (before ++ (⟨s.cues.newId, position, k, label, .port p⟩ : Cue) :: after).length =
      s.cues.entries.length + 1 := by
    simp [split, Nat.add_assoc]
  rw [exec_answersNow (i := .cueAdd p clocks) rfl h length h250 rfl
    (cueAddRule_ok (s := s.setPort p e) (len := len) hk hm accepted room (position := position) rfl)]
  refine (congrArg _ (State.answer_others (s := s) (e := e) rfl ..)).trans ?_
  simp only [State.setPort_cues, added, cueAddData, place, count]
  rfl

/-! ### CUE_DELETE (R135) -/

section
variable {s : State} {p : Port} {hi lo : Byte}

theorem cueDeleteRule_range (zero : numberOf [hi, lo] = 0) : cueDeleteRule p [hi, lo] s = (s, .refuse .range) :=
  if_pos zero

variable (given : numberOf [hi, lo] ≠ 0)
include given

theorem cueDeleteRule_notFound (absent : ∀ c ∈ s.cues.entries, c.id ≠ numberOf [hi, lo]) :
    cueDeleteRule p [hi, lo] s = (s, .refuse .notFound) :=
  (if_neg given).trans (if_neg (by simpa using absent))

theorem cueDeleteRule_ok (present : ∃ c ∈ s.cues.entries, c.id = numberOf [hi, lo]) {rest : List Cue}
    (hrest : rest = s.cues.entries.filter fun c => decide (c.id ≠ numberOf [hi, lo])) :
    cueDeleteRule p [hi, lo] s =
      ({ s with cues := { s.cues with entries := rest } }.raiseOthers .cueChange p, .ok (bytesOf 1 rest.length)) := by
  have same : (s.cues.entries.filter fun c => c.id != numberOf [hi, lo]) = rest := by
    rw [hrest]
    exact List.filter_congr fun c _ => Bool.eq_iff_iff.2 (by simp)
  simp only [cueDeleteRule, if_neg given, if_pos (show (s.cues.entries.any fun c => c.id == numberOf [hi, lo]) = true by
    simpa using present), same]

end

/-! ### FAULT requests (R137, R138) -/

section
variable {s : State} {r : FaultRequest} {rest : List FaultRequest} (queue : s.cues.requests = r :: rest)
include queue

/-- R138: a FAULT request is dropped at a full list. -/
theorem State.takeFaultRequest_full (full : 128 ≤ s.cues.entries.length) :
    s.takeFaultRequest = { s with cues := { s.cues with requests := rest } } := by
  simp only [State.takeFaultRequest, queue, if_neg (not_lt.2 full)]

/-- R137: a FAULT request becomes the part's own cue. -/
theorem State.takeFaultRequest_adds (room : s.cues.entries.length < 128) :
    s.takeFaultRequest = { s with
      cues := { s.cues.add r.position .fault r.label .part with requests := rest }
      ports := s.portsRaised .cueChange } := by
  simp only [State.takeFaultRequest, queue, if_pos room]
  rfl

end

/-- Settles O60, by the rules of the two commands, and by the request and the room that the taking finds. -/
theorem cueListIsKept : Obligations.CueListIsKept := by
  refine ⟨fun s p clocks e hi lo h => ?_, fun s p clocks e start count h => ⟨fun bad => ?_, fun low least most => ?_⟩,
    fun s running => ⟨fun empty => ?_, fun r rest queue => ⟨fun full => ?_, fun room sound => ?_⟩⟩⟩
  · intro id rest
    refine ⟨fun zero => ?_, fun given absent => ?_, fun given present => ?_⟩
    · exact exec_refuses (i := .cueDelete p clocks) rfl h rfl (by simp) rfl (cueDeleteRule_range zero)
    · exact exec_refuses (i := .cueDelete p clocks) rfl h rfl (by simp) rfl
        (cueDeleteRule_notFound (s := s.setPort p e) given absent)
    · rw [exec_answersNow (i := .cueDelete p clocks) rfl h rfl (by simp) rfl
        (cueDeleteRule_ok (s := s.setPort p e) given present (rest := rest) rfl)]
      exact congrArg _ (State.answer_others (s := s) (e := e) rfl ..)
  · exact exec_refuses (i := .cueList p clocks) rfl h rfl (by simp) rfl (if_neg (by omega))
  · exact ⟨length_cueListBytes, exec_reads (i := .cueList p clocks) rfl h rfl (by simp) rfl (if_pos ⟨low, least, most⟩)⟩
  · simp [exec, execFaultRequestTaken, running, State.takeFaultRequest, empty]
  · simp only [exec, execFaultRequestTaken, running, State.takeFaultRequest_full queue full]
    rfl
  · obtain ⟨free, search⟩ := sound.newId_first room
    obtain ⟨before, after, split, earlier, later, added⟩ := sound.add_between room r.position .fault r.label .part
    refine ⟨⟨s.cues.newId, r.position, .fault, r.label, .part⟩, before, after, rfl, rfl, rfl, rfl, free, search, split,
      earlier, later, ?_⟩
    simp only [exec, execFaultRequestTaken, running, State.takeFaultRequest_adds queue room, added]
    rfl

end Sys2Proof.Machine
end

section
/-! Steps that only raise events at the ports (09 §9.7; R154, R155): each operation of the timebase, of a receiver, of the
capture framer and of the cue list, the removals of the store, and what the engine goes on with. -/

namespace Sys2Proof.Machine

/-! ### Events told to ports -/

/-- R154, R155: port `b` is port `a` with events raised at most, and its ATTN follows its events if that of `a` does. -/
structure PortState.Told (a b : PortState) : Prop where
  same : a.sameTransaction b
  attn : a.attnAsserted = attnOf a.events a.mask → b.attnAsserted = attnOf b.events b.mask

theorem PortState.Told.refl (q : PortState) : q.Told q := ⟨q.sameTransaction_refl, id⟩

theorem PortState.Told.raise (q : PortState) (k : EventKind) : q.Told (q.raise k) :=
  ⟨q.sameTransaction_raise k, fun _ => rfl⟩

theorem PortState.Told.trans {a b c : PortState} (h : a.Told b) (h' : b.Told c) : a.Told c :=
  ⟨h.same.trans h'.same, fun attn => h'.attn (h.attn attn)⟩

theorem PortState.Told.phase_eq {a b : PortState} (h : a.Told b) : b.phase = a.phase := by rw [h.same.1]

/-- R154: an event raised at a port under a condition. -/
theorem PortState.Told.raiseIf (c : Prop) [Decidable c] (q : PortState) (k : EventKind) :
    q.Told (if c then q.raise k else q) := by
  split
  · exact .raise q k
  · exact .refl q

/-- `u` comes from `s` with events raised at the ports, and every NEXT wait as it was. -/
structure State.RaisesOnly (s u : State) : Prop where
  ports : ∀ p, (s.port p).Told (u.port p)
  waits : ∀ p, (u.feed p).wait = (s.feed p).wait
  held : u.resetHeld = s.resetHeld

section
variable {s u v : State}

/-- What leaves the ports and the feed states raises nothing. -/
theorem State.RaisesOnly.of_same (h : u.ports = s.ports ∧ u.feeds = s.feeds ∧ u.resetHeld = s.resetHeld) :
    s.RaisesOnly u := by
  obtain ⟨ports, feeds, held⟩ := h
  refine ⟨fun p => ?_, fun p => ?_, held⟩
  · rw [← State.ports_get u, ports]
    exact .refl _
  · rw [← State.feeds_get, feeds]
    rfl

theorem State.RaisesOnly.refl (s : State) : s.RaisesOnly s := .of_same ⟨rfl, rfl, rfl⟩

theorem State.RaisesOnly.trans (h : s.RaisesOnly u) (h' : u.RaisesOnly v) : s.RaisesOnly v :=
  ⟨fun p => (h.ports p).trans (h'.ports p), fun p => (h'.waits p).trans (h.waits p), h'.held.trans h.held⟩

/-- A step that only raises events, after a change of other blocks. -/
theorem State.RaisesOnly.afterSame (h : u.RaisesOnly v)
    (e : u.ports = s.ports ∧ u.feeds = s.feeds ∧ u.resetHeld = s.resetHeld) : s.RaisesOnly v :=
  (State.RaisesOnly.of_same e).trans h

/-- A step that only raises events, before a change of other blocks. -/
theorem State.RaisesOnly.thenSame (h : s.RaisesOnly u)
    (e : v.ports = u.ports ∧ v.feeds = u.feeds ∧ v.resetHeld = u.resetHeld) : s.RaisesOnly v :=
  h.trans (.of_same e)

end

theorem State.RaisesOnly.raiseAll (s : State) (k : EventKind) : s.RaisesOnly (s.raiseAll k) :=
  ⟨fun p => by rw [State.raiseAll_port]; exact .raise _ k, fun _ => rfl, rfl⟩

/-- R154: a step that raises event `k` at every port. -/
theorem State.RaisesOnly.of_raised {s u : State} {k : EventKind} (ports : u.ports = s.portsRaised k)
    (same : u.feeds = s.feeds ∧ u.resetHeld = s.resetHeld) : s.RaisesOnly u :=
  .thenSame (.raiseAll s k) ⟨ports, same⟩

theorem State.RaisesOnly.raiseOthers (s : State) (k : EventKind) (p : Port) : s.RaisesOnly (s.raiseOthers k p) := by
  refine ⟨fun q => ?_, fun _ => rfl, rfl⟩
  rw [State.raiseOthers_port]
  split
  · exact .refl _
  · exact .raise _ k

/-! ### The timebase (R24 to R30) -/

/-- R30: a change of timebase state. -/
theorem State.RaisesOnly.toClock (s : State) (c : ClockState) : s.RaisesOnly (s.toClock c) := by
  unfold State.toClock
  split
  · exact .refl s
  · exact .afterSame (.raiseAll _ .clockChange) ⟨rfl, rfl, rfl⟩

/-- R28: entry to HOLDOVER. -/
theorem State.RaisesOnly.enterHoldover (s : State) (t : Nat) : s.RaisesOnly (s.enterHoldover t) :=
  (State.RaisesOnly.toClock s .holdover).thenSame (by simp [State.enterHoldover])

/-- R24: a bad period raises an event in LOCKED alone. -/
theorem State.RaisesOnly.badPeriod (s : State) (t : Nat) : s.RaisesOnly (s.badPeriod t) := by
  unfold State.badPeriod
  cases s.timebase.clock with
  | free => exact .refl s
  | holdover => exact .refl s
  | acquire => exact .of_same ⟨rfl, rfl, rfl⟩
  | locked => exact .enterHoldover s t

/-- R27: entry to LOCKED. -/
theorem State.RaisesOnly.enterLocked (s : State) (e : Nat) : s.RaisesOnly (s.enterLocked e) := by
  unfold State.enterLocked
  dsimp only
  split
  · exact (State.RaisesOnly.toClock s .locked).thenSame ⟨rfl, rfl, rfl⟩
  · exact (State.RaisesOnly.toClock s .locked).thenSame ⟨rfl, rfl, rfl⟩

/-- R24 to R28: a good period. -/
theorem State.RaisesOnly.goodPeriod (s : State) (e : Nat) : s.RaisesOnly (s.goodPeriod e) := by
  unfold State.goodPeriod
  cases s.timebase.clock with
  | free => exact .refl s
  | locked => exact .of_same ⟨rfl, rfl, rfl⟩
  | holdover => exact (State.RaisesOnly.toClock s .acquire).thenSame ⟨rfl, rfl, rfl⟩
  | acquire =>
    dsimp only
    split
    · exact .of_same ⟨rfl, rfl, rfl⟩
    · exact .enterLocked s e

/-- R24: a late period. -/
theorem State.RaisesOnly.takeLate (s : State) (t : Nat) : s.RaisesOnly (s.takeLate t) :=
  .afterSame (.badPeriod _ t) ⟨rfl, rfl, rfl⟩

/-- R24: an absence. -/
theorem State.RaisesOnly.takeAbsence (s : State) (t : Nat) : s.RaisesOnly (s.takeAbsence t) :=
  .afterSame (.badPeriod _ t) ⟨rfl, rfl, rfl⟩

/-- R24: the period that an edge ends. -/
theorem State.RaisesOnly.judgeEdge (s : State) (e : Nat) : s.RaisesOnly (s.judgeEdge e) := by
  unfold State.judgeEdge
  split
  · exact .refl s
  · split
    · exact .badPeriod s e
    · exact .goodPeriod s e

/-- R23: a reference edge. -/
theorem State.RaisesOnly.referenceEdge (s : State) (e : Nat) : s.RaisesOnly (s.referenceEdge e) := by
  unfold State.referenceEdge
  split
  · exact ((State.RaisesOnly.takeLate s _).trans (.judgeEdge _ e)).thenSame ⟨rfl, rfl, rfl⟩
  · exact (State.RaisesOnly.judgeEdge s e).thenSame ⟨rfl, rfl, rfl⟩

/-- R29: the effect of CLOCK_SETUP. -/
theorem State.RaisesOnly.setClock (s : State) (ref : Reference) (rate : SessionRate) (t : Nat) :
    s.RaisesOnly (s.setClock ref rate t) := by
  by_cases same : ref = s.timebase.reference ∧ rate = s.timebase.rate
  · rw [State.setClock_same same]
    exact .refl s
  by_cases hc : s.timebase.clock = .locked
  · rw [State.setClock_locked same t hc]
    exact .of_raised rfl ⟨rfl, rfl⟩
  · rw [State.setClock_unlocked same t hc]
    split
    · exact .of_same ⟨rfl, rfl, rfl⟩
    · exact .of_raised rfl ⟨rfl, rfl⟩

/-! ### The receivers (R3 to R13) -/

/-- R13: a departure from LOCKED. -/
theorem State.RaisesOnly.announceDeparture (s : State) (l : LinkId) (t : Nat) :
    s.RaisesOnly (s.announceDeparture l t) := by
  have asked : s.RaisesOnly ((s.raiseAll .linkChange).requestFault (linkLostLabel l)) :=
    (State.RaisesOnly.raiseAll s .linkChange).thenSame (by simp)
  unfold State.announceDeparture State.referenceLinkLost
  split
  · exact asked.trans (.takeAbsence _ t)
  · exact asked

/-- R13: a link leaves LOCKED. -/
theorem State.RaisesOnly.departLink (s : State) (l : LinkId) (target : LockState) (t : Nat) :
    s.RaisesOnly (s.departLink l target t) :=
  .afterSame (.announceDeparture _ l t) ⟨rfl, rfl, rfl⟩

/-- R8, R11, R12, R15: a good frame. -/
theorem State.RaisesOnly.goodFrame (s : State) (l : LinkId) (f : LinkFrame) : s.RaisesOnly (s.goodFrame l f) := by
  cases hl : (s.link l).lock with
  | disabled => rw [State.goodFrame_unlocked (.inl hl)]; exact .refl s
  | hunt => rw [State.goodFrame_unlocked (.inr hl)]; exact .refl s
  | locked => rw [State.goodFrame_locked hl]; exact .of_same (by dsimp only; split <;> simp)
  | sync =>
    rw [State.goodFrame_sync hl]
    split
    · exact .of_same ⟨rfl, rfl, rfl⟩
    · exact .afterSame (.raiseAll _ .linkChange) ⟨rfl, rfl, rfl⟩

/-- R7, R11, R12: a bad frame. -/
theorem State.RaisesOnly.badFrame (s : State) (l : LinkId) (t : Nat) : s.RaisesOnly (s.badFrame l t) := by
  cases hl : (s.link l).lock with
  | disabled => rw [State.badFrame_unlocked (.inl hl)]; exact .refl s
  | hunt => rw [State.badFrame_unlocked (.inr hl)]; exact .refl s
  | sync => rw [State.badFrame_sync hl]; exact .of_same ⟨rfl, rfl, rfl⟩
  | locked =>
    by_cases hr : (s.link l).badRun < 2
    · rw [State.badFrame_locked hl hr]
      exact .of_same ⟨rfl, rfl, rfl⟩
    · rw [State.badFrame_departs hl (by omega)]
      exact .afterSame (.announceDeparture _ l t) ⟨rfl, rfl, rfl⟩

/-- R4: the beginning of a frame. -/
theorem State.RaisesOnly.beginFrame (s : State) (l : LinkId) (start : Nat) : s.RaisesOnly (s.beginFrame l start) := by
  unfold State.beginFrame State.markTime
  dsimp only
  split
  · split
    · exact .afterSame (.referenceEdge _ start) ⟨rfl, rfl, rfl⟩
    · exact .of_same ⟨rfl, rfl, rfl⟩
  · exact .of_same ⟨rfl, rfl, rfl⟩

/-- R7: a MARK where none is due. -/
theorem State.RaisesOnly.unexpectedMark (s : State) (l : LinkId) (start t : Nat) :
    s.RaisesOnly (s.unexpectedMark l start t) := by
  unfold State.unexpectedMark
  dsimp only
  split
  · exact (State.RaisesOnly.badFrame s l t).trans (.beginFrame _ l start)
  · exact .badFrame s l t

/-- R5, R6, R8: a completed cell. -/
theorem State.RaisesOnly.completeCell (s : State) (l : LinkId) (f : PartialFrame) (cell : Bool) (t : Nat) :
    s.RaisesOnly (s.completeCell l f cell t) := by
  unfold State.completeCell State.completeSlot
  dsimp only
  split
  · exact .of_same ⟨rfl, rfl, rfl⟩
  · split
    · exact .afterSame (.badFrame _ l t) ⟨rfl, rfl, rfl⟩
    · split
      · exact .of_same ⟨rfl, rfl, rfl⟩
      · exact .afterSame (.goodFrame _ l _) ⟨rfl, rfl, rfl⟩

/-- R4, R5, R7: a pulse taken by the assembler. -/
theorem State.RaisesOnly.assemble (s : State) (l : LinkId) (c : PulseClass) (start t : Nat) :
    s.RaisesOnly (s.assemble l c start t) := by
  have bad : s.RaisesOnly (s.badFrame l t) := .badFrame s l t
  have missing : s.RaisesOnly (if (s.link l).markDue then s.badFrame l t else s) := by
    split
    · exact bad
    · exact .refl s
  cases hp : (s.link l).phase with
  | waitMark =>
    cases c with
    | mark => rw [State.assemble_waitMark_mark _ _ hp]; exact .beginFrame s l start
    | _ => simpa only [State.assemble, hp] using missing
  | markTail =>
    cases c with
    | mark => rw [State.assemble_unexpectedMark _ _ (by simp [hp])]; exact .unexpectedMark s l start t
    | short => rw [State.assemble_markTail_short _ _ hp]; exact .of_same ⟨rfl, rfl, rfl⟩
    | long => rwa [State.assemble_markTail_bad _ _ (.inl rfl) hp]
    | violation => rwa [State.assemble_markTail_bad _ _ (.inr rfl) hp]
  | cells =>
    cases c with
    | mark => rw [State.assemble_unexpectedMark _ _ (by simp [hp])]; exact .unexpectedMark s l start t
    | violation => rwa [State.assemble_cells_violation _ _ hp]
    | short =>
      simp only [State.assemble, hp]
      split
      · exact .completeCell s l _ true t
      · exact .of_same ⟨rfl, rfl, rfl⟩
    | long =>
      simp only [State.assemble, hp]
      split
      · exact bad
      · exact .completeCell s l _ false t

/-- R1, R10: a classified pulse. -/
theorem State.RaisesOnly.takePulse (s : State) (l : LinkId) (c : PulseClass) (start t : Nat) :
    s.RaisesOnly (s.takePulse l c start t) := by
  have assembled : s.RaisesOnly ((s.countViolation l c).assemble l c start t) := .afterSame (.assemble _ l c start t) (by simp)
  cases hl : (s.link l).lock with
  | disabled => rw [State.takePulse_disabled hl]; exact .refl s
  | hunt =>
    by_cases hc : c = .mark
    · rw [hc, State.takePulse_hunt_mark hl]
      exact .of_same ⟨rfl, rfl, rfl⟩
    · rw [State.takePulse_hunt_other hl hc]
      exact .refl s
  | sync => rwa [State.takePulse_assembles (.inl hl)]
  | locked => rwa [State.takePulse_assembles (.inr hl)]

/-- R3: the edge timeout. -/
theorem State.RaisesOnly.takeTimeout (s : State) (l : LinkId) (t : Nat) : s.RaisesOnly (s.takeTimeout l t) := by
  cases hl : (s.link l).lock with
  | hunt => rw [State.takeTimeout_hunt hl]; exact .of_same ⟨rfl, rfl, rfl⟩
  | disabled => rw [State.takeTimeout_disabled hl]; exact .of_same ⟨rfl, rfl, rfl⟩
  | sync => rw [State.takeTimeout_sync hl]; exact .of_same ⟨rfl, rfl, rfl⟩
  | locked => rw [State.takeTimeout_locked hl]; exact .afterSame (.announceDeparture _ l t) ⟨rfl, rfl, rfl⟩

/-- R3: a silence of a link. -/
theorem State.RaisesOnly.silence (s : State) (l : LinkId) : s.RaisesOnly (s.silence l) := by
  unfold State.silence
  split
  · exact .takeTimeout s l _
  · exact .refl s

/-- R1, R2: the measurement of a transition. -/
theorem State.RaisesOnly.measure (s : State) (l : LinkId) (t : Nat) : s.RaisesOnly (s.measure l t) := by
  cases hm : (s.link l).measuredFrom with
  | none => rw [State.measure_first hm]; exact .of_same ⟨rfl, rfl, rfl⟩
  | some m =>
    by_cases ht : t ≤ m
    · rw [State.measure_sameTick hm ht]
      exact .refl s
    by_cases hw : t - m + (s.link l).carry ≤ (s.link l).settings.filter
    · rw [State.measure_glitch hm (by omega) hw]
      exact .of_same ⟨rfl, rfl, rfl⟩
    · rw [State.measure_pulse hm (by omega) (by omega)]
      exact .afterSame (.takePulse _ l _ _ t) ⟨rfl, rfl, rfl⟩

/-- R1: a transition. -/
theorem State.RaisesOnly.transition (s : State) (l : LinkId) (t : Nat) : s.RaisesOnly (s.transition l t) := by
  unfold State.transition
  split
  · split
    · exact (State.RaisesOnly.takeTimeout s l _).trans (.measure _ l t)
    · exact .measure s l t
  · exact .refl s

/-- R13, R20: a restart. -/
theorem State.RaisesOnly.restartLink (s : State) (l : LinkId) (t : Nat) : s.RaisesOnly (s.restartLink l t) := by
  unfold State.restartLink
  dsimp only
  split
  · exact .afterSame (.announceDeparture _ l t) ⟨rfl, rfl, rfl⟩
  · exact .of_same ⟨rfl, rfl, rfl⟩

/-- R9, R13: a link disabled. -/
theorem State.RaisesOnly.disableLink (s : State) (l : LinkId) (t : Nat) : s.RaisesOnly (s.disableLink l t) := by
  unfold State.disableLink
  dsimp only
  split
  · exact .afterSame (.announceDeparture _ l t) ⟨rfl, rfl, rfl⟩
  · exact .of_same ⟨rfl, rfl, rfl⟩

/-- R19: the effect of LINK_SETUP. -/
theorem State.RaisesOnly.setupLink (s : State) (l : LinkId) (enable : Bool) (k : LinkSettings) (t : Nat) :
    s.RaisesOnly (s.setupLink l enable k t) := by
  unfold State.setupLink
  dsimp only
  split
  · split
    · split
      · exact .of_same ⟨rfl, rfl, rfl⟩
      · exact .afterSame (.restartLink _ l t) ⟨rfl, rfl, rfl⟩
    · exact .afterSame (.disableLink _ l t) ⟨rfl, rfl, rfl⟩
  · exact .of_same (by split <;> exact ⟨rfl, rfl, rfl⟩)

/-! ### Takes, cues and the engine's jobs (R35 to R40, R74 to R80, R137) -/

/-- R40: a change of take state. -/
theorem State.RaisesOnly.toTake (s : State) (st : TakeState) : s.RaisesOnly (s.toTake st) := by
  unfold State.toTake
  split
  · exact .refl s
  · exact .afterSame (.raiseAll _ .takeChange) ⟨rfl, rfl, rfl⟩

/-- R137: the oldest FAULT request taken. -/
theorem State.RaisesOnly.takeFaultRequest (s : State) : s.RaisesOnly s.takeFaultRequest := by
  unfold State.takeFaultRequest
  split
  · exact .refl s
  · dsimp only
    split
    · exact .afterSame (.raiseAll _ .cueChange) ⟨rfl, rfl, rfl⟩
    · exact .of_same ⟨rfl, rfl, rfl⟩

/-- R78, R80: what the engine goes on with. -/
theorem State.RaisesOnly.jobPublished (s : State) (f : Feed) : s.RaisesOnly (s.jobPublished f) := by
  unfold State.jobPublished
  cases s.engine.state with
  | idle => exact .refl s
  | stream => exact .of_same ⟨rfl, rfl, rfl⟩
  | archive => exact .of_same (by simp)
  | ending =>
    cases f with
    | stream => exact .of_same ⟨rfl, rfl, rfl⟩
    | archive => exact .afterSame (.toTake _ .idle) ⟨rfl, rfl, rfl⟩

/-- R36, R37: the take at a boundary that ends a gathered block. -/
theorem State.RaisesOnly.closeTakeBlock (s : State) (p : Nat) : s.RaisesOnly (s.closeTakeBlock p) := by
  unfold State.closeTakeBlock
  dsimp only
  split
  · split
    · exact .afterSame (.toTake _ .closing) ⟨rfl, rfl, rfl⟩
    · exact .of_same ⟨rfl, rfl, rfl⟩
  · exact .of_same ⟨rfl, rfl, rfl⟩

/-- R76, R108: a stream decision raises SHED at most. -/
theorem State.RaisesOnly.decideStream (s : State) (i : BufferId) : s.RaisesOnly (s.decideStream i) := by
  have ports := congrArg State.ports (State.decideStream_eq (s := s) (i := i))
  dsimp only at ports
  split at ports
  · exact .of_raised ports (by simp)
  · exact .of_same (by simp [ports])

/-- R74: a hand-over. -/
theorem State.RaisesOnly.handOver (s : State) (i : BufferId) : s.RaisesOnly (s.handOver i) :=
  .afterSame (.decideStream _ i) ⟨rfl, rfl, rfl⟩

/-- R36, R37, R74: a block closes. -/
theorem State.RaisesOnly.closeBlock (s : State) (p : Nat) : s.RaisesOnly (s.closeBlock p) := by
  unfold State.closeBlock
  split
  · split
    · next i _ =>
      have closed := State.RaisesOnly.closeTakeBlock (s.closeBuffer i s.take.number s.take.sequence) p
      exact (closed.afterSame (s := s) ⟨rfl, rfl, rfl⟩).trans (.handOver _ i)
    · exact .refl s
  · exact .refl s

/-- R35: a take starts. -/
theorem State.RaisesOnly.startTake (s : State) (p : Nat) : s.RaisesOnly (s.startTake p) := by
  unfold State.startTake
  split
  · exact .afterSame (.toTake _ .rolling) ⟨rfl, rfl, rfl⟩
  · exact .refl s

/-- R45 to R54: a sample period gathered raises MIX_CLIP at most. -/
theorem State.RaisesOnly.gather (s : State) (answers : PerLink (Option LinkFrame)) (refTimed : Bool) :
    s.RaisesOnly (s.gather answers refTimed) := by
  unfold State.gather State.gatherInto
  dsimp only
  split
  · split
    · split
      · exact .afterSame (.raiseAll _ .mixClip) ⟨rfl, rfl, rfl⟩
      · exact .of_same ⟨rfl, rfl, rfl⟩
    · exact .refl s
  · exact .refl s

/-! ### Removals and new region sizes (R112, R115, R116) -/

/-- R116: a forced removal raises LAGGED at the holders. -/
theorem State.RaisesOnly.removeHead (s : State) (f : Feed) : s.RaisesOnly (s.removeHead f) := by
  cases hr : (s.region f).ring with
  | nil => simp only [State.removeHead, hr]; exact .refl s
  | cons a rest =>
    refine ⟨fun p => ?_, fun p => ?_, by simp⟩
    · rw [State.removeHead_port hr]
      exact .raiseIf _ _ .lagged
    · rw [State.removeHead_feed hr]
      split <;> rfl

/-- R115: the making of room. -/
theorem State.RaisesOnly.makeRoom (f : Feed) (pages steps : Nat) (s : State) :
    s.RaisesOnly (s.makeRoom f pages steps) := by
  induction steps generalizing s with
  | zero => exact .refl s
  | succ n ih =>
    rw [State.makeRoom]
    split
    · exact (State.RaisesOnly.removeHead s f).trans (ih _)
    · exact .refl s

/-- R96, R115: RECORD_PLACEMENT. -/
theorem State.RaisesOnly.placeNext (s : State) : s.RaisesOnly s.placeNext := by
  unfold State.placeNext
  split
  · exact .refl s
  · split
    · exact (State.RaisesOnly.makeRoom ..).thenSame ⟨rfl, rfl, rfl⟩
    · exact .refl s

/-- R112: the regions formed anew. -/
theorem State.RaisesOnly.reformRegions (s : State) (ra rs : Nat) : s.RaisesOnly (s.reformRegions ra rs) := by
  refine ⟨fun p => ?_, fun p => ?_, by rw [State.reformRegions_eq]⟩
  · rw [State.reformRegions_port, PortState.lagging]
    split
    · exact .refl _
    · exact .raise _ .lagged
  · rw [State.reformRegions_feed, FeedState.loseAll]
    split <;> rfl

end Sys2Proof.Machine
end

section
/-! The ports in a safe run (09 §9.3; R148, R149, R151, R155): what holds of each port, the steps that only raise events, the
answers to waiting NEXTs, and the sample-period event. -/

namespace Sys2Proof.Machine

/-! ### One port (R148, R149, R151, R155) -/

/-- 09 §9.1: READY and ATTN of a port in a safe run, and the phases in which a response stands and a NEXT wait. -/
structure PortState.Sound (held waits : Bool) (q : PortState) : Prop where
  ready : q.readyHigh = (!held && readyIn q.phase)
  attn : q.attnAsserted = attnOf q.events q.mask
  response : q.response.isSome = (q.phase = .responseReady || q.phase = .sending)
  waiting : waits = decide (q.phase = .waiting)
  held : held = true → q.phase = .idle

/-- 09 §9.1: the ports of a safe run, port by port. -/
theorem portsSound_iff {s : State} :
    PortsSound s ↔ ∀ p, (s.port p).Sound s.resetHeld (s.feed p).wait.isSome :=
  ⟨fun h p => ⟨h.ready p, h.attn p, h.response p, h.waiting p, fun held => h.held held p⟩,
    fun h => ⟨fun p => (h p).ready, fun p => (h p).attn, fun p => (h p).response, fun p => (h p).waiting,
      fun held p => (h p).held held⟩⟩

section
variable {q r : PortState} {held waits : Bool}

/-- R154: events raised at a port. -/
theorem PortState.Sound.told (h : q.Sound held waits) (h' : q.Told r) : r.Sound held waits := by
  obtain ⟨ready, attn, response, waiting, idle⟩ := h
  have asserted := h'.attn attn
  rw [h'.same.1] at asserted ⊢
  exact ⟨ready, asserted, response, waiting, idle⟩

/-- R148: a response is formed at a port of a part that is running, and ends its wait. -/
theorem PortState.Sound.respond (attn : q.attnAsserted = attnOf q.events q.mask) (x : Response) :
    (q.respond x).Sound false false := ⟨rfl, attn, rfl, rfl, nofun⟩

/-- R122: a waiting port is not held by RESET. -/
theorem PortState.Sound.running (h : q.Sound held true) : held = false := by
  cases held with
  | false => rfl
  | true =>
    have waiting := h.waiting
    rw [h.held rfl] at waiting
    cases waiting

/-- R148: a port at which a command stands holds no response and no wait. -/
theorem PortState.Sound.of_executing (h : q.Sound held waits) (executing : q.phase = .executing) :
    held = false ∧ waits = false ∧ q.response = none := by
  obtain ⟨-, -, response, waiting, idle⟩ := h
  rw [executing] at response waiting
  refine ⟨?_, waiting, by simpa using response⟩
  cases held with
  | false => rfl
  | true =>
    rw [idle rfl] at executing
    cases executing

end

/-! ### Steps that keep the ports -/

/-- `u` has the ports of a safe run if `s` has. -/
structure State.KeepsPorts (s u : State) : Prop where
  sound : PortsSound s → PortsSound u

section
variable {s u v : State}

theorem State.KeepsPorts.refl (s : State) : s.KeepsPorts s := ⟨id⟩

theorem State.KeepsPorts.trans (h : s.KeepsPorts u) (h' : u.KeepsPorts v) : s.KeepsPorts v :=
  ⟨fun hs => h'.sound (h.sound hs)⟩

/-- R154: a step that only raises events. -/
theorem State.RaisesOnly.keepsPorts (h : s.RaisesOnly u) : s.KeepsPorts u := by
  refine ⟨fun hs => portsSound_iff.2 fun p => ?_⟩
  rw [h.held, h.waits p]
  exact (portsSound_iff.1 hs p).told (h.ports p)

/-- What leaves the ports and the feed states keeps the ports. -/
theorem State.KeepsPorts.of_same (h : u.ports = s.ports ∧ u.feeds = s.feeds ∧ u.resetHeld = s.resetHeld) :
    s.KeepsPorts u := (State.RaisesOnly.of_same h).keepsPorts

/-- A step at which each port stays in a safe run. -/
theorem State.KeepsPorts.of_each (held : u.resetHeld = s.resetHeld)
    (each : ∀ p, (s.port p).Sound s.resetHeld (s.feed p).wait.isSome →
      (u.port p).Sound s.resetHeld (u.feed p).wait.isSome) : s.KeepsPorts u :=
  ⟨fun hs => portsSound_iff.2 fun p => by rw [held]; exact each p (portsSound_iff.1 hs p)⟩

/-- R159: a step that RESET holds back. -/
theorem State.KeepsPorts.unlessHeld (h : s.KeepsPorts u) (held : Bool) : s.KeepsPorts (if held then s else u) := by
  split
  · exact .refl s
  · exact h

/-! ### Answers to waiting NEXTs (R119, R122) -/

/-- R119, R122, R124: a record told to a port. -/
theorem State.KeepsPorts.publishTo (s : State) (p : Port) (id : RecordId) (size : Nat) :
    s.KeepsPorts (s.publishTo p id size) := by
  refine .of_each (by simp) fun q sound => ?_
  rw [State.publishTo_port, State.publishTo_feed]
  split
  · next told =>
    obtain ⟨rfl, -⟩ := told
    dsimp only
    refine PortState.Sound.told ?_ (.raiseIf _ _ .recReady)
    cases wait : (s.feed q).wait with
    | none => rw [wait] at sound; simpa [wait] using sound
    | some k =>
      rw [wait] at sound
      rw [sound.running]
      exact .respond sound.attn _
  · exact sound

/-- R119: the record being written of a region published. -/
theorem State.KeepsPorts.publish (s : State) (f : Feed) : s.KeepsPorts (s.publish f) := by
  unfold State.publish
  dsimp only
  split
  · exact .refl s
  · split
    · exact .of_same ⟨rfl, rfl, rfl⟩
    · refine .trans (.trans (.trans ?_ (.publishTo ..)) (.publishTo ..)) (.publishTo ..)
      exact .of_same ⟨rfl, rfl, rfl⟩

/-- R119: RECORD_PUBLICATION. -/
theorem State.KeepsPorts.publishNext (s : State) : s.KeepsPorts s.publishNext := by
  have goesOn : ∀ f, s.KeepsPorts ((s.publish f).jobPublished f) := fun f =>
    (State.KeepsPorts.publish s f).trans (State.RaisesOnly.jobPublished _ f).keepsPorts
  unfold State.publishNext
  split
  · exact goesOn .stream
  · split
    · exact goesOn .archive
    · exact .refl s

/-- R115, R119: a record placed and published. -/
theorem State.KeepsPorts.written (s : State) : s.KeepsPorts s.placeNext.publishNext :=
  (State.RaisesOnly.placeNext s).keepsPorts.trans (.publishNext _)

/-- A change of a feed state that begins no wait and ends none. -/
theorem State.KeepsPorts.setFeed (s : State) (p : Port) {x : FeedState} (h : x.wait.isSome = (s.feed p).wait.isSome) :
    s.KeepsPorts (s.setFeed p x) := by
  refine .of_each rfl fun q sound => ?_
  rw [State.feed_setFeed]
  split
  · next same => subst same; exact h ▸ sound
  · exact sound

/-- R122: a waiting port answered NONE. -/
theorem State.KeepsPorts.answerNone {p : Port} (waits : (s.feed p).wait.isSome = true) :
    s.KeepsPorts (s.answerNone p) := by
  refine .of_each rfl fun q sound => ?_
  rw [State.answerNone, State.setFeed_port, State.port_setPort, State.feed_setFeed]
  split
  · next same =>
    subst same
    rw [waits] at sound
    rw [sound.running]
    exact .respond sound.attn _
  · exact sound

/-- R122: a wait counted at a boundary. -/
theorem State.KeepsPorts.countWait (s : State) (p : Port) : s.KeepsPorts (s.countWait p) := by
  unfold State.countWait
  split
  · exact .refl s
  · next k wait =>
    split
    · exact .answerNone (by rw [wait]; rfl)
    · exact .setFeed s p (by rw [wait]; rfl)

/-- R31: a wait answered NONE at the end of the position count. -/
theorem State.KeepsPorts.endWait (s : State) (p : Port) : s.KeepsPorts (s.endWait p) := by
  unfold State.endWait
  split
  · exact .refl s
  · next k wait => exact .answerNone (by rw [wait]; rfl)

/-! ### The jobs of the engine and the end of a take (R36 to R39) -/

/-- R36: the jobs of a block finished at a boundary. -/
theorem State.KeepsPorts.finishJobs (s : State) : s.KeepsPorts s.finishJobs := by
  have one : ∀ w : State, w.KeepsPorts w.finishJob := fun w => by
    unfold State.finishJob
    cases w.engine.state with
    | stream => exact .written w
    | archive => exact .written w
    | idle => exact .refl w
    | ending => exact .refl w
  exact (one s).trans (one _)

/-- R38: the END records at once. -/
theorem State.KeepsPorts.endAtOnce (s : State) : s.KeepsPorts s.endAtOnce := by
  have requested : s.KeepsPorts s.requestEnd := .of_same (by simp)
  unfold State.endAtOnce
  dsimp only
  split
  · split
    · exact requested.trans ((State.KeepsPorts.written _).trans (.written _))
    · exact requested
  · exact .refl s

/-- R39: an ABORT. -/
theorem State.KeepsPorts.abortTake (s : State) : s.KeepsPorts s.abortTake := by
  have ends : s.take.state = .rolling ∨ s.take.state = .closing → s.KeepsPorts s.abortTake := fun running => by
    rw [State.abortTake_running running]
    exact (State.RaisesOnly.afterSame (.toTake _ .closing) (by simp)).keepsPorts.trans (.endAtOnce _)
  cases state : s.take.state with
  | idle => simpa only [State.abortTake, state] using State.KeepsPorts.refl s
  | armed => simpa only [State.abortTake, state] using State.KeepsPorts.refl s
  | starting =>
    rw [State.abortTake_starting state]
    exact (State.RaisesOnly.toTake s .idle).keepsPorts
  | rolling => exact ends (.inl state)
  | closing => exact ends (.inr state)

/-! ### The sample-period event (R31, R32) -/

/-- R32: a block-boundary event. -/
theorem State.KeepsPorts.boundary (s : State) (p : Nat) : s.KeepsPorts (s.boundary p) := by
  have taken : s.finishJobs.RaisesOnly (((s.finishJobs.closeBlock p).startTake p).openBlock p) :=
    ((State.RaisesOnly.closeBlock _ p).trans (.startTake _ p)).thenSame (by simp)
  have counted : ∀ w : State, w.KeepsPorts (((w.countWait .p0).countWait .p1).countWait .p2) := fun w =>
    ((State.KeepsPorts.countWait w .p0).trans (.countWait _ .p1)).trans (.countWait _ .p2)
  unfold State.boundary
  refine ((State.KeepsPorts.finishJobs s).trans taken.keepsPorts).trans (.trans ?_ (counted _))
  exact .of_same ⟨rfl, rfl, rfl⟩

/-- R31: the position stops. -/
theorem State.KeepsPorts.atLastPosition (s : State) : s.KeepsPorts s.atLastPosition :=
  (((State.KeepsPorts.endWait s .p0).trans (.endWait _ .p1)).trans (.endWait _ .p2)).trans (.abortTake _)

/-- R31: the position advances. -/
theorem State.KeepsPorts.advancePosition (s : State) : s.KeepsPorts s.advancePosition := by
  have moved : s.KeepsPorts { s with timebase := { s.timebase with position := positionAfter s.timebase.position } } :=
    .of_same ⟨rfl, rfl, rfl⟩
  unfold State.advancePosition
  dsimp only
  split
  · exact moved.trans (.atLastPosition _)
  · split
    · exact moved.trans (.boundary _ _)
    · exact moved

/-- R31, R45, R164: a sample-period event, with link steps before the framer asks. -/
theorem State.KeepsPorts.sampleIf (s : State) (wanted : State → Bool) {between : State → State}
    (hb : ∀ w : State, w.KeepsPorts (between w)) : s.KeepsPorts (s.sampleIf wanted between) := by
  unfold State.sampleIf
  split
  · next r w hw =>
    split
    · obtain ⟨last, due, rfl, -⟩ := State.sampleBy?_some hw
      refine .trans (.of_same (by simp)) (.trans (.advancePosition (State.adoptRate { s with
        timebase := { s.timebase with lastSample := last, edgesDue := due } })) ((hb _).trans ?_))
      exact ((State.RaisesOnly.gather _ _ r).afterSame (by simp)).keepsPorts
    · exact .refl s
  · exact .refl s

end

end Sys2Proof.Machine
end

section
/-! The rules of the commands at the ports (09 §9.4; R146, R148, R154): those that only raise events, ABORT, NEXT and the port
commands, and what the row of a command does to the ports. -/

namespace Sys2Proof.Machine

/-! ### Rules that only raise events -/

/-- The commands whose rules only raise events at the ports. -/
def Command.raisesOnly : Command → Bool
  | .abort | .next | .portMode | .events | .eventMask => false
  | .linkSetup | .linkStatus | .linkCounters | .linkRestart | .clockSetup | .arm | .disarm | .roll | .close
  | .trackMapSet | .trackMapGet | .gainSet | .gainApply | .gainDiscard | .gainGet | .archiveSetup | .archiveGet
  | .streamSetup | .streamGet | .storeSetup | .subscribe | .unsubscribe | .release | .feedStatus | .cueAdd | .cueDelete
  | .cueList | .status => true

/-- R154: a setting stored, and told to the other two ports. -/
theorem State.RaisesOnly.settingTold {s u : State} (h : u.ports = s.ports ∧ u.feeds = s.feeds ∧ u.resetHeld = s.resetHeld)
    (k : EventKind) (p : Port) : s.RaisesOnly (u.raiseOthers k p) := .afterSame (.raiseOthers u k p) h

/-- A change of a feed state that leaves its wait. -/
theorem State.RaisesOnly.setFeed (s : State) (p : Port) {x : FeedState} (h : x.wait = (s.feed p).wait) :
    s.RaisesOnly (s.setFeed p x) := by
  refine ⟨fun _ => .refl _, fun q => ?_, rfl⟩
  rw [State.feed_setFeed]
  split
  · next same => subst same; exact h
  · rfl

/-- R19: LINK_SETUP. -/
theorem State.RaisesOnly.linkSetupRule (ps : List Byte) (s : State) : s.RaisesOnly (Machine.linkSetupRule ps s).1 := by
  unfold Machine.linkSetupRule
  split
  · dsimp only
    split
    · split
      · exact .setupLink s _ _ _ _
      · exact .refl s
    · exact .refl s
  · exact .refl s

/-- R20: LINK_RESTART. -/
theorem State.RaisesOnly.linkRestartRule (ps : List Byte) (s : State) :
    s.RaisesOnly (Machine.linkRestartRule ps s).1 := by
  unfold Machine.linkRestartRule
  split
  · split
    · split
      · exact .refl s
      · exact .restartLink s _ _
    · exact .refl s
  · exact .refl s

/-- R29: CLOCK_SETUP. -/
theorem State.RaisesOnly.clockSetupRule (ps : List Byte) (s : State) : s.RaisesOnly (Machine.clockSetupRule ps s).1 := by
  unfold Machine.clockSetupRule
  split
  · split
    · split
      · exact .refl s
      · exact .setClock s _ _ _
    · exact .refl s
  · exact .refl s

/-- R33 to R37: ARM, DISARM, ROLL and CLOSE raise TAKE_CHANGE at most. -/
theorem takeRules_raiseOnly (ps : List Byte) (s : State) : s.RaisesOnly (armRule ps s).1 ∧
    s.RaisesOnly (disarmRule ps s).1 ∧ s.RaisesOnly (rollRule ps s).1 ∧ s.RaisesOnly (closeRule ps s).1 := by
  refine ⟨?_, ?_, ?_, ?_⟩
  · unfold armRule
    split
    · exact .refl s
    · split
      · exact .afterSame (.toTake _ .armed) ⟨rfl, rfl, rfl⟩
      · exact .refl s
  · unfold disarmRule
    split
    · exact .toTake s .idle
    · exact .refl s
  · unfold rollRule
    split
    · exact .refl s
    · split
      · exact .refl s
      · exact .afterSame (.toTake _ .starting) ⟨rfl, rfl, rfl⟩
  · unfold closeRule
    split
    · exact .afterSame (.toTake _ .closing) ⟨rfl, rfl, rfl⟩
    · exact .refl s

/-- R111, R112: STORE_SETUP. -/
theorem State.RaisesOnly.storeSetupRule (p : Port) (ps : List Byte) (s : State) :
    s.RaisesOnly (Machine.storeSetupRule p ps s).1 := by
  unfold Machine.storeSetupRule
  split
  · dsimp only
    split
    · exact .refl s
    · split
      · refine .trans ?_ (.raiseOthers _ .configChange p)
        split
        · exact .refl s
        · exact .reformRegions s _ _
      · exact .refl s
  · exact .refl s

/-- R120, R125: SUBSCRIBE, UNSUBSCRIBE and RELEASE leave every wait. -/
theorem feedRules_raiseOnly (p : Port) (ps : List Byte) (s : State) : s.RaisesOnly (subscribeRule p ps s).1 ∧
    s.RaisesOnly (unsubscribeRule p ps s).1 ∧ s.RaisesOnly (releaseRule p ps s).1 := by
  refine ⟨?_, ?_, ?_⟩
  · unfold subscribeRule
    split
    · split
      · exact .refl s
      · split
        · exact .setFeed s p rfl
        · exact .refl s
    · exact .refl s
  · unfold unsubscribeRule
    split
    · exact .refl s
    · exact .afterSame (.setFeed _ p rfl) ⟨rfl, rfl, rfl⟩
  · unfold releaseRule
    split
    · split
      · exact .refl s
      · dsimp only
        split
        · exact .refl s
        · split
          · exact .afterSame (.setFeed _ p rfl) ⟨rfl, rfl, rfl⟩
          · exact .refl s
    · exact .refl s

/-- 10 §10.5: those rules, the settings and readings branch by branch. -/
theorem Command.rule_raisesOnly {c : Command} (h : c.raisesOnly = true) (p : Port) (ps : List Byte) (s : State) :
    s.RaisesOnly (c.rule p ps s).1 := by
  obtain ⟨arm, disarm, roll, close⟩ := takeRules_raiseOnly ps s
  obtain ⟨subscribe, unsubscribe, release⟩ := feedRules_raiseOnly p ps s
  cases c
  case abort | next | portMode | events | eventMask => cases h
  case linkSetup => exact .linkSetupRule ps s
  case linkRestart => exact .linkRestartRule ps s
  case clockSetup => exact .clockSetupRule ps s
  case arm => exact arm
  case disarm => exact disarm
  case roll => exact roll
  case close => exact close
  case storeSetup => exact .storeSetupRule p ps s
  case subscribe => exact subscribe
  case unsubscribe => exact unsubscribe
  case release => exact release
  all_goals
    simp only [Command.rule, linkStatusRule, linkCountersRule, trackMapSetRule, trackMapGetRule, gainSetRule,
      gainApplyRule, gainDiscardRule, gainGetRule, archiveSetupRule, archiveGetRule, streamSetupRule, streamGetRule,
      feedStatusRule, cueAddRule, cueDeleteRule, cueListRule, statusRule]
    repeat' split
    all_goals simp [State.RaisesOnly.of_same, State.RaisesOnly.settingTold]

end Sys2Proof.Machine
end

section
/-! What a command's rule answers (R146; 09 §9.5): a refusal leaves the state, and NEXT alone can wait. -/

namespace Sys2Proof.Machine

/-- R146, 09 §9.5: what a rule gives on the state `s`: NEXT alone answers with a wait, and a status that changes nothing comes
without data and leaves the state. -/
def Command.answers (c : Command) (s : State) (out : State × Answer) : Prop :=
  match out.2 with
  | .waits => c = .next
  | .response r => r.status.changesNothing = true → out.1 = s ∧ r = Response.of r.status []

section
variable {c : Command} {s u : State}

@[simp] theorem Command.answers_refuse (st : Status) : c.answers s (s, .refuse st) := fun _ => ⟨rfl, rfl⟩

@[simp] theorem Command.answers_ok (data : List Byte) : c.answers s (u, .ok data) := nofun

/-- R121, R122, R134: an accepting status other than OK. -/
theorem Command.answers_accepted {r : Response} (h : r.status.changesNothing = false) : c.answers s (u, .response r) :=
  fun changes => by simp [h] at changes

/-- R99: STREAM_SETUP accepts with OK or OK_CLAMPED. -/
theorem streamSetupRule_answers (p : Port) (ps : List Byte) (s : State) :
    Command.streamSetup.answers s (streamSetupRule p ps s) := by
  unfold streamSetupRule
  split
  · dsimp only
    split
    · split
      · simp
      · split
        · simp
        · split
          · simp
          · split
            · exact Command.answers_accepted (by simp only [Response.of]; split <;> rfl)
            · simp
    · simp
  · simp

/-- R134: CUE_ADD accepts with OK or OK_LATE. -/
theorem cueAddRule_answers (p : Port) (ps : List Byte) (s : State) : Command.cueAdd.answers s (cueAddRule p ps s) := by
  have accepts : ∀ position, (s.cueStatus position).changesNothing = false := fun position => by
    unfold State.cueStatus
    split
    · split <;> rfl
    · rfl
  unfold cueAddRule
  split
  · split
    · split
      · split
        · simp
        · exact Command.answers_accepted (accepts _)
      · simp
    · simp
  · simp

/-- R121, R122: NEXT answers with a record or NONE, or waits. -/
theorem nextRule_answers (p : Port) (ps : List Byte) (s : State) : Command.next.answers s (nextRule p ps s) := by
  unfold nextRule
  split
  · split
    · simp
    · dsimp only
      split
      · exact Command.answers_accepted rfl
      · split
        · exact Command.answers_accepted rfl
        · exact rfl
  · simp

/-- 10 §10.5: what the rule of every command answers. -/
theorem Command.rule_answers (c : Command) (p : Port) (ps : List Byte) (s : State) : c.answers s (c.rule p ps s) := by
  cases c
  case streamSetup => exact streamSetupRule_answers p ps s
  case cueAdd => exact cueAddRule_answers p ps s
  case next => exact nextRule_answers p ps s
  all_goals
    simp only [Command.rule, linkSetupRule, linkStatusRule, linkCountersRule, linkRestartRule, clockSetupRule, armRule,
      disarmRule, rollRule, closeRule, abortRule, trackMapSetRule, trackMapGetRule, gainSetRule, gainApplyRule,
      gainDiscardRule, gainGetRule, archiveSetupRule, archiveGetRule, streamGetRule, storeSetupRule, subscribeRule,
      unsubscribeRule, releaseRule, feedStatusRule, cueDeleteRule, cueListRule, portModeRule, eventsRule, eventMaskRule,
      statusRule]
    repeat' split
    all_goals simp

/-- R148: every command but NEXT is answered with a response. -/
theorem Command.rule_responds {c : Command} (h : c ≠ .next) (p : Port) (ps : List Byte) (s : State) :
    ∃ r, (c.rule p ps s).2 = .response r := by
  have answers := c.rule_answers p ps s
  cases out : (c.rule p ps s).2 with
  | response r => exact ⟨r, rfl⟩
  | waits => simp only [Command.answers, out] at answers; exact absurd answers h

/-- 09 §9.5: a rule that answers with a refusal, or GONE, leaves the state. -/
theorem Command.rule_refuses {c : Command} {p : Port} {ps : List Byte} {s : State} {r : Response}
    (out : (c.rule p ps s).2 = .response r) (h : r.status.changesNothing = true) :
    (c.rule p ps s).1 = s ∧ r = Response.of r.status [] := by
  have answers := c.rule_answers p ps s
  simp only [Command.answers, out] at answers
  exact answers h

/-- R122: a rule that answers with a wait is that of NEXT and leaves the ports. -/
theorem Command.rule_waits {c : Command} {p : Port} {ps : List Byte} {s : State} (out : (c.rule p ps s).2 = .waits) :
    c = .next ∧ (c.rule p ps s).1.ports = s.ports := by
  have answers := c.rule_answers p ps s
  simp only [Command.answers, out] at answers
  subst answers
  refine ⟨rfl, ?_⟩
  simp only [Command.rule, nextRule]
  repeat' split
  all_goals simp

end

end Sys2Proof.Machine
end

section
/-! A command of one port and the other ports (09, opening; R154). -/

namespace Sys2Proof.Machine

/-- R121, R153, R156, R157: the rules of NEXT and of the port commands leave the other ports. -/
theorem ownRules_leaveOthers {c : Command} (h : c.raisesOnly = false) (abort : c ≠ .abort) {p q : Port} (other : q ≠ p)
    (ps : List Byte) (s : State) : (c.rule p ps s).1.port q = s.port q := by
  have away : ∀ x : PortState, (s.setPort p x).port q = s.port q := fun x => State.port_setPort_ne s x other
  cases c
  case abort => exact absurd rfl abort
  case events => exact away _
  case portMode =>
    simp only [Command.rule, portModeRule]
    repeat' split
    all_goals simp [away]
  case eventMask =>
    simp only [Command.rule, eventMaskRule]
    repeat' split
    all_goals simp [away]
  case next =>
    simp only [Command.rule, nextRule]
    repeat' split
    all_goals simp
  all_goals cases h

/-- R154: the rule of a command but ABORT raises events at the other ports, and nothing else. -/
theorem Command.rule_tellsOthers {c : Command} (abort : c ≠ .abort) {p q : Port} (other : q ≠ p) (ps : List Byte)
    (s : State) : (s.port q).sameTransaction ((c.rule p ps s).1.port q) := by
  cases h : c.raisesOnly with
  | true => exact ((Command.rule_raisesOnly h p ps s).ports q).same
  | false =>
    rw [ownRules_leaveOthers h abort other]
    exact PortState.sameTransaction_refl _

/-- R154: the row of a command but ABORT raises events at the other ports, and nothing else. -/
theorem State.runCommand_tellsOthers (s : State) {c : Command} (abort : c ≠ .abort) {p q : Port} (other : q ≠ p)
    (clocks : List Lanes) : (s.port q).sameTransaction ((s.runCommand c (c.rule p) p clocks).port q) := by
  refine State.runCommand_induction (P := fun u => (s.port q).sameTransaction (u.port q))
    (PortState.sameTransaction_refl _) (fun x => ?_) (fun ps x y => ?_) c clocks
  · rw [State.port_setPort_ne _ _ other]
    exact PortState.sameTransaction_refl _
  · have told := Command.rule_tellsOthers abort other ps (s.setPort p x)
    rw [State.port_setPort_ne _ _ other] at told
    rwa [State.port_setPort_ne _ _ other]

/-- Settles O15: a command's row changes its own port, or applies its rule between two changes of that port. -/
theorem commandsLeaveOtherPortsAlone : Obligations.CommandsLeaveOtherPortsAlone := by
  intro i s t p q clocks c row abort other h
  rw [exec_command row] at h
  cases h
  exact (s.advance (commandMoment i s)).runCommand_tellsOthers abort other clocks

end Sys2Proof.Machine
end

section
/-! The moves of a port between its phases (09 §9.3; R142 to R145, R149, R153), field by field. -/

namespace Sys2Proof.Machine

section
variable (q : PortState)

/-- R153: a mode change due is made. -/
theorem PortState.changeLanes_eq :
    q.changeLanes = { q with laneMode := q.modeDue.getD q.laneMode, modeDue := none } := by
  unfold PortState.changeLanes
  cases due : q.modeDue with
  | none => simp only [Option.getD_none]; rw [← due]
  | some m => rfl

/-- R142, R153: SEL deasserted at the end of a frame or of a response. -/
theorem PortState.deselect_eq : q.deselect = { q with
    laneMode := q.modeDue.getD q.laneMode, modeDue := none, clocks := [], restIgnored := false } := by
  rw [PortState.deselect, PortState.changeLanes_eq]

/-- R153: what an assertion of SEL changes. -/
theorem PortState.select_eq : q.select = { q with
    laneMode := q.select.laneMode, modeDue := q.select.modeDue, clocks := [], restIgnored := false, driven := [] } := by
  unfold PortState.select
  dsimp only
  split
  · rw [PortState.changeLanes_eq]
  · rfl

/-- R153: outside IDLE an assertion of SEL leaves the lane mode. -/
theorem PortState.select_busy (h : q.phase ≠ .idle) :
    q.select = { q with clocks := [], restIgnored := false, driven := [] } := by
  simp [PortState.select, h]

end

section
variable {s : State} {p : Port} (clocks : List Lanes)

/-- R149, R152: what the SCLK periods of a response change. -/
theorem State.send_eq {r : Response} (h : (s.port p).response = some r) :
    let got := bytesIn (s.port p).laneMode ((s.port p).clocks ++ clocks)
    let sent := min (5 + r.dataLength) ((s.port p).sent + got.1.length)
    let reports := decide ((s.port p).sent ≤ 1 ∧ 1 < (s.port p).sent + got.1.length)
    s.send p clocks = (s.setPort p { s.port p with
        driven := (s.port p).driven ++ s.drives p r (s.port p).clocks.length clocks.length
        clocks := got.2, sent := sent, inputDropped := (s.port p).inputDropped && !reports
        responseDiscarded := (s.port p).responseDiscarded && !reports }).setFeed p
      { s.feed p with transfer := (s.feed p).transfer.bind fun t => t.advance sent } := by
  simp only [State.send, h]

/-- R149: a port that sends stays in its phase. -/
theorem State.send_phase : ((s.send p clocks).port p).phase = (s.port p).phase := by
  cases h : (s.port p).response with
  | none => simp only [State.send, h]
  | some r => rw [State.send_eq clocks h, State.setFeed_port, State.port_setPort_self]

end

end Sys2Proof.Machine
end

section
/-! The ports of a safe run through commands, transfers and every row of the table (09 §9.3; R143 to R159). -/

namespace Sys2Proof.Machine

/-! ### A port without a response -/

section
variable {q : PortState} {held waits : Bool}

/-- 09 §9.3: a running port in IDLE, RECEIVING or EXECUTING holds neither response nor wait. -/
theorem PortState.Sound.free (h : q.Sound false waits)
    (phase : q.phase = .idle ∨ q.phase = .receiving ∨ q.phase = .executing) : waits = false ∧ q.response = none := by
  obtain ⟨-, -, response, waiting, -⟩ := h
  rcases phase with phase | phase | phase <;> rw [phase] at response waiting
  all_goals exact ⟨waiting, by simpa using response⟩

/-- 09 §9.3: a running port in IDLE, RECEIVING or EXECUTING, with READY as the phase says. -/
theorem PortState.Sound.of_free (attn : q.attnAsserted = attnOf q.events q.mask) (response : q.response = none)
    (ready : q.readyHigh = readyIn q.phase) (phase : q.phase = .idle ∨ q.phase = .receiving ∨ q.phase = .executing) :
    q.Sound false false := by
  refine ⟨ready, attn, ?_, ?_, nofun⟩ <;> rcases phase with phase | phase | phase <;> simp [phase, response]

/-- R144, R145: SEL deasserted in RECEIVING. -/
theorem PortState.Sound.endFrame (attn : q.attnAsserted = attnOf q.events q.mask) (response : q.response = none) :
    q.endFrame.Sound false false := by
  rcases q.endFrame_cases with ⟨f, -, ends⟩ | ⟨-, ends⟩
  · rw [ends, PortState.deselect_eq]
    exact .of_free attn response rfl (.inr (.inr rfl))
  · rw [ends, PortState.deselect_eq]
    exact .of_free attn response rfl (.inl rfl)

/-- R143, R144: a frame begins at a port without a response. -/
theorem PortState.Sound.receive (attn : q.attnAsserted = attnOf q.events q.mask) (response : q.response = none)
    (clocks : List Lanes) (ended : Bool) : (q.receive clocks ended).Sound false false := by
  unfold PortState.receive
  dsimp only
  split
  · exact .endFrame attn response
  · exact .of_free attn response rfl (.inr (.inl rfl))

/-- R153: SEL asserted for a new transfer. -/
theorem PortState.Sound.select (h : q.Sound held waits) : q.select.Sound held waits := by
  rw [PortState.select_eq]
  exact ⟨h.ready, h.attn, h.response, h.waiting, h.held⟩

end

/-! ### Changes of one port -/

section
variable {s u : State} {p : Port}

/-- A step of one port that begins no wait and ends none. -/
theorem State.KeepsPorts.atPort (held : u.resetHeld = s.resetHeld) (waits : ∀ q, (u.feed q).wait = (s.feed q).wait)
    (others : ∀ q, q ≠ p → u.port q = s.port q)
    (own : ∀ b, (s.port p).Sound s.resetHeld b → (u.port p).Sound s.resetHeld b) : s.KeepsPorts u := by
  refine .of_each held fun q sound => ?_
  rw [waits]
  by_cases same : q = p
  · subst same
    exact own _ sound
  · rwa [others q same]

theorem State.KeepsPorts.setPort {x : PortState} (own : ∀ b, (s.port p).Sound s.resetHeld b → x.Sound s.resetHeld b) :
    s.KeepsPorts (s.setPort p x) :=
  .atPort rfl (fun _ => rfl) (fun _ other => State.port_setPort_ne s x other) (by rwa [State.port_setPort_self])

/-- A step of one port at the end of which the response is another, or none. -/
theorem State.KeepsPorts.dropResponse {x : PortState} {w : State}
    (own : ∀ b, (s.port p).Sound s.resetHeld b → x.Sound s.resetHeld b)
    (held : w.resetHeld = s.resetHeld) (waits : ∀ q, (w.feed q).wait = (s.feed q).wait)
    (others : ∀ q, q ≠ p → w.port q = s.port q) : s.KeepsPorts ((w.dropResponse p).setPort p x) := by
  refine .atPort (p := p) (by simp [held]) (fun q => ?_) (fun q other => ?_) (by rwa [State.port_setPort_self])
  · rw [State.setPort_feed, State.dropResponse, State.feed_setFeed]
    split
    · next same => subst same; exact waits q
    · exact waits q
  · rw [State.port_setPort_ne _ _ other, State.dropResponse, State.setFeed_port, State.port_setPort_ne _ _ other]
    exact others q other

/-! ### Frames and commands (R143 to R150) -/

/-- R144: the end of a frame. -/
theorem State.KeepsPorts.frameEnds {clocks : List Lanes} {f : Frame} (running : s.resetHeld = false)
    (h : s.frameEnds p clocks = some (u, f)) : s.KeepsPorts u := by
  obtain ⟨receiving, -, rfl⟩ | ⟨-, -, rfl⟩ := State.frameEnds_cases h
  · refine .setPort fun b sound => ?_
    rw [running] at sound ⊢
    obtain ⟨rfl, response⟩ := sound.free (.inr (.inl receiving))
    exact .endFrame sound.attn response
  · exact .refl _

/-- R145: a frame that fails. -/
theorem State.KeepsPorts.frameFails (running : s.resetHeld = false) (p : Port) (clocks : List Lanes) :
    s.KeepsPorts (s.frameFails p clocks) := by
  unfold State.frameFails
  split
  · next receiving =>
    refine .setPort fun b sound => ?_
    rw [running] at sound ⊢
    obtain ⟨rfl, response⟩ := sound.free (.inr (.inl receiving))
    exact .endFrame sound.attn response
  all_goals exact .refl s

/-- R148: a command answered at a port in EXECUTING. -/
theorem PortsSound.answer (h : PortsSound s) (executing : (s.port p).phase = .executing) (r : Response) :
    PortsSound (s.answer p (.response r)) := by
  rw [portsSound_iff] at h ⊢
  intro q
  rw [State.answer, State.port_setPort, State.setPort_feed, State.setPort_resetHeld]
  split
  · next same =>
    subst same
    obtain ⟨running, waits, -⟩ := (h q).of_executing executing
    rw [running, waits]
    exact .respond (h q).attn r
  · exact h q

/-- R121, R122, R148: NEXT at a port in EXECUTING, answered or waiting. -/
theorem PortsSound.nextRule (h : PortsSound s) (executing : (s.port p).phase = .executing) (ps : List Byte) :
    PortsSound ((nextRule p ps s).1.answer p (nextRule p ps s).2) := by
  obtain ⟨running, waits, response⟩ := (portsSound_iff.1 h p).of_executing executing
  have fed : ∀ (x : FeedState) (r : Response), x.wait = none → PortsSound ((s.setFeed p x).answer p (.response r)) :=
    fun x r none => ((State.KeepsPorts.setFeed s p (by rw [none, waits]; rfl)).sound h).answer executing r
  unfold Machine.nextRule
  split
  · split
    · exact h.answer executing _
    · dsimp only
      split
      · exact fed _ _ rfl
      · split
        · exact fed _ _ (Option.not_isSome_iff_eq_none.1 (by simp [waits]))
        · rw [portsSound_iff] at h ⊢
          intro q
          simp only [State.answer, State.port_setPort, State.setPort_feed, State.feed_setFeed, State.setPort_resetHeld,
            State.setFeed_resetHeld, State.setFeed_port]
          split
          · next same =>
            subst same
            have attn := (h q).attn
            rw [running]
            exact ⟨rfl, attn, by simpa using response, rfl, nofun⟩
          · exact h q
  · exact h.answer executing _

/-- R153, R156, R157: the rules of the port commands change neither phase nor response. -/
theorem portRules_keepPort (ps : List Byte) (s : State) {c : Command} (h : c = .portMode ∨ c = .events ∨ c = .eventMask) :
    s.KeepsPorts (c.rule p ps s).1 ∧ ((c.rule p ps s).1.port p).phase = (s.port p).phase := by
  have own : ∀ {x : PortState}, x.phase = (s.port p).phase →
      (∀ b, (s.port p).Sound s.resetHeld b → x.Sound s.resetHeld b) →
      s.KeepsPorts (s.setPort p x) ∧ ((s.setPort p x).port p).phase = (s.port p).phase := fun phase sound =>
    ⟨.setPort sound, by rwa [State.port_setPort_self]⟩
  have stays : s.KeepsPorts s ∧ (s.port p).phase = (s.port p).phase := ⟨.refl s, rfl⟩
  rcases h with rfl | rfl | rfl
  · simp only [Command.rule, portModeRule]
    split
    · split
      · exact own rfl fun b sound => ⟨sound.ready, sound.attn, sound.response, sound.waiting, sound.held⟩
      · exact stays
    · exact stays
  · exact own rfl fun b sound => ⟨sound.ready, rfl, sound.response, sound.waiting, sound.held⟩
  · simp only [Command.rule, eventMaskRule]
    split
    · split
      · exact own rfl fun b sound => ⟨sound.ready, rfl, sound.response, sound.waiting, sound.held⟩
      · exact stays
    · exact stays

/-- R39: the rule of ABORT keeps the ports, and the phase of a port that does not wait. -/
theorem abortRule_keepsPorts (ps : List Byte) (s : State) : s.KeepsPorts (abortRule ps s).1 ∧
    ((s.feed p).wait = none → ((abortRule ps s).1.port p).phase = (s.port p).phase) := by
  have aborts := State.KeepsPorts.abortTake s
  simp only [abortRule]
  cases state : s.take.state with
  | idle => exact ⟨.refl s, fun _ => rfl⟩
  | armed => exact ⟨.refl s, fun _ => rfl⟩
  | starting =>
    refine ⟨aborts, fun _ => ?_⟩
    dsimp only
    rw [State.abortTake_starting state]
    exact ((State.RaisesOnly.toTake s .idle).ports p).phase_eq
  | rolling => exact ⟨aborts, fun none => ((State.KeepsAnswers.abortTake (.inl state)).keeps p none).2.1⟩
  | closing => exact ⟨aborts, fun none => ((State.KeepsAnswers.abortTake (.inr state)).keeps p none).2.1⟩

/-- R146, R148: the rule of every command, and its answer, at a port in EXECUTING. -/
theorem PortsSound.rule (h : PortsSound s) (executing : (s.port p).phase = .executing) (c : Command) (ps : List Byte) :
    PortsSound ((c.rule p ps s).1.answer p (c.rule p ps s).2) := by
  by_cases next : c = .next
  · subst next
    exact h.nextRule executing ps
  have kept : s.KeepsPorts (c.rule p ps s).1 ∧ ((c.rule p ps s).1.port p).phase = .executing := by
    cases raises : c.raisesOnly with
    | true =>
      have only := Command.rule_raisesOnly raises p ps s
      exact ⟨only.keepsPorts, (only.ports p).phase_eq.trans executing⟩
    | false =>
      have waits : (s.feed p).wait = none := by
        simpa using ((portsSound_iff.1 h p).of_executing executing).2.1
      cases c
      case abort =>
        obtain ⟨keeps, phase⟩ := abortRule_keepsPorts (p := p) ps s
        exact ⟨keeps, (phase waits).trans executing⟩
      case next => exact absurd rfl next
      case portMode => exact (portRules_keepPort ps s (.inl rfl)).imp_right fun phase => phase.trans executing
      case events => exact (portRules_keepPort ps s (.inr (.inl rfl))).imp_right fun phase => phase.trans executing
      case eventMask => exact (portRules_keepPort ps s (.inr (.inr rfl))).imp_right fun phase => phase.trans executing
      all_goals cases raises
  obtain ⟨r, out⟩ := Command.rule_responds next p ps s
  rw [out]
  exact (kept.1.sound h).answer kept.2 r

/-- R144 to R148: the row of a command. -/
theorem State.KeepsPorts.runCommand (s : State) (c : Command) (p : Port) (clocks : List Lanes) :
    s.KeepsPorts (s.runCommand c (c.rule p) p clocks) := by
  obtain e | ⟨running, -, e⟩ | ⟨w, f, running, hf, -, -, e⟩ | ⟨w, f, running, hf, -, -, e⟩ :=
    State.runCommand_cases s c (c.rule p) p clocks
  · rw [e]
    exact .refl s
  · rw [e]
    exact .frameFails running p clocks
  · rw [e]
    exact ⟨fun hs => ((State.KeepsPorts.frameEnds running hf).sound hs).answer (State.frameEnds_phase hf) _⟩
  · rw [e]
    exact ⟨fun hs => ((State.KeepsPorts.frameEnds running hf).sound hs).rule (State.frameEnds_phase hf) c f.params⟩

/-- R146: BAD_COMMAND. -/
theorem execBadCommand_keepsPorts {clocks : List Lanes} (h : execBadCommand p clocks s = .next u) : s.KeepsPorts u := by
  cases h
  split
  · exact .refl s
  · next running =>
    rw [Bool.not_eq_true] at running
    split
    · next w f hf =>
      split
      · exact ⟨fun hs => ((State.KeepsPorts.frameEnds running hf).sound hs).answer (State.frameEnds_phase hf) _⟩
      · exact .refl s
    · exact .frameFails running p clocks

/-! ### Transfers (R142, R143, R145, R147, R149, R150) -/

/-- R142, R143: a transfer without a transfer code. -/
theorem State.KeepsPorts.codelessTransfer (s : State) (p : Port) (n : Nat) : s.KeepsPorts (s.codelessTransfer p n) := by
  rcases s.codelessTransfer_cases p n with ⟨-, e⟩ | ⟨-, e⟩
  · rw [e]
    exact .refl s
  · rw [e]
    exact .setPort fun b sound => ⟨sound.select.ready, sound.select.attn, sound.select.response, sound.select.waiting,
      sound.select.held⟩

/-- R143, R144, R147, R150: FRAME_START. -/
theorem State.KeepsPorts.frameStart (running : s.resetHeld = false) (p : Port) (clocks : List Lanes) (ended : Bool) :
    s.KeepsPorts (s.frameStart p clocks ended) := by
  have ignored : s.KeepsPorts (s.setPort p { (s.port p).select.drivesFiller clocks.length with
      inputDropped := true, restIgnored := !ended }) :=
    .setPort fun b sound => ⟨sound.select.ready, sound.select.attn, sound.select.response, sound.select.waiting,
      sound.select.held⟩
  unfold State.frameStart
  dsimp only
  split
  · exact .codelessTransfer s p _
  · split
    · exact .refl s
    · cases phase : (s.port p).phase with
      | executing => exact ignored
      | waiting => exact ignored
      | receiving => exact .refl s
      | sending => exact .refl s
      | idle =>
        refine .setPort fun b sound => ?_
        rw [running] at sound ⊢
        obtain ⟨rfl, response⟩ := sound.free (.inl phase)
        exact .receive sound.select.attn (by rwa [PortState.select_eq]) clocks ended
      | responseReady =>
        refine .dropResponse (fun b sound => ?_) rfl (fun _ => rfl) (fun q other => State.port_setPort_ne _ _ other)
        have waits := sound.waiting
        rw [phase] at waits
        cases waits
        rw [running]
        refine .receive ?_ ?_ clocks ended
        · simpa [State.dropResponse] using sound.select.attn
        · simp [State.dropResponse]

/-- R149, R152: further bytes of a response sent. -/
theorem State.KeepsPorts.send (s : State) (p : Port) (clocks : List Lanes) : s.KeepsPorts (s.send p clocks) := by
  cases response : (s.port p).response with
  | none => simpa only [State.send, response] using State.KeepsPorts.refl s
  | some r =>
    rw [State.send_eq clocks response]
    refine .trans (.setPort (p := p) fun b sound => ?_) (State.RaisesOnly.setFeed _ p ?_).keepsPorts
    · exact ⟨sound.ready, sound.attn, sound.response, sound.waiting, sound.held⟩
    · rfl

/-- R147, R149: READ. -/
theorem State.KeepsPorts.readTransfer (running : s.resetHeld = false) (p : Port) (clocks : List Lanes) :
    s.KeepsPorts (s.readTransfer p clocks) := by
  have filled : ∀ lanes, s.KeepsPorts (s.setPort p { (s.port p).select with driven := lanes }) := fun lanes =>
    .setPort fun b sound => ⟨sound.select.ready, sound.select.attn, sound.select.response, sound.select.waiting,
      sound.select.held⟩
  unfold State.readTransfer
  dsimp only
  split
  · exact .codelessTransfer s p _
  · split
    · cases phase : (s.port p).phase with
      | idle => exact filled _
      | executing => exact filled _
      | waiting => exact filled _
      | receiving => exact .refl s
      | sending => exact .refl s
      | responseReady =>
        refine .trans (.setPort fun b sound => ?_) (.send _ p _)
        obtain ⟨-, attn, response, waiting, -⟩ := sound.select
        rw [PortState.select_eq] at response waiting
        rw [phase] at response waiting
        rw [running]
        exact ⟨rfl, attn, by rw [PortState.select_eq]; exact response, waiting, nofun⟩
    · exact .refl s

/-- R149, R153: RESPONSE_END. -/
theorem State.KeepsPorts.endResponse (running : s.resetHeld = false) (p : Port) (clocks : List Lanes) :
    s.KeepsPorts (s.endResponse p clocks) := by
  unfold State.endResponse
  dsimp only
  split
  · next sending =>
    refine .trans (.send s p clocks) (.dropResponse (fun b sound => ?_) rfl (fun _ => rfl) (fun _ _ => rfl))
    have waits := sound.waiting
    rw [State.send_phase, sending] at waits
    cases waits
    rw [(s.send_frame p clocks).2.2.2.2.2.2.2.2.2.2.1, running, PortState.deselect_eq]
    exact .of_free (by simpa [State.dropResponse] using sound.attn) (by simp [State.dropResponse]) rfl (.inl rfl)
  · exact .refl s

/-! ### Every row -/

/-- R159: the ports after reset. -/
theorem portsSound_resetAt {t : Nat} {held : Bool} (h : u.ports = (State.resetAt t held).ports ∧
    u.feeds = (State.resetAt t held).feeds ∧ u.resetHeld = held) : PortsSound u := by
  refine portsSound_iff.2 fun p => ?_
  obtain ⟨ports, feeds, reset⟩ := h
  rw [← State.ports_get, ← State.feeds_get, ports, feeds, reset]
  have port : (State.resetAt t held).ports.get p = PortState.reset (!held) := by cases p <;> rfl
  have feed : (State.resetAt t held).feeds.get p = FeedState.reset := by cases p <;> rfl
  rw [port, feed]
  exact ⟨(Bool.and_true _).symm, by simp [PortState.reset, attnOf], rfl, rfl, fun _ => rfl⟩

theorem State.KeepsPorts.advance (s : State) (t : Nat) : s.KeepsPorts (s.advance t) := .of_same ⟨rfl, rfl, rfl⟩

/-- R159: an event of a block. -/
theorem State.KeepsPorts.eventAt (s : State) (t : Nat) {effect : State → State} (h : ∀ w : State, w.KeepsPorts (effect w)) :
    s.KeepsPorts (s.eventAt t effect) :=
  (State.KeepsPorts.advance s t).trans ((h _).unlessHeld _)

/-- R159: a transfer, which RESET holds back. -/
theorem State.KeepsPorts.transfer {w : State} (h : s.resetHeld = false → s.KeepsPorts w) :
    s.KeepsPorts (if s.resetHeld then s else w) := by
  split
  · exact .refl s
  · next running => exact h (by simpa using running)

/-- R145: an incomplete frame abandoned, the lanes, the mode and what is left of the assertion apart. -/
theorem State.KeepsPorts.abandons {x : PortState} (running : s.resetHeld = false) (opened : (s.port p).frameOpen = true)
    (same : x = { s.port p with
      phase := .idle, readyHigh := true, rx := x.rx, inputDropped := x.inputDropped, restIgnored := x.restIgnored
      laneMode := x.laneMode, modeDue := x.modeDue, clocks := x.clocks, driven := x.driven }) :
    s.KeepsPorts (s.setPort p x) := by
  refine .setPort fun b sound => ?_
  have receiving : (s.port p).phase = .receiving := by
    simp only [PortState.frameOpen, Bool.and_eq_true, decide_eq_true_eq] at opened
    exact opened.1
  rw [running] at sound ⊢
  obtain ⟨rfl, response⟩ := sound.free (.inr (.inl receiving))
  rw [same]
  exact .of_free sound.attn response rfl (.inl rfl)

/-- R164: steps at the links. -/
theorem State.KeepsPorts.linkSteps (s : State) (steps : List LinkStep) : s.KeepsPorts (s.linkSteps steps) := by
  have one : ∀ (w : State) (a : LinkStep), w.KeepsPorts (w.linkStep a) := fun w a => by
    cases a with
    | transition l => exact (State.RaisesOnly.transition w l w.now).keepsPorts
    | timeout l => exact (State.RaisesOnly.silence w l).keepsPorts
    | restart p clocks => exact .runCommand w .linkRestart p clocks
    | setup p clocks => exact .runCommand w .linkSetup p clocks
  induction steps generalizing s with
  | nil => exact .refl s
  | cons a rest ih => exact (one s a).trans (ih _)

/-- 95: every row of the table keeps the ports of a safe run. -/
theorem exec_keepsPorts {i : Instr} (h : exec i s = .next u) : s.KeepsPorts u := by
  have command : ∀ {p clocks c}, commandRow? i = some (p, clocks, c) → s.KeepsPorts u := by
    intro p clocks c row
    rw [exec_command row] at h
    cases h
    exact (State.KeepsPorts.advance s _).trans (.runCommand _ c p clocks)
  have block : ∀ (t : Nat) {effect : State → State}, (∀ w : State, w.RaisesOnly (effect w)) →
      s.KeepsPorts (s.eventAt t effect) := fun t _ he => .eventAt s t fun w => (he w).keepsPorts
  have event : ∀ (t : Nat) (wanted : State → Bool) {between : State → State}, (∀ w : State, w.KeepsPorts (between w)) →
      s.KeepsPorts (s.eventAt t fun w => w.sampleIf wanted between) := fun t wanted _ hb =>
    .eventAt s t fun w => .sampleIf w wanted hb
  cases i with
  | lineTransition l t => cases h; exact block t fun w => .transition w l w.now
  | edgeTimeout l t => cases h; exact block t fun w => .silence w l
  | wclkEdge t =>
    cases h
    refine block t fun w => ?_
    split
    · exact .referenceEdge w _
    · exact .refl w
  | latePeriod t =>
    cases h
    refine block t fun w => ?_
    split
    · exact .takeLate w _
    · exact .refl w
  | referenceAbsent t =>
    cases h
    refine block t fun w => ?_
    split
    · exact .takeAbsence w _
    · exact .refl w
  | samplePeriodEvent x => cases h; exact event x.tick _ fun w => .linkSteps w x.between
  | takeLengthLimit t => cases h; exact event t _ .refl
  | positionLimit t => cases h; exact event t _ .refl
  | nextWaitExpiry p t => cases h; exact event t _ .refl
  | recordPlacement => cases h; exact (State.RaisesOnly.placeNext s).keepsPorts.unlessHeld _
  | recordPublication => cases h; exact (State.KeepsPorts.publishNext s).unlessHeld _
  | faultRequestTaken => cases h; exact (State.RaisesOnly.takeFaultRequest s).keepsPorts.unlessHeld _
  | frameStart p clocks ended => cases h; exact .transfer fun running => .frameStart running p clocks ended
  | frameAbandoned p =>
    cases h
    split
    · exact .refl s
    · next go =>
      simp only [Bool.or_eq_true, Bool.not_eq_true', not_or, Bool.not_eq_true, Bool.not_eq_false] at go
      exact .abandons go.1 go.2 (by rw [PortState.deselect_eq]; rfl)
  | receiveTimeout x =>
    cases h
    split
    · exact .refl s
    · next go =>
      simp only [Bool.or_eq_true, Bool.not_eq_true', not_or, Bool.not_eq_true, Bool.not_eq_false] at go
      exact .abandons go.1 go.2 rfl
  | badCommand p clocks => exact execBadCommand_keepsPorts h
  | read p clocks => cases h; exact .transfer fun running => .readTransfer running p clocks
  | responseEnd p clocks => cases h; exact .transfer fun running => .endResponse running p clocks
  | reset t => cases h; exact ⟨fun _ => portsSound_resetAt (t := s.moment t) (held := true) ⟨rfl, rfl, rfl⟩⟩
  | resetEnd t =>
    cases h
    split
    · exact ⟨fun _ => portsSound_resetAt (t := s.moment t) (held := false) ⟨rfl, rfl, rfl⟩⟩
    · exact .of_same ⟨rfl, rfl, rfl⟩
  | _ => exact command rfl

end

/-- Settles O4: the row at the front of the queue keeps the ports, and with an empty queue the part idles. -/
theorem stepsKeepPortsSound : Obligations.StepsKeepPortsSound := by
  intro s t sound h
  cases queue : s.pending with
  | nil =>
    simp only [step, queue] at h
    cases h
    exact sound
  | cons i rest =>
    simp only [step, queue] at h
    have waits : s.KeepsPorts { s with pending := rest } := .of_same ⟨rfl, rfl, rfl⟩
    exact (waits.trans (exec_keepsPorts h)).sound sound

end Sys2Proof.Machine
end

section
/-! Bytes on the lanes (R142, R163): SCLK periods byte by byte in either lane mode, what is read back, what is left over, and
what the port drives. -/

namespace Sys2Proof.Machine

/-! ### Periods byte by byte -/

theorem bytePeriods_pos (m : LaneMode) : 0 < bytePeriods m := by cases m <;> decide

/-- R142: periods short of a byte are left over. -/
theorem bytesIn_short (m : LaneMode) {l : List Lanes} (h : l.length < bytePeriods m) : bytesIn m l = ([], l) := by
  cases m with
  | single =>
    match l, h with
    | [], _ | [_], _ | [_, _], _ | [_, _, _], _ | [_, _, _, _], _ | [_, _, _, _, _], _ | [_, _, _, _, _, _], _
    | [_, _, _, _, _, _, _], _ => rfl
    | _ :: _ :: _ :: _ :: _ :: _ :: _ :: _ :: rest, h => simp [bytePeriods] at h; omega
  | quad =>
    match l, h with
    | [], _ | [_], _ => rfl
    | _ :: _ :: rest, h => simp [bytePeriods] at h

/-- R142: the periods of a first byte give that byte, whatever follows. -/
theorem bytesIn_first (m : LaneMode) {first : List Lanes} (h : first.length = bytePeriods m) :
    ∃ b, ∀ rest, bytesIn m (first ++ rest) = (b :: (bytesIn m rest).1, (bytesIn m rest).2) := by
  cases m with
  | single => match first, h with | [_, _, _, _, _, _, _, _], _ => exact ⟨_, fun _ => rfl⟩
  | quad => match first, h with | [_, _], _ => exact ⟨_, fun _ => rfl⟩

/-- R142: what holds of periods short of a byte, and of a byte's periods before others of which it holds, holds of all. -/
theorem periods_induction (m : LaneMode) {P : List Lanes → Prop} (short : ∀ l, l.length < bytePeriods m → P l)
    (byte : ∀ first rest, first.length = bytePeriods m → P rest → P (first ++ rest)) (l : List Lanes) : P l := by
  by_cases h : l.length < bytePeriods m
  · exact short l h
  · have pos := bytePeriods_pos m
    rw [← List.take_append_drop (bytePeriods m) l]
    exact byte _ _ (by rw [List.length_take]; omega) (periods_induction m short byte (l.drop (bytePeriods m)))
termination_by l.length
decreasing_by rw [List.length_drop]; omega

/-- R142: the whole bytes of some periods and the periods left over. -/
theorem length_bytesIn (m : LaneMode) (l : List Lanes) : (bytesIn m l).1.length = l.length / bytePeriods m := by
  induction l using periods_induction m with
  | short l h =>
    rw [bytesIn_short m h, Nat.div_eq_of_lt h]
    rfl
  | byte first rest h ih =>
    obtain ⟨b, hb⟩ := bytesIn_first m h
    rw [hb, List.length_cons, ih, List.length_append, h, Nat.add_div_left _ (bytePeriods_pos m)]

/-- R142: the periods of a byte may come in any number of parts. -/
theorem bytesIn_append (m : LaneMode) (a b : List Lanes) : bytesIn m (a ++ b) =
    ((bytesIn m a).1 ++ (bytesIn m ((bytesIn m a).2 ++ b)).1, (bytesIn m ((bytesIn m a).2 ++ b)).2) := by
  induction a using periods_induction m with
  | short l h =>
    rw [bytesIn_short m h]
    rfl
  | byte first rest h ih =>
    obtain ⟨x, hx⟩ := bytesIn_first m h
    rw [List.append_assoc, hx, hx, ih]
    rfl

/-- R142: with a first byte whole, the bytes after it are those of the periods after its own. -/
theorem bytesIn_drop {m : LaneMode} {l : List Lanes} {b : Byte} {more : List Byte} (h : (bytesIn m l).1 = b :: more) :
    bytePeriods m ≤ l.length ∧ (bytesIn m (l.drop (bytePeriods m))).1 = more := by
  have enough : bytePeriods m ≤ l.length := by
    by_contra short
    rw [bytesIn_short m (Nat.lt_of_not_le short)] at h
    cases h
  refine ⟨enough, ?_⟩
  obtain ⟨x, hx⟩ := bytesIn_first m (first := l.take (bytePeriods m)) (by rw [List.length_take]; omega)
  rw [← List.take_append_drop (bytePeriods m) l, hx] at h
  exact (List.cons.inj h).2

/-! ### Bytes laid on the lanes (R163) -/

@[simp] theorem length_periodsOfByte (m : LaneMode) (b : Byte) : (periodsOfByte m b).length = bytePeriods m := by
  cases m <;> simp [periodsOfByte, bytePeriods]

/-- R163: a byte laid on the lanes is read back. -/
theorem bytesIn_periodsOfByte (m : LaneMode) (b : Byte) (rest : List Lanes) :
    bytesIn m (periodsOfByte m b ++ rest) = (b :: (bytesIn m rest).1, (bytesIn m rest).2) := by
  cases m with
  | single =>
    have lane : ∀ x : Bool, (if x then 1#4 else 0#4).getLsbD 0 = x := by decide
    have bits : numberOfBits ((bitsOf 8 b.toNat).map fun x => (if x then 1#4 else 0#4).getLsbD 0) = b.toNat := by
      simp only [lane, List.map_id', numberOfBits_bitsOf_of_lt b.isLt]
    have byte : BitVec.ofNat 8 (numberOfBits (((bitsOf 8 b.toNat).map fun x => if x then 1#4 else 0#4).map
        fun x => x.getLsbD 0)) = b := by
      rw [List.map_map]
      exact (congrArg _ bits).trans (by simp)
    exact congrArg (fun x => (x :: (bytesIn .single rest).1, (bytesIn .single rest).2)) byte
  | quad =>
    have byte : BitVec.append (b.extractLsb' 4 4) (b.extractLsb' 0 4) = b := by
      revert b
      decide
    exact congrArg (fun x => (x :: (bytesIn .quad rest).1, (bytesIn .quad rest).2)) byte

/-- R142, R163: bytes laid on the lanes are read back whole, and periods short of a byte are left over. -/
theorem bytesIn_periodsOf (m : LaneMode) (bs : List Byte) {part : List Lanes} (h : part.length < bytePeriods m) :
    bytesIn m (periodsOf m bs ++ part) = (bs, part) := by
  induction bs with
  | nil => exact bytesIn_short m h
  | cons b bs ih =>
    have laid : periodsOf m (b :: bs) ++ part = periodsOfByte m b ++ (periodsOf m bs ++ part) := by
      simp [periodsOf]
    rw [laid, bytesIn_periodsOfByte, ih]

/-- R163: in SINGLE mode the bytes depend on D0 alone. -/
theorem bytesIn_single_d0 (l : List Lanes) : (bytesIn .single l).1 =
    (bytesIn .single ((l.map (·.getLsbD 0)).map fun x => if x then 1#4 else 0#4)).1 := by
  have lane : ∀ x : Bool, (if x then 1#4 else 0#4).getLsbD 0 = x := by decide
  induction l using periods_induction .single with
  | short l h =>
    rw [bytesIn_short _ h, bytesIn_short _ (by simpa using h)]
  | byte first rest h ih =>
    match first, h with
    | [_, _, _, _, _, _, _, _], _ =>
      simp only [bytesIn] at ih
      simp only [bytesIn, List.cons_append, List.nil_append, List.map_cons, singleBytes, lane, List.map_nil, ih]

/-! ### What a port drives (R142, R163) -/

theorem getElem?_bitsOf {w n i : Nat} (h : i < w) : (bitsOf w n)[i]? = some (n.testBit (w - 1 - i)) := by
  induction w generalizing i with
  | zero => omega
  | succ w ih =>
    cases i with
    | zero => rfl
    | succ i =>
      rw [bitsOf, List.getElem?_cons_succ, ih (by omega)]
      congr 2
      omega

/-- Settles O10: each lane mode byte by byte, then the lanes of a byte sent and of filler. -/
theorem bytesCrossTheLanes : Obligations.BytesCrossTheLanes := by
  refine ⟨fun bs part h => bytesIn_periodsOf .single bs h, fun bs part h => bytesIn_periodsOf .quad bs h,
    fun a b h => ?_, fun b => ⟨drivenByte_length .single b, fun i h => ?_⟩, fun b => ?_, fun n i h => ?_⟩
  · rw [bytesIn_single_d0 a, bytesIn_single_d0 b, h]
  · rw [drivenByte, List.getElem?_map, getElem?_bitsOf h]
    rfl
  · refine ⟨b.extractLsb' 4 4, b.extractLsb' 0 4, rfl, ?_⟩
    have := b.isLt
    simp only [BitVec.extractLsb'_toNat, Nat.shiftRight_eq_div_pow]
    omega
  · simp [fillerIn, fillerOut, h]

end Sys2Proof.Machine
end

section
/-! Command frames (09 §9.2, §9.3; R142 to R147, R150, R153): their bytes clocked in, how they begin, arrive, and are
abandoned. -/

namespace Sys2Proof.Machine

/-! ### A frame clocked in (R144) -/

theorem fillerIn_append (m : LaneMode) (a b : Nat) : fillerIn m a ++ fillerIn m b = fillerIn m (a + b) :=
  List.replicate_append_replicate

/-- R142: the periods of a frame may come in two parts. -/
theorem PortState.clockIn_append (q : PortState) (a b : List Lanes) : (q.clockIn a).clockIn b = q.clockIn (a ++ b) := by
  have bytes := bytesIn_append q.laneMode (q.clocks ++ a) b
  rw [List.append_assoc] at bytes
  simp only [PortState.clockIn, PortState.drivesFiller, bytes, List.foldl_append, List.append_assoc, fillerIn_append,
    List.length_append]

/-- R144: parameter bytes are counted, and the first 250 kept. -/
theorem clockBytes_params (code n : Byte) (before ps : List Byte) (h : before.length + ps.length ≤ n.toNat) :
    ps.foldl ReceiveBuffer.clockByte ⟨some code, some n, before.take 250, before.length⟩ =
      ⟨some code, some n, (before ++ ps).take 250, before.length + ps.length⟩ := by
  induction ps generalizing before with
  | nil => simp
  | cons b ps ih =>
    rw [List.length_cons] at h
    have kept : (if before.length < 250 then before.take 250 ++ [b] else before.take 250) = (before ++ [b]).take 250 := by
      split
      · rw [List.take_of_length_le (by omega), List.take_of_length_le (by simp; omega)]
      · rw [List.take_append_of_le_length (by omega)]
    have one : ReceiveBuffer.clockByte ⟨some code, some n, before.take 250, before.length⟩ b =
        ⟨some code, some n, (before ++ [b]).take 250, (before ++ [b]).length⟩ := by
      rw [← kept, List.length_append]
      exact if_pos (show before.length < n.toNat by omega)
    rw [List.foldl_cons, one, ih _ (by rw [List.length_append]; simp; omega)]
    simp only [List.append_assoc, List.cons_append, List.nil_append, List.length_append, List.length_cons,
      List.length_nil, ReceiveBuffer.mk.injEq, true_and]
    omega

/-- R144: the bytes of a frame leave its code, its length and its parameters in the receive buffer. -/
theorem clockBytes_frame (code : Byte) {ps : List Byte} (h : ps.length ≤ 255) :
    (((code :: BitVec.ofNat 8 ps.length :: ps).foldl ReceiveBuffer.clockByte ReceiveBuffer.empty).frame?) =
      some ⟨code, ps.length, ps.take 250⟩ := by
  have length : (BitVec.ofNat 8 ps.length).toNat = ps.length := by
    rw [BitVec.toNat_ofNat]
    omega
  have params := clockBytes_params code (BitVec.ofNat 8 ps.length) [] ps (by rw [length]; simp)
  have frame : (code :: BitVec.ofNat 8 ps.length :: ps).foldl ReceiveBuffer.clockByte ReceiveBuffer.empty =
      ⟨some code, some (BitVec.ofNat 8 ps.length), ps.take 250, ps.length⟩ := by
    simp only [List.nil_append, List.length_nil, Nat.zero_add, List.take_nil] at params
    exact params
  simp only [frame, ReceiveBuffer.frame?, length, Nat.lt_irrefl, if_false]

/-- R144: once in the receive buffer, the code stays. -/
theorem clockBytes_code {rx : ReceiveBuffer} {code : Byte} (h : rx.code = some code) (bs : List Byte) :
    (bs.foldl ReceiveBuffer.clockByte rx).code = some code := by
  induction bs generalizing rx with
  | nil => exact h
  | cons b bs ih =>
    refine ih ?_
    unfold ReceiveBuffer.clockByte
    rw [h]
    split
    · next absent => cases absent
    · rfl
    · split
      · rfl
      · exact h

/-- R123, R150: a response that leaves its port, whatever becomes of the port. -/
theorem State.dropResponse_setPort (s : State) (p : Port) (x y : PortState) :
    ((s.setPort p x).dropResponse p).setPort p y = (s.setFeed p { s.feed p with transfer := none }).setPort p y := by
  cases p <;> rfl

/-- R149, R150: the port that its response has left. -/
theorem State.dropResponse_port (s : State) (p : Port) :
    (s.dropResponse p).port p = { s.port p with response := none, sent := 0 } := by
  cases p <;> rfl

/-- A port written alone, as the statements write it. -/
theorem State.setPort_after (s : State) (p : Port) (x : PortState) :
    s.setPort p x = { s with ports := s.portsAfter p ((s.setPort p x).port p) id } := by
  rw [State.port_setPort_self, State.setPort_eq_portsAfter]

/-! ### The rows of a frame -/

section
variable (s : State) (p : Port) (clocks : List Lanes) (ended : Bool)

/-- R144: a port selected for a frame, with nothing of it clocked in. -/
def PortState.opened (q : PortState) : PortState := { q.toPhase .receiving with rx := ReceiveBuffer.empty }

theorem PortState.receive_open (q : PortState) : q.receive clocks false = q.opened.clockIn clocks := rfl

theorem PortState.receive_ended (q : PortState) : q.receive clocks true = (q.opened.clockIn clocks).endFrame := rfl

/-- R144: a frame that completes at the deassertion of SEL. -/
theorem PortState.endFrame_complete {q : PortState} {f : Frame} (h : q.rx.frame? = some f) :
    q.endFrame = q.deselect.toPhase .executing := by simp only [PortState.endFrame, h]

/-- R145: a frame that does not. -/
theorem PortState.endFrame_incomplete {q : PortState} (h : q.rx.frame? = none) : q.endFrame = q.deselect.abandon := by
  simp only [PortState.endFrame, h]

/-- R144: a frame that ends in RECEIVING. -/
theorem State.frameEnds_receiving {f : Frame} (receiving : (s.port p).phase = .receiving)
    (h : ((s.port p).clockIn clocks).rx.frame? = some f) :
    s.frameEnds p clocks = some (s.setPort p ((s.port p).clockIn clocks).endFrame, f) := by
  simp only [State.frameEnds, receiving, h, Option.map_some]

/-- R144: a frame in hand at a port in EXECUTING. -/
theorem State.frameEnds_executing {f : Frame} (executing : (s.port p).phase = .executing)
    (h : (s.port p).rx.frame? = some f) : s.frameEnds p clocks = some (s, f) := by
  simp only [State.frameEnds, executing, h, Option.map_some]

section
variable {s p clocks} {code : Byte} {more : List Byte} (running : s.resetHeld = false)
  (bytes : (bytesIn (s.port p).select.laneMode clocks).1 = code :: more) (command : code ≠ 0)
include running bytes command

/-- R143, R144: a command code at an IDLE port begins a frame. -/
theorem exec_frameStart_idle (idle : (s.port p).phase = .idle) :
    exec (.frameStart p clocks ended) s = .next (s.setPort p ((s.port p).select.receive clocks ended)) := by
  have notRead : code ≠ readCode := command
  simp [exec, execFrameStart, State.frameStart, running, bytes, notRead, idle]

/-- R147: a command code in EXECUTING and WAITING. -/
theorem exec_frameStart_busy (busy : (s.port p).phase = .executing ∨ (s.port p).phase = .waiting) :
    exec (.frameStart p clocks ended) s = .next (s.setPort p
      { (s.port p).select.drivesFiller clocks.length with inputDropped := true, restIgnored := !ended }) := by
  have notRead : code ≠ readCode := command
  rcases busy with phase | phase <;>
    simp [exec, execFrameStart, State.frameStart, running, bytes, notRead, phase]

/-- R150: a command code in RESPONSE_READY discards the response and begins a frame. -/
theorem exec_frameStart_discards (ready : (s.port p).phase = .responseReady) :
    exec (.frameStart p clocks ended) s = .next ((s.setFeed p { s.feed p with transfer := none }).setPort p
      ({ (s.port p).select with response := none, sent := 0, responseDiscarded := true }.receive clocks ended)) := by
  have notRead : code ≠ readCode := command
  simp [exec, execFrameStart, State.frameStart, running, bytes, notRead, ready, State.dropResponse_setPort,
    State.dropResponse_port]

end

end

/-- R144: the port once the periods of a whole frame have been clocked in. -/
theorem PortState.clockIn_frame {q : PortState} {clocks : List Lanes} {code : Byte} {ps : List Byte} (fresh : q.clocks = [])
    (short : ps.length ≤ 255)
    (laid : clocks = periodsOf q.laneMode (code :: BitVec.ofNat 8 ps.length :: ps)) :
    (q.opened.clockIn clocks).rx.frame? = some ⟨code, ps.length, ps.take 250⟩ := by
  have bytes := bytesIn_periodsOf q.laneMode (code :: BitVec.ofNat 8 ps.length :: ps) (part := []) (bytePeriods_pos _)
  rw [List.append_nil, ← laid] at bytes
  have got : (q.opened.clockIn clocks).rx =
      (code :: BitVec.ofNat 8 ps.length :: ps).foldl ReceiveBuffer.clockByte ReceiveBuffer.empty := by
    simp only [PortState.clockIn, PortState.opened, PortState.toPhase, fresh, List.nil_append, bytes]
  rw [got, clockBytes_frame code short]

/-- R144, R153: the port at the end of a whole frame. -/
theorem PortState.arrived_fields (q : PortState) (clocks : List Lanes) :
    let e := (q.opened.clockIn clocks).deselect.toPhase .executing
    e.phase = .executing ∧ e.readyHigh = false ∧ e.laneMode = q.modeDue.getD q.laneMode ∧ e.modeDue = none ∧
      e.driven = q.driven ++ fillerIn q.laneMode clocks.length ∧ e.rx = (q.opened.clockIn clocks).rx := by
  dsimp only
  rw [PortState.deselect_eq]
  exact ⟨rfl, rfl, rfl, rfl, rfl, rfl⟩

/-- Settles O11: the periods of the frame are those of the code, the length and the parameters, however they are split. -/
theorem frameArrivesWhole : Obligations.FrameArrivesWhole := by
  intro s p first rest code ps running idle command short laid enough
  have fresh : (s.port p).select.clocks = [] ∧ (s.port p).select.driven = [] := by
    rw [PortState.select_eq]
    exact ⟨rfl, rfl⟩
  have whole := PortState.clockIn_frame fresh.1 short laid
  obtain ⟨executing, ready, mode, due, driven, rx⟩ := (s.port p).select.arrived_fields (first ++ rest)
  rw [fresh.2, List.nil_append, List.length_append] at driven
  have bytes : ∃ more, (bytesIn (s.port p).select.laneMode first).1 = code :: more := by
    have all := bytesIn_periodsOf (s.port p).select.laneMode (code :: BitVec.ofNat 8 ps.length :: ps) (part := [])
      (bytePeriods_pos _)
    rw [List.append_nil, ← laid, bytesIn_append] at all
    rw [length_periodsOfByte] at enough
    have nonempty : 0 < (bytesIn (s.port p).select.laneMode first).1.length := by
      rw [length_bytesIn]
      exact Nat.div_pos enough (bytePeriods_pos _)
    obtain ⟨b, more, hb⟩ := List.exists_cons_of_length_pos nonempty
    rw [hb] at all
    exact ⟨more, by rw [hb, (List.cons.inj (Prod.mk.inj all).1).1]⟩
  obtain ⟨more, bytes⟩ := bytes
  have all : (bytesIn (s.port p).select.laneMode (first ++ rest)).1 = code :: BitVec.ofNat 8 ps.length :: ps := by
    have := bytesIn_periodsOf (s.port p).select.laneMode (code :: BitVec.ofNat 8 ps.length :: ps) (part := [])
      (bytePeriods_pos _)
    rw [laid, ← List.append_nil (periodsOf _ _), this]
  refine ⟨⟨_, ((s.port p).select.opened.clockIn (first ++ rest)).endFrame,
    exec_frameStart_idle false running bytes command idle, s.setPort_after p _, ?_⟩,
    ⟨_, exec_frameStart_idle true running all command idle, s.setPort_after p _, ?_⟩⟩
  · rw [PortState.receive_open, State.port_setPort_self, PortState.endFrame_complete whole]
    have later := (s.setPort p ((s.port p).select.opened.clockIn first)).frameEnds_receiving p rest
      (by rw [State.port_setPort_self]; rfl) (by rw [State.port_setPort_self, PortState.clockIn_append, whole])
    rw [State.port_setPort_self, PortState.clockIn_append, PortState.endFrame_complete whole] at later
    exact ⟨rfl, rfl, later, executing, ready, mode, due, by rw [← List.nil_append (fillerIn _ _), ← fresh.2]; rfl, driven⟩
  · rw [PortState.receive_ended, PortState.endFrame_complete whole, State.port_setPort_self]
    exact ⟨executing, ready, State.frameEnds_executing _ p [] (by rw [State.port_setPort_self, executing])
      (by rw [State.port_setPort_self, rx, whole]), driven⟩

end Sys2Proof.Machine
end

section
/-! Frames begun outside IDLE and frames abandoned (09 §9.2, §9.3; R142, R145, R147, R150, R153). -/

namespace Sys2Proof.Machine

/-! ### A frame begun outside IDLE (R147, R150) -/

/-- R144, R145: the events, the mask and the lanes of a port through a frame's end. -/
theorem PortState.endFrame_keeps (q : PortState) : q.endFrame.response = q.response ∧ q.endFrame.sent = q.sent ∧
    q.endFrame.responseDiscarded = q.responseDiscarded ∧ q.endFrame.driven = q.driven ∧
    q.endFrame.events = q.events ∧ q.endFrame.mask = q.mask := by
  unfold PortState.endFrame
  rw [PortState.deselect_eq]
  split <;> exact ⟨rfl, rfl, rfl, rfl, rfl, rfl⟩

/-- R142, R144: so also through a frame received from its beginning, with filler going out. -/
theorem PortState.receive_keeps (q : PortState) (clocks : List Lanes) (ended : Bool) :
    (q.receive clocks ended).response = q.response ∧ (q.receive clocks ended).sent = q.sent ∧
    (q.receive clocks ended).responseDiscarded = q.responseDiscarded ∧
    (q.receive clocks ended).driven = q.driven ++ fillerIn q.laneMode clocks.length ∧
    (q.receive clocks ended).events = q.events ∧ (q.receive clocks ended).mask = q.mask := by
  cases ended with
  | false => exact ⟨rfl, rfl, rfl, rfl, rfl, rfl⟩
  | true => exact (q.opened.clockIn clocks).endFrame_keeps

/-- R144: the first byte of a frame is its code. -/
theorem PortState.receive_open_code {q : PortState} {clocks : List Lanes} {code : Byte} {more : List Byte}
    (fresh : q.clocks = []) (bytes : (bytesIn q.laneMode clocks).1 = code :: more) :
    (q.receive clocks false).rx.code = some code := by
  have got : (q.receive clocks false).rx = (code :: more).foldl ReceiveBuffer.clockByte ReceiveBuffer.empty := by
    rw [PortState.receive_open]
    simp only [PortState.clockIn, PortState.opened, PortState.toPhase, fresh, List.nil_append, bytes]
  rw [got]
  exact clockBytes_code rfl more

/-- Settles O12: a port outside IDLE keeps its lane mode at the assertion of SEL. -/
theorem frameStartOutsideIdle : Obligations.FrameStartOutsideIdle := by
  intro s p clocks ended code more running bytes command
  have selected (busy : (s.port p).phase ≠ .idle) := (s.port p).select_busy busy
  refine ⟨fun busy => ?_, fun ready => ?_⟩
  · have select := selected (by rcases busy with phase | phase <;> simp [phase])
    refine ⟨_, exec_frameStart_busy ended running (by rw [select]; exact bytes) command busy, s.setPort_after p _, ?_⟩
    rw [State.port_setPort_self, select]
    rfl
  · have select := selected (by simp [ready])
    have moved := exec_frameStart_discards ended running (by rw [select]; exact bytes) command ready
    rw [select] at moved
    refine ⟨_, moved, ?_⟩
    rw [State.port_setPort_self]
    obtain ⟨response, sent, discarded, driven, events, mask⟩ := PortState.receive_keeps
      { s.port p with
        response := none, sent := 0, responseDiscarded := true, restIgnored := false, clocks := [], driven := [] }
      clocks ended
    refine ⟨by rw [State.setPort_eq_portsAfter]; rfl, response, sent, discarded, driven, ?_, events, mask⟩
    rintro rfl
    exact ⟨rfl, PortState.receive_open_code rfl bytes, rfl, rfl⟩

/-! ### Frames abandoned (R145) -/

/-- Log 1: a command is taken no earlier than the present moment. -/
theorem now_le_commandMoment (i : Instr) (s : State) : s.now ≤ commandMoment i s := by
  unfold commandMoment
  split
  · exact Nat.le_max_left _ _
  · exact Nat.le_max_left _ _
  · exact Nat.le_max_left _ _
  · exact Nat.le_refl _

/-- Log 1: the part at the moment a command is taken. -/
theorem State.advance_commandMoment (i : Instr) (s : State) :
    s.advance (commandMoment i s) = { s with now := commandMoment i s } := by
  rw [State.advance, Nat.max_eq_right (now_le_commandMoment i s)]

/-- R145: a command's row whose SCLK periods leave its frame incomplete. -/
theorem State.runCommand_incomplete (s : State) (c : Command) (m : List Byte → State → State × Answer) {p : Port}
    {clocks : List Lanes} (running : s.resetHeld = false) (receiving : (s.port p).phase = .receiving)
    (short : ((s.port p).clockIn clocks).rx.frame? = none) :
    s.runCommand c m p clocks = s.setPort p ((s.port p).clockIn clocks).deselect.abandon := by
  simp only [State.runCommand, running, Bool.false_eq_true, if_false, State.frameEnds, State.frameFails, receiving, short,
    Option.map_none, PortState.endFrame_incomplete short]

/-- Settles O13: FRAME_ABANDONED, RECEIVE_TIMEOUT, then the rows of the commands. -/
theorem framesAreAbandoned : Obligations.FramesAreAbandoned := by
  refine ⟨fun s p running receiving short => ?_, fun i p clocks c s row running receiving short => ?_⟩
  · have opened : (s.port p).frameOpen = true := by simp [PortState.frameOpen, receiving, short]
    refine ⟨?_, fun rest => ?_⟩
    · simp only [exec, execFrameAbandoned, running, opened, Bool.not_true, Bool.or_false, Bool.false_eq_true, if_false,
        State.setPort_eq_portsAfter, PortState.deselect_eq]
      rfl
    · simp only [exec, execReceiveTimeout, running, opened, Bool.not_true, Bool.or_false, Bool.false_eq_true, if_false,
        State.setPort_eq_portsAfter]
      rfl
  · have fails := (s.advance (commandMoment i s)).runCommand_incomplete c (c.rule p) running receiving short
    refine ⟨_, (exec_command row s).trans (congrArg _ fails), ?_⟩
    rw [State.port_setPort_self, State.setPort_eq_portsAfter, State.advance_commandMoment, PortState.deselect_eq]
    exact ⟨rfl, rfl, rfl, rfl, rfl, rfl, rfl, rfl, rfl⟩

end Sys2Proof.Machine
end

section
/-! Refusals (09 §9.5; R146), the port commands (R153, R156, R157) and events (R154, R155). -/

namespace Sys2Proof.Machine

/-! ### Refusals (R146) -/

section
variable {s : State} {p : Port} {clocks : List Lanes} {e : PortState} {f : Frame}
  (frame : s.frameEnds p clocks = some (s.setPort p e, f))
include frame

/-- R144: a port whose frame has ended holds the response it held. -/
theorem State.frameEnds_response : e.response = (s.port p).response := by
  have ended : e = (s.setPort p e).port p := (State.port_setPort_self s p e).symm
  obtain ⟨-, -, h⟩ | ⟨-, -, h⟩ := State.frameEnds_cases frame
  · rw [ended, h, State.port_setPort_self, (PortState.endFrame_keeps _).1]
    rfl
  · rw [ended, h]

/-- R146: a frame in hand is in hand at the moment its command is taken. -/
theorem State.frameEnds_moment (t : Nat) : (s.advance t).frameEnds p clocks = some ((s.advance t).setPort p e, f) := by
  rw [State.frameEnds_advance, frame]
  rfl

/-- R146: a command's frame of another length, or of more than 250 parameters. -/
theorem State.runCommand_unfit {c : Command} (running : s.resetHeld = false) (code : commandOf? f.code = some c)
    (unfit : 250 < f.length ∨ requiredLength c f.params ≠ some f.length) (m : List Byte → State → State × Answer) :
    s.runCommand c m p clocks = s.setPort p (e.holds .badLength []) := by
  refine State.runCommand_badLength running code frame ?_ m
  rw [Frame.lengthFits, Bool.and_eq_false_iff, decide_eq_false_iff_not, beq_eq_false_iff_ne, Nat.not_le]
  exact unfit

/-- R146, R122: a command's frame is answered by the command's rule, or BAD_LENGTH. -/
theorem State.runCommand_refuses {c : Command} {r : Response} (running : s.resetHeld = false)
    (code : commandOf? f.code = some c) (free : (s.port p).response = none)
    (answered : ((s.runCommand c (c.rule p) p clocks).port p).response = some r) (refused : r.status.changesNothing = true) :
    s.runCommand c (c.rule p) p clocks = s.setPort p (e.holds r.status []) := by
  by_cases unfit : 250 < f.length ∨ requiredLength c f.params ≠ some f.length
  · have taken := State.runCommand_unfit frame running code unfit (c.rule p)
    rw [taken, State.port_setPort_self] at answered
    cases answered
    exact taken
  · have taken : s.runCommand c (c.rule p) p clocks =
        (c.rule p f.params (s.setPort p e)).1.answer p (c.rule p f.params (s.setPort p e)).2 := by
      obtain ⟨short, required⟩ := not_or.1 unfit
      have fits : f.lengthFits c = true := by
        simp [Frame.lengthFits, not_ne_iff.1 required, Nat.not_lt.1 short]
      simp only [State.runCommand, running, Bool.false_eq_true, if_false, frame, code, if_true, State.takeFrame, fits]
    rw [taken] at answered ⊢
    cases out : (c.rule p f.params (s.setPort p e)).2 with
    | response r' =>
      obtain rfl : r' = r := by simpa [out, State.answer, PortState.respond] using answered
      obtain ⟨same, plain⟩ := Command.rule_refuses out refused
      rw [same, plain, State.answer_response, State.port_setPort_self, State.setPort_setPort]
      rfl
    | waits =>
      have own : ((c.rule p f.params (s.setPort p e)).1.port p) = e := by
        rw [State.port, (Command.rule_waits out).2]
        exact State.port_setPort_self s p e
      rw [out, State.answer, State.port_setPort_self, own, PortState.toPhase, State.frameEnds_response frame, free] at answered
      cases answered

end

/-- Settles O14: BAD_COMMAND, then BAD_LENGTH and the refusals of the commands' rules. -/
theorem refusalsChangeNothing : Obligations.RefusalsChangeNothing := by
  refine ⟨fun s p clocks e f running frame unnamed => ?_, fun i s p clocks c e f row running frame code => ⟨fun unfit => ?_,
    fun t r free moved answered refused => ?_⟩⟩
  · simp only [exec, execBadCommand, running, Bool.false_eq_true, if_false, frame, unnamed, if_true, State.refuse_setPort]
  · rw [exec_command row, State.runCommand_unfit (State.frameEnds_moment frame _) running code unfit,
      State.setPort_eq_portsAfter, State.advance_commandMoment]
    rfl
  · rw [exec_command row] at moved
    cases moved
    rw [State.runCommand_refuses (State.frameEnds_moment frame _) running code free answered refused,
      State.setPort_eq_portsAfter, State.advance_commandMoment]
    rfl

/-! ### Port commands (R153, R156, R157) -/

section
variable (s : State) (p : Port)

/-- R163: the codes of the lane modes. -/
theorem laneMode?_eq_some {b : Byte} {m : LaneMode} (h : laneMode? b = some m) : bytesOf 1 (laneCode m) = [b] := by
  revert b m
  decide

theorem laneMode?_eq_none {b : Byte} (h : 2 ≤ b.toNat) : laneMode? b = none := by
  revert b
  decide

theorem portModeRule_ok {b : Byte} {m : LaneMode} (h : laneMode? b = some m) : portModeRule p [b] s =
    (s.setPort p { s.port p with modeDue := if m = (s.port p).laneMode then none else some m }, .ok [b]) := by
  simp only [portModeRule, h, laneMode?_eq_some h]

theorem portModeRule_range {b : Byte} (h : 2 ≤ b.toNat) : portModeRule p [b] s = (s, .refuse .range) := by
  simp only [portModeRule, laneMode?_eq_none h]

theorem eventMaskRule_ok {hi lo : Byte} {m : EventSet} (h : m.toNat = numberOf [hi, lo]) :
    eventMaskRule p [hi, lo] s = (s.setPort p ((s.port p).withEvents (s.port p).events m), .ok [hi, lo]) := by
  have small : numberOf [hi, lo] < 512 := h ▸ m.isLt
  have set : BitVec.ofNat 9 (numberOf [hi, lo]) = m := by rw [← h, BitVec.ofNat_toNat, BitVec.setWidth_eq]
  simp only [eventMaskRule, small, if_true, set]
  rw [show bytesOf 2 (numberOf [hi, lo]) = [hi, lo] from bytesOf_numberOf [hi, lo]]

theorem eventMaskRule_range {hi lo : Byte} (h : 512 ≤ numberOf [hi, lo]) :
    eventMaskRule p [hi, lo] s = (s, .refuse .range) := by
  simp only [eventMaskRule, Nat.not_lt.2 h, if_false]

end

/-- Settles O18: the two answers of the rule of PORT_MODE. -/
theorem portModeSetsTheModeDue : Obligations.PortModeSetsTheModeDue := by
  intro s p clocks e b h
  refine ⟨fun m mode => ?_, fun beyond =>
    exec_refuses (i := .portMode p clocks) rfl h rfl (by simp) rfl (portModeRule_range (s.setPort p e) p beyond)⟩
  have taken := exec_answersNow (i := .portMode p clocks) rfl h rfl (by simp) rfl (portModeRule_ok (s.setPort p e) p mode)
  rw [State.port_setPort_self, State.setPort_setPort, State.ok_setPort] at taken
  exact taken

/-- R154, R163: each kind has a bit of its own. -/
theorem getLsbD_eventOf (k j : EventKind) : (eventOf k).getLsbD (eventBit j) = decide (j = k) := by
  cases k <;> cases j <;> rfl

/-- R155: ATTN is asserted exactly when the pending set and the mask meet. -/
theorem attnOf_iff (events mask : EventSet) :
    attnOf events mask = true ↔ ∃ i, events.getLsbD i = true ∧ mask.getLsbD i = true := by
  simp only [attnOf, ne_eq, decide_eq_true_eq]
  constructor
  · intro meets
    by_contra apart
    refine meets (BitVec.eq_of_getLsbD_eq fun i _ => ?_)
    rw [BitVec.getLsbD_and, BitVec.ofNat_eq_ofNat, BitVec.getLsbD_zero, Bool.eq_false_iff, ne_eq, Bool.and_eq_true]
    exact fun both => apart ⟨i, both⟩
  · rintro ⟨i, pending, masked⟩ apart
    have := congrArg (fun x : EventSet => x.getLsbD i) apart
    simp [pending, masked] at this

/-- R155: a port with no event pending. -/
theorem PortState.withEvents_zero (q : PortState) (mask : EventSet) :
    q.withEvents 0 mask = { q with events := 0, mask := mask, attnAsserted := false } := by
  simp [PortState.withEvents, attnOf]

/-- Settles O19: an event raised, then EVENTS. -/
theorem eventsAreRaisedAndRead : Obligations.EventsAreRaisedAndRead := by
  refine ⟨fun q k j => ⟨?_, attnOf_iff _ _, PortState.raise_raise q k, PortState.sameTransaction_raise q k⟩,
    fun s p clocks e h => ?_⟩
  · rw [PortState.raise_events, BitVec.getLsbD_or, getLsbD_eventOf]
  · have small (x : EventSet) : numberOf (bytesOf 2 x.toNat) = x.toNat := numberOf_bytesOf_of_lt (by omega)
    have taken := exec_answersNow (i := .events p clocks) rfl h rfl (by simp) rfl (rule := rfl)
    refine ⟨_, _, _, _, small e.events, small e.mask, taken.trans ?_⟩
    rw [State.port_setPort_self, State.setPort_setPort, State.ok_setPort, PortState.withEvents_zero]
    rfl

/-- Settles O20: the two answers of the rule of EVENT_MASK. -/
theorem eventMaskReplacesTheMask : Obligations.EventMaskReplacesTheMask := by
  intro s p clocks e hi lo h
  by_cases beyond : 512 ≤ numberOf [hi, lo]
  · have taken := exec_refuses (i := .eventMask p clocks) rfl h rfl (by simp) rfl (eventMaskRule_range (s.setPort p e) p beyond)
    rw [← State.setPort_eq_portsAfter] at taken
    refine ⟨_, taken, fun _ => ?_, fun m own => absurd m.isLt (by omega), fun zero => by omega⟩
    rw [State.port_setPort_self, State.setPort_eq_portsAfter]
  · have small := Nat.lt_of_not_le beyond
    have taken (m : EventSet) (own : m.toNat = numberOf [hi, lo]) : exec (.eventMask p clocks) s =
        .next (s.setPort p ((e.withEvents e.events m).holds .ok [hi, lo])) := by
      rw [exec_answersNow (i := .eventMask p clocks) rfl h rfl (by simp) rfl (eventMaskRule_ok (s.setPort p e) p own),
        State.port_setPort_self, State.setPort_setPort, State.ok_setPort, ← State.setPort_eq_portsAfter]
    refine ⟨_, taken (BitVec.ofNat 9 (numberOf [hi, lo])) (Nat.mod_eq_of_lt small), fun big => absurd big beyond,
      fun m own => ?_, fun zero => ?_⟩
    · rw [show BitVec.ofNat 9 (numberOf [hi, lo]) = m by rw [← own, BitVec.ofNat_toNat, BitVec.setWidth_eq],
        State.port_setPort_self, State.setPort_eq_portsAfter]
      rfl
    · rw [State.port_setPort_self, zero]
      exact ⟨rfl, by simp [PortState.holds, PortState.withEvents, attnOf]⟩

end Sys2Proof.Machine
end

section
/-! The bytes of a response (09 §9.5; R149, R121, R123) and their way out of the port (R142, R147, R152, R153). -/

namespace Sys2Proof.Machine

/-! ### The bytes of a response (R149) -/

section
variable (s : State) (p : Port)

/-- R149: the flags byte, bit by bit. -/
theorem flagsByte_bits (q : PortState) : (flagsByte q).getLsbD 7 = q.inputDropped ∧
    (flagsByte q).getLsbD 6 = q.responseDiscarded ∧ (flagsByte q).extractLsb' 0 6 = 0 := by
  unfold flagsByte
  cases q.inputDropped <;> cases q.responseDiscarded <;> decide

/-- R149: the data of a response stand behind its five bytes of status, flags and length. -/
theorem State.responseByte_data {r : Response} {i : Nat} (h : i < r.dataLength) :
    s.responseByte p r (5 + i) = s.dataByte p r i := by
  simp only [State.responseByte, show ¬5 + i = 0 by omega, show ¬5 + i = 1 by omega, show ¬5 + i < 5 by omega,
    show 5 + i < 5 + r.dataLength by omega, if_false, if_true, Nat.add_sub_cancel_left]

/-- R149: filler follows the response. -/
theorem State.responseByte_filler {r : Response} {i : Nat} (h : 5 + r.dataLength ≤ i) : s.responseByte p r i = 0xFF := by
  simp only [State.responseByte, show ¬i = 0 by omega, show ¬i = 1 by omega, show ¬i < 5 by omega,
    show ¬i < 5 + r.dataLength by omega, if_false, fillerByte]

section
variable (lost size : Nat) (id : RecordId)

/-- R121: the bytes of a record's answer begin with the lost count. -/
theorem State.responseByte_lost :
    [s.responseByte p ⟨.ok, .record lost id size⟩ 5, s.responseByte p ⟨.ok, .record lost id size⟩ 6] = bytesOf 2 lost := by
  rw [show 5 = 5 + 0 from rfl, show 6 = 5 + 1 from rfl, State.responseByte_data s p (Nat.succ_pos _),
    State.responseByte_data s p (show 1 < size + 3 by omega)]
  rfl

/-- R121, R123: then come the bytes of the record, zero after a cut. -/
theorem State.responseByte_record {i : Nat} (h : i < size) : s.responseByte p ⟨.ok, .record lost id size⟩ (7 + i) =
    if s.answerCut p then 0 else s.storedByte id i := by
  rw [show 7 + i = 5 + (2 + i) by omega, State.responseByte_data s p (show 2 + i < size + 3 by omega)]
  simp only [State.dataByte, show ¬2 + i < 2 by omega, show 2 + i < 2 + size by omega, if_false, if_true,
    Nat.add_sub_cancel_left]

/-- R121, R123: and last the trailer. -/
theorem State.responseByte_trailer :
    s.responseByte p ⟨.ok, .record lost id size⟩ (7 + size) = trailerByte (s.answerCut p) := by
  rw [show 7 + size = 5 + (2 + size) by omega, State.responseByte_data s p (show 2 + size < size + 3 by omega)]
  simp only [State.dataByte, show ¬2 + size < 2 by omega, Nat.lt_irrefl, if_false]

end

variable {s p}

/-- R123: a record that no transfer of the port has seen cut. -/
theorem State.answerCut_eq_false (h : ∀ x, (s.feed p).transfer = some x → x.cut = false) : s.answerCut p = false := by
  unfold State.answerCut
  split
  · next x own => exact h x own
  · rfl

/-- R123: a record cut in transfer. -/
theorem State.answerCut_eq_true {x : Transfer} (own : (s.feed p).transfer = some x) (cut : x.cut = true) :
    s.answerCut p = true := by
  simp only [State.answerCut, own, cut]

end

/-- Settles O16: the fields of a response, its data, and the data of a record's answer, whole and cut. -/
theorem responseLayout : Obligations.ResponseLayout := by
  refine ⟨fun s p r small => ?_, fun s p st data i h => ?_, fun s p lost id size small whole => ?_,
    fun s p lost id before after r ring own fresh whole i h => ?_, fun s p lost id size x transfer cut => ?_⟩
  · obtain ⟨dropped, discarded, rest⟩ := flagsByte_bits (s.port p)
    exact ⟨rfl, dropped, discarded, rest, numberOf_bytesOf_of_lt (k := 3) small, fun i h => s.responseByte_filler p h⟩
  · rw [State.responseByte_data s p (r := ⟨st, .bytes data⟩) h]
    simp [State.dataByte, h]
  · have cut := State.answerCut_eq_false whole
    refine ⟨by rw [State.responseByte_lost, numberOf_bytesOf_of_lt small], fun i h => ?_, ?_⟩
    · rw [State.responseByte_record s p lost size id h, cut]
      rfl
    · rw [State.responseByte_trailer, cut]
      rfl
  · subst own
    rw [State.responseByte_record s p lost _ _ h, State.answerCut_eq_false whole, State.storedByte_of_ring ring fresh]
    simp [h]
  · have cut := State.answerCut_eq_true transfer cut
    refine ⟨fun i h => ?_, ?_⟩
    · rw [State.responseByte_record s p lost size id h, cut]
      rfl
    · rw [State.responseByte_trailer, cut]
      rfl

end Sys2Proof.Machine
end

section
/-! The transfers of a response (09 §9.3, §9.5; R142, R143, R147, R149, R152, R153): READ in each phase, transfers without a
code, and the deassertion of SEL in SENDING. -/

namespace Sys2Proof.Machine

/-! ### READ -/

section
variable {s : State} {p : Port} {clocks : List Lanes} {r : Response}

/-- R149: the bytes of a response read the flags of its port and nothing else of it. -/
theorem State.responseByte_setPort {x : PortState} (dropped : x.inputDropped = (s.port p).inputDropped)
    (discarded : x.responseDiscarded = (s.port p).responseDiscarded) (i : Nat) :
    (s.setPort p x).responseByte p r i = s.responseByte p r i := by
  have flags : flagsByte ((s.setPort p x).port p) = flagsByte (s.port p) := by
    rw [State.port_setPort_self, flagsByte, flagsByte, dropped, discarded]
  rw [State.responseByte, flags]
  rfl

/-- R142, R163: what the port drives, by the whole bytes that the SCLK periods make. -/
theorem State.drives_eq (s : State) (p : Port) (r : Response) (clocks : List Lanes) :
    s.drives p r (s.port p).clocks.length clocks.length =
      (((List.range ((bytesIn (s.port p).laneMode ((s.port p).clocks ++ clocks)).1.length + 1)).flatMap fun i =>
        drivenByte (s.port p).laneMode (s.responseByte p r ((s.port p).sent + i))).drop (s.port p).clocks.length).take
          clocks.length := by
  rw [State.drives, length_bytesIn, List.length_append]

/-- R142, R147: READ at a port with no response to send drives filler only. -/
theorem exec_read_filler {more : List Byte} (running : s.resetHeld = false)
    (phase : (s.port p).phase = .idle ∨ (s.port p).phase = .executing ∨ (s.port p).phase = .waiting)
    (bytes : (bytesIn (s.port p).select.laneMode clocks).1 = readCode :: more) :
    exec (.read p clocks) s = .next (s.setPort p { (s.port p).select with
      driven := fillerIn (s.port p).select.laneMode (bytePeriods (s.port p).select.laneMode) ++
        fillerOut (s.port p).select.laneMode (clocks.length - bytePeriods (s.port p).select.laneMode) }) := by
  rcases phase with phase | phase | phase <;>
    simp only [exec, execRead, running, Bool.false_eq_true, if_false, State.readTransfer, bytes, List.head?_cons, if_true,
      phase]

/-- R142, R149: a port that has taken READ and begins to send. -/
def PortState.begun (q : PortState) : PortState := { q with
  phase := .sending, readyHigh := true, restIgnored := false, clocks := []
  driven := fillerIn q.laneMode (bytePeriods q.laneMode) }

theorem PortState.begun_laneMode (q : PortState) : q.begun.laneMode = q.laneMode := rfl
theorem PortState.begun_sent (q : PortState) : q.begun.sent = q.sent := rfl
theorem PortState.begun_clocks (q : PortState) : q.begun.clocks = [] := rfl
theorem PortState.begun_inputDropped (q : PortState) : q.begun.inputDropped = q.inputDropped := rfl
theorem PortState.begun_responseDiscarded (q : PortState) : q.begun.responseDiscarded = q.responseDiscarded := rfl

/-- R149: READ at a port in RESPONSE_READY begins to send. -/
theorem exec_read_sends {more : List Byte} (running : s.resetHeld = false) (ready : (s.port p).phase = .responseReady)
    (bytes : (bytesIn (s.port p).laneMode clocks).1 = readCode :: more) :
    exec (.read p clocks) s =
      .next ((s.setPort p (s.port p).begun).send p (clocks.drop (bytePeriods (s.port p).laneMode))) := by
  have select := (s.port p).select_busy (by simp [ready])
  simp only [exec, execRead, running, Bool.false_eq_true, if_false, State.readTransfer, select, bytes, List.head?_cons,
    if_true, ready]
  rfl

/-- R149, R152: so the first bytes of the response go out, as many as whole bytes follow the transfer code. -/
theorem exec_read_sent {more : List Byte} (running : s.resetHeld = false) (ready : (s.port p).phase = .responseReady)
    (held : (s.port p).response = some r) (unsent : (s.port p).sent = 0)
    (bytes : (bytesIn (s.port p).laneMode clocks).1 = readCode :: more) :
    exec (.read p clocks) s = .next ((s.setFeed p { s.feed p with
        transfer := (s.feed p).transfer.bind fun x => x.advance (min (5 + r.dataLength) more.length) }).setPort p
      { s.port p with
        phase := .sending, readyHigh := true, restIgnored := false
        sent := min (5 + r.dataLength) more.length
        inputDropped := (s.port p).inputDropped && decide (more.length < 2)
        responseDiscarded := (s.port p).responseDiscarded && decide (more.length < 2)
        clocks := (bytesIn (s.port p).laneMode (clocks.drop (bytePeriods (s.port p).laneMode))).2
        driven := fillerIn (s.port p).laneMode (bytePeriods (s.port p).laneMode) ++
          ((List.range (more.length + 1)).flatMap fun i => drivenByte (s.port p).laneMode (s.responseByte p r i)).take
            (clocks.length - bytePeriods (s.port p).laneMode) }) := by
  have later := (bytesIn_drop bytes).2
  have reports : (!decide (0 ≤ 1 ∧ 1 < more.length)) = decide (more.length < 2) := by
    rw [← decide_not, decide_eq_decide]
    omega
  have carried (i : Nat) : (s.setPort p (s.port p).begun).responseByte p r i = s.responseByte p r i :=
    State.responseByte_setPort (x := (s.port p).begun) rfl rfl i
  have drives := (s.setPort p (s.port p).begun).drives_eq p r (clocks.drop (bytePeriods (s.port p).laneMode))
  rw [State.port_setPort_self] at drives
  simp only [PortState.begun_laneMode, PortState.begun_sent, PortState.begun_clocks, unsent, Nat.zero_add,
    List.nil_append, later, List.length_nil, List.drop_zero, List.length_drop, carried] at drives
  rw [exec_read_sends running ready bytes, State.send_eq (r := r) _ (by rw [State.port_setPort_self]; exact held),
    State.port_setPort_self, State.setPort_setPort]
  simp only [PortState.begun_laneMode, PortState.begun_sent, PortState.begun_clocks, unsent, Nat.zero_add,
    List.nil_append, later, List.length_nil, List.length_drop, drives, State.setPort_feed, PortState.begun_inputDropped,
    PortState.begun_responseDiscarded, reports]
  cases p <;> rfl

/-- R142: filler while the transfer code comes in and after it, in either lane mode. -/
theorem filler_eq (m : LaneMode) (n : Nat) : bytePeriods m ≤ n →
    fillerIn m (bytePeriods m) ++ fillerOut m (n - bytePeriods m) = match m with
      | .single => List.replicate n (.d1 true)
      | .quad => List.replicate 2 .released ++ List.replicate (n - 2) (.all 15) := by
  intro h
  cases m with
  | single =>
    rw [bytePeriods] at h
    simp only [fillerIn, fillerOut, bytePeriods, List.replicate_append_replicate]
    congr
    omega
  | quad => rfl

/-- 09 §9.3: while an assertion is open no transfer begins. -/
theorem State.transfers_open {s : State} {p : Port} (clocks : List Lanes) (ended : Bool)
    (opened : (s.port p).phase = .receiving ∨ (s.port p).phase = .sending) :
    s.readTransfer p clocks = s ∧ s.frameStart p clocks ended = s := by
  have busy : (s.port p).inTransfer = true := by simpa [PortState.inTransfer] using opened
  have codeless : s.codelessTransfer p clocks.length = s := by simp only [State.codelessTransfer, busy, if_true]
  rcases opened with phase | phase <;> simp only [State.readTransfer, State.frameStart, codeless, phase, ite_self] <;>
    exact ⟨by split <;> rfl, by split <;> rfl⟩

/-! ### The end of a response -/

/-- R123, R149: a response that leaves its port with more of it sent. -/
theorem State.dropResponse_sent (s : State) (p : Port) (x y : PortState) (f : FeedState) :
    (((s.setPort p x).setFeed p f).dropResponse p).setPort p y = (s.setFeed p { f with transfer := none }).setPort p y := by
  cases p <;> rfl

/-- R149, R153: the deassertion of SEL in SENDING. -/
theorem exec_responseEnd (running : s.resetHeld = false) (sending : (s.port p).phase = .sending)
    (held : (s.port p).response = some r) :
    let whole := (bytesIn (s.port p).laneMode ((s.port p).clocks ++ clocks)).1.length
    let reports := decide ((s.port p).sent ≤ 1 ∧ 1 < (s.port p).sent + whole)
    exec (.responseEnd p clocks) s = .next ((s.setFeed p { s.feed p with transfer := none }).setPort p { s.port p with
      phase := .idle, readyHigh := true, response := none, sent := 0
      laneMode := (s.port p).modeDue.getD (s.port p).laneMode, modeDue := none, clocks := [], restIgnored := false
      inputDropped := (s.port p).inputDropped && !reports
      responseDiscarded := (s.port p).responseDiscarded && !reports
      driven := (s.port p).driven ++ s.drives p r (s.port p).clocks.length clocks.length }) := by
  dsimp only
  simp only [exec, execResponseEnd, running, Bool.false_eq_true, if_false, State.endResponse, sending, if_true,
    State.send_eq clocks held, State.dropResponse_port, State.setFeed_port, State.port_setPort_self,
    State.dropResponse_sent, PortState.deselect_eq]
  rfl

end

/-- Settles O17: READ in RESPONSE_READY, READ where there is no response, transfers without a code, assertions open
already, and the deassertion in SENDING. -/
theorem responsesAreSent : Obligations.ResponsesAreSent := by
  refine ⟨fun s p clocks r more running ready held unsent bytes => ?_, fun s p clocks more running phase bytes => ?_,
    fun s p clocks ended running receiving sending bytes => ?_, fun s p clocks ended running opened => ?_,
    fun s p clocks r running sending held => ?_⟩
  · refine ⟨_, exec_read_sent running ready held unsent bytes, ?_⟩
    rw [State.port_setPort_self]
    exact ⟨by rw [State.setPort_eq_portsAfter]; rfl, rfl, by cases (s.port p).laneMode <;> rfl⟩
  · refine ⟨_, exec_read_filler running phase bytes, s.setPort_after p _, ?_⟩
    rw [State.port_setPort_self]
    have same := (s.port p).select_eq
    refine ⟨rfl, ?_, ?_, ?_, filler_eq _ _ (bytesIn_drop bytes).1⟩ <;> rw [same]
  · have idle : (s.port p).inTransfer = false := by simp [PortState.inTransfer, receiving, sending]
    obtain ⟨start, read⟩ := s.codeless_rows p clocks ended bytes
    obtain ⟨opened, -⟩ | ⟨-, codeless⟩ := s.codelessTransfer_cases p clocks.length
    · rw [idle] at opened
      cases opened
    · refine ⟨_, ?_, ?_, (s.setPort_eq_portsAfter p _)⟩
      · simp only [exec, execRead, running, Bool.false_eq_true, if_false, read, codeless]
      · simp only [exec, execFrameStart, running, Bool.false_eq_true, if_false, start, codeless]
  · obtain ⟨read, start⟩ := State.transfers_open clocks ended opened
    exact ⟨by simp only [exec, execRead, running, Bool.false_eq_true, if_false, read],
      by simp only [exec, execFrameStart, running, Bool.false_eq_true, if_false, start]⟩
  · refine ⟨_, exec_responseEnd running sending held, ?_⟩
    rw [State.port_setPort_self, State.drives_eq]
    exact ⟨by rw [State.setPort_eq_portsAfter]; rfl, rfl, rfl, rfl, rfl, rfl, rfl, rfl, rfl, rfl, rfl, rfl⟩

end Sys2Proof.Machine
end

section
/-! The part right after reset (R159, 00 §4, the columns "After reset" of 01 to 09). -/

namespace Sys2Proof.Machine

theorem State.reset_port (p : Port) : State.reset.port p = PortState.reset true := by cases p <;> rfl

theorem State.reset_feed (p : Port) : State.reset.feed p = FeedState.reset := by cases p <;> rfl

theorem State.reset_link (l : LinkId) : State.reset.link l = LinkRx.reset := by cases l <;> rfl

theorem State.reset_region (f : Feed) : (State.reset.region f).ring = [] ∧ (State.reset.region f).filling = none := by
  cases f <;> exact ⟨rfl, rfl⟩

/-- R42: the link of a number below 4. -/
theorem linkNumber_ofNumber {n : Nat} (h : n < 4) : linkNumber (LinkId.ofNumber n) = n := by
  match n, h with
  | 0, _ | 1, _ | 2, _ | 3, _ => rfl

/-- R61: the gains after reset, entry by entry. -/
theorem GainTable.reset_entry (b : Fin 4) (t : Fin 64) :
    (GainTable.reset[b])[t] = ⟨if (b = 0 ∧ t = 0) ∨ (b = 1 ∧ t = 1) then 32768 else 0, false⟩ := by
  have unity : (b.val = t.val ∧ b.val < 2) ↔ (b = 0 ∧ t = 0) ∨ (b = 1 ∧ t = 1) := by
    simp only [Fin.ext_iff, Fin.val_zero, Fin.val_one]
    omega
  rw [GainTable.reset, getElem_tableOf, getElem_tableOf]
  simp only [unity]

/-- R114, R117: a region without records. -/
theorem Region.Sound.of_empty {r : Region} (ring : r.ring = []) (filling : r.filling = none) : r.Sound := by
  constructor <;> simp [ring, filling]

/-- Settles O3, block by block. -/
theorem resetIsSound : Obligations.ResetIsSound := by
  refine ⟨portsSound_resetAt ⟨rfl, rfl, rfl⟩, fun l => (State.reset_link l).symm ▸ LinkRx.reset_sound,
    Timebase.resetAt_sound 0, Take.reset_sound, RateControl.reset_sound, Cues.reset_sound,
    fun f => .of_empty (State.reset_region f).1 (State.reset_region f).2, State.holdings_iff.2 ⟨?_, ?_⟩⟩
  · exact .of_empty State.reset_region fun p => by rw [State.reset_feed]; rfl
  · exact .of_nothing (fun f => (State.reset_region f).2) nofun

/-- Settles O2: the two rows of the reset, then the tables block by block. -/
theorem resetReturnsEveryBlock : Obligations.ResetReturnsEveryBlock := by
  refine ⟨fun s t => rfl, fun s t held => ?_, fun l => ?_, rfl, rfl, rfl, rfl, rfl, rfl, rfl, fun t => ?_, rfl, rfl,
    fun b t => ?_, rfl, rfl, rfl, rfl, rfl, rfl, rfl, rfl, fun p => ?_, rfl, fun p => ?_⟩
  · simp only [exec, execResetEnd, held, if_true]
    rfl
  · rw [State.reset_link]
    exact ⟨rfl, rfl, rfl, rfl, rfl, rfl, rfl⟩
  · have entry : State.reset.framer.map[t] = TrackEntry.reset t := getElem_tableOf _ t
    rw [entry]
    exact ⟨rfl, linkNumber_ofNumber (by omega), rfl, getElem_tableOf _ t⟩
  · exact GainTable.reset_entry b t
  · rw [State.reset_feed]
    rfl
  · rw [State.reset_port]
    exact ⟨rfl, rfl, rfl, rfl, rfl, rfl, rfl, rfl⟩

end Sys2Proof.Machine
end

section
/-! One step of the part, by its queue (95, opening). -/

namespace Sys2Proof.Machine

/-- Log 3: an empty queue leaves the part as it is. -/
theorem step_of_pending_nil {s : State} (idle : s.pending = []) : step s = .next s := by
  simp only [step, idle]

/-- 95, opening: the step taken is the one at the front of the queue, and it finds only the queue's rest waiting. -/
theorem step_of_pending_cons {s : State} {c : Instr} {rest : List Instr} (queue : s.pending = c :: rest) :
    step s = exec c { s with pending := rest } := by
  simp only [step, queue]

/-- Settles O1, by the queue: one with a step at its front, and an empty one. -/
theorem stepTakesTheFrontOfTheQueue : Obligations.StepTakesTheFrontOfTheQueue := by
  refine ⟨fun c rest s => ?_, fun s idle => step_of_pending_nil idle⟩
  have queue : { s with pending := c :: rest }.pending = c :: rest := rfl
  exact step_of_pending_cons queue

end Sys2Proof.Machine
end
